-- ==== Sys2Proof/Word.lean ====
section
/-! DEFINITION. The word types of the GL-24 (01 R15, 06 R91, 07 R113, 09 R148) and one register lane with its
poison (08 R146). Bit-field and byte-order helpers stand in Machine/Bits.lean. -/

namespace Sys2Proof

/-- A scalar register or a control and status register: 64 bits (R113, R114). -/
abbrev Word := BitVec 64

/-- One lane of a vector register: 32 bits (R148). -/
abbrev LaneWord := BitVec 32

/-- A byte of memory. -/
abbrev Byte := BitVec 8

/-- A schedule word: 80 bits (R92). -/
abbrev SchedWord := BitVec 80

/-- A control word: 40 bits (R101). -/
abbrev CtrlWord := BitVec 40

/-- A 32-bit lane with its poison bit and the 9-bit region element index of the element that created the
poison (R146). -/
structure Lane where
  v : LaneWord := 0
  p : Bool := false
  o : BitVec 9 := 0
deriving DecidableEq, Repr, Inhabited

/-- A lane that carries no poison. -/
def Lane.clean (v : LaneWord) : Lane := { v := v }

end Sys2Proof
end

