-- ==== Sys2Proof/Syntax.lean ====
section
/-! DEFINITION. The syntax of the GL-24's steps, whole: one constructor of `Instr` for each row of
spec/opcode_table.json. Schedule words (R92 to R100) carry their typed operands in `SOp`; control words (R101 to
R103) carry registers and immediates; the rows that are no words (host writes, loader, allocator, memory and matrix
events, faults, votes, resets) carry what the event names. -/

namespace Sys2Proof

/-- Integer types (R42), in the order of their type codes (R99). -/
inductive IntTy | i8 | i16 | i32 | n8 | n16 | n32
deriving DecidableEq, Repr, Inhabited

/-- Float types (R43), in the order of their type codes (R99). -/
inductive FltTy | f32 | f16 | bf16
deriving DecidableEq, Repr, Inhabited

/-- The formats of `cvt`, by format index (R100). -/
inductive Fmt | i8 | i16 | i32 | n8 | n16 | n32 | f32 | f16 | bf16 | e4m3 | e5m2 | e2m1
deriving DecidableEq, Repr, Inhabited

/-- Microscaling formats (R51). -/
inductive MxTy | mxi8 | mxf8 | mxf4
deriving DecidableEq, Repr, Inhabited

/-- Integer compare conditions (R155). -/
inductive Cond | eq | ne | lt | le | gt | ge
deriving DecidableEq, Repr, Inhabited

/-- Float compare conditions (R162). -/
inductive FCond | eq | ne | lt | le | un
deriving DecidableEq, Repr, Inhabited

/-- Scalar compare conditions (R117). -/
inductive KCond | eq | ne | lt | ltu | ge | geu
deriving DecidableEq, Repr, Inhabited

/-- The suffixes of `pack` and `unpack`, in the order of their minors (R100). -/
inductive PackTy | i16 | n16 | i8 | n8 | f16 | bf16
deriving DecidableEq, Repr, Inhabited

/-- The suffixes of `mfa` and of the unplaned forms of `mfb`, in the order of their minors (R100). -/
inductive MTy | e4m3 | e5m2 | i8 | n8 | f16 | bf16 | mxf8 | mxi8 | e2m1 | mxf4
deriving DecidableEq, Repr, Inhabited

/-- A stored form of B (R188): a typed form, or a bit-plane form with k + 2 planes. -/
inductive BForm | ty (t : MTy) | bp (k : Fin 7)
deriving DecidableEq, Repr, Inhabited

/-- Sequencer load widths (R119), in the order of their minors (R102). -/
inductive LdTy | i8 | n8 | i16 | n16 | i32 | n32 | i64
deriving DecidableEq, Repr, Inhabited

/-- Sequencer store widths (R119). -/
inductive StTy | i8 | i16 | i32 | i64
deriving DecidableEq, Repr, Inhabited

/-- The 32-bit reduction types of `rsum` and `segscan` (R171, R172). -/
inductive RedTy | i32 | f32
deriving DecidableEq, Repr, Inhabited

/-- The types of `rmax` (R171). -/
inductive MaxTy | i32 | n32 | f32
deriving DecidableEq, Repr, Inhabited

/-- Types of `sts` (R215). -/
inductive StsTy | n32 | n8 | n16
deriving DecidableEq, Repr, Inhabited

/-- Types of `ldt` (R216). -/
inductive LdtTy | n32 | n16
deriving DecidableEq, Repr, Inhabited

/-- Signedness of `atom.min` and `atom.max` (R239). -/
inductive AtomTy | i32 | n32
deriving DecidableEq, Repr, Inhabited

/-- Neighbour directions (R95). -/
inductive Dir | north | south | east | west
deriving DecidableEq, Repr, Inhabited

/-- Rounding modes of RND (R48); codes 2 and 3 are reserved. -/
inductive Rnd | rne | rtz
deriving DecidableEq, Repr, Inhabited

/-- Destinations (R94). -/
inductive Dst
  | g (n : Fin 16) | q (n : Fin 32) | site | send | xfer | feed | mask | wbuf | res | seq
deriving DecidableEq, Repr, Inhabited

/-- Sources (R95): an own register, a neighbour's result register with the DST code it was written under, the
immediate, a port, or a sequencer broadcast. -/
inductive Src
  | g (n : Fin 16) | q (n : Fin 32) | nbr (d : Dir) (code : BitVec 6) | imm
  | lb (n : Fin 4) | siteP | recvP | ddaP | bcast (n : Fin 32)
deriving DecidableEq, Repr, Inhabited

/-- The operand fields of a schedule word after MAJ and MIN (R92). `fold` holds beats minus 1. -/
structure SOp where
  fold : Fin 8 := 0
  colF : BitVec 5 := 0
  colL : BitVec 5 := 0
  dst : Dst := .g 0
  a : Src := .g 0
  b : Src := .g 0
  predNeg : Bool := false
  predMask : Fin 8 := 0
  win : BitVec 6 := 0
  rnd : Rnd := .rne
  sat : Bool := false
  pchk : Bool := false
  last : Bool := false
  imm : BitVec 16 := 0
deriving DecidableEq, Repr, Inhabited

/-- A scalar register a0 to a31 (R5). -/
abbrev AReg := Fin 32

/-- A predicate k0 to k7 (R5). -/
abbrev KReg := Fin 8

/-- The token lines that `ctok` may name (R127): 2, 3 and 4. -/
inductive CtokLine | step | clear | unit
deriving DecidableEq, Repr, Inhabited

/-- The two host ports (R74). -/
inductive HostPort | A | B
deriving DecidableEq, Repr, Inhabited

/-- A token write (R64): its header's SEQ and LEN and its 56 payload bytes. TYPE is the constructor's own. -/
structure Token where
  host : HostPort := .A
  port : Fin 16 := 0
  seq : BitVec 12 := 0
  len : BitVec 8 := 0
  payload : BitVec 448 := 0
deriving DecidableEq, Repr, Inhabited

/-- Why a write to a token window is no token (R64, R71): size or alignment, or a bad header. -/
inductive BadToken | size | header
deriving DecidableEq, Repr, Inhabited

/-- Why a read of host memory failed: a failing answer, or a link that aborted it (R351, cause 43). -/
inductive ReadFail | fault | abort
deriving DecidableEq, Repr, Inhabited

/-- What the loader's read of an object brought (R313 causes 12 and 13): its bytes, a failed read, or bytes whose
read-back after writing met an uncorrectable word in the given page (R325). -/
inductive LoadRead | bytes (b : List Byte) | fails (why : ReadFail) | ecc (page : Nat) (b : List Byte)
deriving DecidableEq, Repr, Inhabited

/-- What a transfer unit's read of one 64-byte unit brought (R243, R245): the device's own memory answers, outside
memory answers with bytes, or the unit fails. -/
inductive UnitRead | own | outside (d : BitVec 512) | fails | refused | aborted
deriving DecidableEq, Repr, Inhabited

/-- What a voter observed of a cluster in one period (R328). -/
inductive Observed | onTime | miss | babbling
deriving DecidableEq, Repr, Inhabited

/-- A link of the module (R351, R354). -/
inductive Link | host (h : HostPort) | peer (n : Fin 16)
deriving DecidableEq, Repr, Inhabited

/-- Where a temperature passes its limit (R359). -/
inductive Hot | inlet | flow | die (n : Fin 8)
deriving DecidableEq, Repr, Inhabited

/-- A flit (R354): its SEQ, TYPE and ACK fields, its payload, whether its CRC-64 holds, and how often it has been replayed. -/
structure Flit where
  seq : BitVec 12 := 0
  type : BitVec 4 := 0
  ack : BitVec 12 := 0
  payload : BitVec 1920 := 0
  crcOk : Bool := true
  replays : Nat := 0
deriving DecidableEq, Repr, Inhabited

/-- What a firmware image is signed with (R356): the key, x then y, and the signature, r then s, 48 bytes each. -/
structure Signed where
  key : List Byte := []
  sig : List Byte := []
deriving DecidableEq, Repr, Inhabited

/-- The steps of the device: one constructor for each row of spec/opcode_table.json. -/
inductive Instr
  /-- NOP: `nop` (R176). -/
  | nop (o : SOp)
  /-- PASS: `pass` (R177). -/
  | pass (o : SOp)
  /-- PTEST: `ptest` (R178). -/
  | ptest (o : SOp)
  /-- ADD: `add.T` (R154). -/
  | add (t : IntTy) (o : SOp)
  /-- SUB: `sub.T` (R154). -/
  | sub (t : IntTy) (o : SOp)
  /-- MUL: `mul.T` (R154). -/
  | mul (t : IntTy) (o : SOp)
  /-- MULH: `mulh.T` (R154). -/
  | mulh (t : IntTy) (o : SOp)
  /-- MAD: `mad.T` (R154). -/
  | mad (t : IntTy) (o : SOp)
  /-- MIN: `min.T` (R154). -/
  | min (t : IntTy) (o : SOp)
  /-- MAX: `max.T` (R154). -/
  | max (t : IntTy) (o : SOp)
  /-- ABS: `abs.T` (R154). -/
  | abs (t : IntTy) (o : SOp)
  /-- NEG: `neg.T` (R155). -/
  | neg (t : IntTy) (o : SOp)
  /-- CMP: `cmp.c.T` (R155). -/
  | cmp (c : Cond) (t : IntTy) (o : SOp)
  /-- SEL: `sel.T` (R156). -/
  | sel (t : IntTy) (o : SOp)
  /-- AND: `and` (R157). -/
  | and (o : SOp)
  /-- OR: `or` (R157). -/
  | or (o : SOp)
  /-- XOR: `xor` (R157). -/
  | xor (o : SOp)
  /-- ANDN: `andn` (R157). -/
  | andn (o : SOp)
  /-- SHL: `shl` (R157). -/
  | shl (o : SOp)
  /-- SHR: `shr` (R157). -/
  | shr (o : SOp)
  /-- SRA: `sra` (R157). -/
  | sra (o : SOp)
  /-- ROT: `rot` (R157). -/
  | rot (o : SOp)
  /-- CLZ: `clz` (R157). -/
  | clz (o : SOp)
  /-- POPC: `popc` (R157). -/
  | popc (o : SOp)
  /-- BFX_N32: `bfx.n32` (R158). -/
  | bfxN32 (o : SOp)
  /-- BFX_I32: `bfx.i32` (R158). -/
  | bfxI32 (o : SOp)
  /-- BFI: `bfi.n32` (R158). -/
  | bfi (o : SOp)
  /-- FADD: `fadd.T` (R159). -/
  | fadd (t : FltTy) (o : SOp)
  /-- FSUB: `fsub.T` (R159). -/
  | fsub (t : FltTy) (o : SOp)
  /-- FMUL: `fmul.T` (R159). -/
  | fmul (t : FltTy) (o : SOp)
  /-- FMA: `fma.T` (R159). -/
  | fma (t : FltTy) (o : SOp)
  /-- FMIN: `fmin.T` (R159). -/
  | fmin (t : FltTy) (o : SOp)
  /-- FMAX: `fmax.T` (R159). -/
  | fmax (t : FltTy) (o : SOp)
  /-- FABS: `fabs.T` (R159). -/
  | fabs (t : FltTy) (o : SOp)
  /-- FNEG: `fneg.T` (R159). -/
  | fneg (t : FltTy) (o : SOp)
  /-- FCMP: `fcmp.c.T` (R162). -/
  | fcmp (c : FCond) (t : FltTy) (o : SOp)
  /-- FCLASS: `fclass.T` (R162). -/
  | fclass (t : FltTy) (o : SOp)
  /-- FSCALE: `fscale.T` (R161). -/
  | fscale (t : FltTy) (o : SOp)
  /-- FROUND: `fround.T` (R159). -/
  | fround (t : FltTy) (o : SOp)
  /-- CVT: `cvt.D.S` (R163); the source format stands in SBI. -/
  | cvt (d s : Fmt) (o : SOp)
  /-- MXQ: `mxq.F` (R165). -/
  | mxq (f : MxTy) (o : SOp)
  /-- MXDQ: `mxdq.F` (R166). -/
  | mxdq (f : MxTy) (o : SOp)
  /-- BPSPLIT: `bpsplit` (R167). -/
  | bpsplit (o : SOp)
  /-- BPJOIN: `bpjoin` (R167). -/
  | bpjoin (o : SOp)
  /-- PACK: `pack.T` (R168). -/
  | pack (t : PackTy) (o : SOp)
  /-- UNPACK: `unpack.T` (R168). -/
  | unpack (t : PackTy) (o : SOp)
  /-- PERM: `perm.n32` (R170). -/
  | perm (o : SOp)
  /-- BCAST: `bcast.n32` (R170). -/
  | bcast (o : SOp)
  /-- LSH: `lsh.n32` (R170). -/
  | lsh (o : SOp)
  /-- RSUM: `rsum.T` (R171). -/
  | rsum (t : RedTy) (o : SOp)
  /-- RMAX: `rmax.T` (R171). -/
  | rmax (t : MaxTy) (o : SOp)
  /-- SEGSCAN: `segscan.T` (R172). -/
  | segscan (t : RedTy) (o : SOp)
  /-- GRP: `grp.n32` (R173). -/
  | grp (o : SOp)
  /-- LUT: `lut.f32` (R175). -/
  | lut (o : SOp)
  /-- LUTR: `lutr.f32` (R175). -/
  | lutr (o : SOp)
  /-- LUTC: `lutc.f32` (R175). -/
  | lutc (o : SOp)
  /-- LDS: `lds.n32` (R215). -/
  | lds (o : SOp)
  /-- STS: `sts.T` (R215). -/
  | sts (t : StsTy) (o : SOp)
  /-- LDX: `ldx.n32` (R215). -/
  | ldx (o : SOp)
  /-- STX: `stx.n32` (R215). -/
  | stx (o : SOp)
  /-- LDT: `ldt.T` (R216). -/
  | ldt (t : LdtTy) (o : SOp)
  /-- SEND: `send.n32` (R220). -/
  | send (o : SOp)
  /-- RECV: `recv.n32` (R220). -/
  | recv (o : SOp)
  /-- LDW: `ldw.n32` (R235). -/
  | ldw (o : SOp)
  /-- STW: `stw.n32` (R237). -/
  | stw (o : SOp)
  /-- LDSY: `ldsy.n32` (R236). -/
  | ldsy (o : SOp)
  /-- MCAST: `mcast.n32` (R238). -/
  | mcast (o : SOp)
  /-- ATOM_ADD: `atom.add.T` (R239). -/
  | atomAdd (t : RedTy) (o : SOp)
  /-- ATOM_MIN: `atom.min.T` (R239). -/
  | atomMin (t : AtomTy) (o : SOp)
  /-- ATOM_MAX: `atom.max.T` (R239). -/
  | atomMax (t : AtomTy) (o : SOp)
  /-- ATOM_AND: `atom.and.n32` (R239). -/
  | atomAnd (o : SOp)
  /-- ATOM_OR: `atom.or.n32` (R239). -/
  | atomOr (o : SOp)
  /-- ATOM_XOR: `atom.xor.n32` (R239). -/
  | atomXor (o : SOp)
  /-- ATOM_XCHG: `atom.xchg.n32` (R239). -/
  | atomXchg (o : SOp)
  /-- ATOM_CAS: `atom.cas.n32` (R239). -/
  | atomCas (o : SOp)
  /-- ATOM_INC: `atom.inc.n32` (R239). -/
  | atomInc (o : SOp)
  /-- TREQ: `treq` (R241). -/
  | treq (o : SOp)
  /-- MFA: `mfa.T` (R184). -/
  | mfa (t : MTy) (o : SOp)
  /-- MFB: `mfb.F` (R188). -/
  | mfb (f : BForm) (o : SOp)
  /-- MZERO: `mzero` (R194). -/
  | mzero (o : SOp)
  /-- MDRAIN: `mdrain.F` (R195). -/
  | mdrain (t : FltTy) (o : SOp)
  /-- MJOIN: `mjoin` (R203). -/
  | mjoin (o : SOp)
  /-- MCHK: `mchk` (R200). -/
  | mchk (o : SOp)
  /-- DTAP: `dtap.f32` (R262). -/
  | dtap (o : SOp)
  /-- SEQ_ADD: control word `add` (R117). -/
  | seqAdd (d x y : AReg)
  /-- SEQ_SUB: control word `sub` (R117). -/
  | seqSub (d x y : AReg)
  /-- SEQ_MUL: control word `mul` (R117). -/
  | seqMul (d x y : AReg)
  /-- SEQ_MULH: control word `mulh` (R117). -/
  | seqMulh (d x y : AReg)
  /-- SEQ_MULHU: control word `mulhu` (R117). -/
  | seqMulhu (d x y : AReg)
  /-- SEQ_AND: control word `and` (R117). -/
  | seqAnd (d x y : AReg)
  /-- SEQ_OR: control word `or` (R117). -/
  | seqOr (d x y : AReg)
  /-- SEQ_XOR: control word `xor` (R117). -/
  | seqXor (d x y : AReg)
  /-- SEQ_ANDN: control word `andn` (R117). -/
  | seqAndn (d x y : AReg)
  /-- SEQ_SHL: control word `shl` (R117). -/
  | seqShl (d x y : AReg)
  /-- SEQ_SHR: control word `shr` (R117). -/
  | seqShr (d x y : AReg)
  /-- SEQ_SRA: control word `sra` (R117). -/
  | seqSra (d x y : AReg)
  /-- SEQ_MIN: control word `min` (R117). -/
  | seqMin (d x y : AReg)
  /-- SEQ_MAX: control word `max` (R117). -/
  | seqMax (d x y : AReg)
  /-- SEQ_MINU: control word `minu` (R117). -/
  | seqMinu (d x y : AReg)
  /-- SEQ_MAXU: control word `maxu` (R117). -/
  | seqMaxu (d x y : AReg)
  /-- ADDI: `addi` (R117). -/
  | addi (d x : AReg) (imm : BitVec 18)
  /-- ANDI: `andi` (R117). -/
  | andi (d x : AReg) (imm : BitVec 18)
  /-- ORI: `ori` (R117). -/
  | ori (d x : AReg) (imm : BitVec 18)
  /-- XORI: `xori` (R117). -/
  | xori (d x : AReg) (imm : BitVec 18)
  /-- SHLI: `shli` (R117). -/
  | shli (d x : AReg) (n : BitVec 6)
  /-- SHRI: `shri` (R117). -/
  | shri (d x : AReg) (n : BitVec 6)
  /-- SRAI: `srai` (R117). -/
  | srai (d x : AReg) (n : BitVec 6)
  /-- LI: `li` (R117). -/
  | li (d : AReg) (imm : BitVec 18)
  /-- LSI: `lsi` (R117). -/
  | lsi (d : AReg) (imm : BitVec 18)
  /-- KCMP: `kcmp.c` (R117). -/
  | kcmp (c : KCond) (k : KReg) (x y : AReg)
  /-- KAND: `kand` (R117). -/
  | kand (k x y : KReg)
  /-- KOR: `kor` (R117). -/
  | kor (k x y : KReg)
  /-- KXOR: `kxor` (R117). -/
  | kxor (k x y : KReg)
  /-- KNOT: `knot` (R117). -/
  | knot (k x : KReg)
  /-- LD: `ld.T` (R119). -/
  | ld (t : LdTy) (d base : AReg) (imm : BitVec 18)
  /-- ST: `st.T` (R119). -/
  | st (t : StTy) (x base : AReg) (imm : BitVec 18)
  /-- BEQ: `beq` (R118). -/
  | beq (x y : AReg) (off : BitVec 18)
  /-- BNE: `bne` (R118). -/
  | bne (x y : AReg) (off : BitVec 18)
  /-- BLT: `blt` (R118). -/
  | blt (x y : AReg) (off : BitVec 18)
  /-- BLTU: `bltu` (R118). -/
  | bltu (x y : AReg) (off : BitVec 18)
  /-- BGE: `bge` (R118). -/
  | bge (x y : AReg) (off : BitVec 18)
  /-- BGEU: `bgeu` (R118). -/
  | bgeu (x y : AReg) (off : BitVec 18)
  /-- BK: `bk` (R118). -/
  | bk (k : KReg) (off : BitVec 18)
  /-- BNK: `bnk` (R118). -/
  | bnk (k : KReg) (off : BitVec 18)
  /-- J: `j` (R118). -/
  | j (off : BitVec 18)
  /-- CALL: `call` (R118). -/
  | call (d : AReg) (off : BitVec 18)
  /-- RET: `ret` (R118). -/
  | ret (x : AReg)
  /-- JR: `jr` (R118). -/
  | jr (x : AReg)
  /-- LOOP: `loop` (R124). -/
  | loop (n desc : AReg)
  /-- RUN: `run` (R124). -/
  | run (desc : AReg)
  /-- HOLD: `hold` (R126). -/
  | hold (slots : BitVec 8)
  /-- WAKE: `wake` (R126). -/
  | wake (slots : BitVec 8)
  /-- CSYNC: `csync` (R297). -/
  | csync (m : AReg)
  /-- CTOK: `ctok` (R127). -/
  | ctok (line : CtokLine)
  /-- RVINIT: `rvinit` (R287). -/
  | rvinit (x : AReg) (w : Fin 24)
  /-- RVARR: `rvarr` (R288). -/
  | rvarr (w : Fin 24)
  /-- RVWAIT: `rvwait` (R289). -/
  | rvwait (w : Fin 24)
  /-- HWAIT: `hwait` (R294). -/
  | hwait (h : Fin 64)
  /-- HFREE: `hfree` (R295). -/
  | hfree (h : Fin 64)
  /-- HSTAT: `hstat` (R296). -/
  | hstat (d : AReg) (h : Fin 64)
  /-- SBAR: `sbar` (R277). -/
  | sbar (set : BitVec 16)
  /-- FENCE_WAY: `fence.way` (R279). -/
  | fenceWay
  /-- FENCE: `fence` (R280). -/
  | fence (scope : Fin 6)
  /-- MLOAD: `mload` (R129). -/
  | mload (x : AReg)
  /-- MSWAP: `mswap` (R130). -/
  | mswap (x : AReg)
  /-- MCANCEL: `mcancel` (R130). -/
  | mcancel
  /-- DPATCH: `dpatch` (R258); `more` is the count of cells minus 1. -/
  | dpatch (x : AReg) (first : Fin 512) (more : Fin 512)
  /-- DSET: `dset` (R259). -/
  | dset (x : AReg) (c : Fin 512)
  /-- DSTEP: `dstep` (R256). -/
  | dstep (n p : AReg) (dom : Fin 4)
  /-- DSTOP: `dstop` (R256). -/
  | dstop (dom : Fin 4)
  /-- DSAVE: `dsave` (R260). -/
  | dsave (x : AReg)
  /-- DREST: `drest` (R260). -/
  | drest (x : AReg)
  /-- TRAP: `trap` (R315). -/
  | trap (code : BitVec 16)
  /-- ERET: `eret` (R316). -/
  | eret
  /-- CSRR: `csrr` (R317). -/
  | csrr (d : AReg) (n : BitVec 12)
  /-- CSRW: `csrw` (R317). -/
  | csrw (x : AReg) (n : BitVec 12)
  /-- HALT: `halt` (R318). -/
  | halt
  /-- NRG: `nrg` (R348). -/
  | nrg (d : AReg) (m : Fin 8)
  /-- GEN: `gen` (R349). -/
  | gen (d : AReg)
  /-- LAUNCH_ARG_CHECK: the object-dependent checks of a launch (R68). -/
  | launchArgCheck (l : Nat)
  /-- LAUNCH_AGING: a waiting launch ages (R73). -/
  | launchAging (l : Nat)
  /-- PLACEMENT: the allocator serves the head launch (R77). -/
  | placement
  /-- PAGE_ARM: a page arms (R90). -/
  | pageArm (l page : Nat)
  /-- LAUNCH_SLOTS_START: the slots of a launch start (R90). -/
  | launchSlotsStart (l : Nat)
  /-- MOVE: the allocator starts to move a page set (R80). -/
  | move (l cc0 cr0 : Nat)
  /-- KILN_BUDGET_WRITE: a write of KILN.BUDGET (R87). -/
  | kilnBudgetWrite (v : BitVec 32)
  /-- MILESTONE_COMMIT: cycle M - 256 of a milestone (R130). -/
  | milestoneCommit (l : Nat)
  /-- MILESTONE_SWITCH: cycle M of a milestone (R131). -/
  | milestoneSwitch (l : Nat)
  /-- PLANE_RELEASE: cycle M + H of a milestone (R131). -/
  | planeRelease (l : Nat)
  /-- WINDOW_CLOSE: a window closes (R141, R142). -/
  | windowClose (elem : Nat) (entry : Fin 4)
  /-- REG_SCRUB: the register scrubber takes one word (R145). -/
  | regScrub (elem : Nat)
  /-- SLICE_SCRUB: the slice scrubber takes one word (R226). -/
  | sliceScrub (slice : Nat)
  /-- MATRIX_STEP: one interval of a matrix array (R181, R182). -/
  | matrixStep (cluster : Nat)
  /-- JOIN_COMPLETE: the completion token of a joint operation arrives (R206). -/
  | joinComplete (join : Nat)
  /-- JOIN_STALL: a joint operation stays open for 65,536 intervals (R313). -/
  | joinStall (join : Nat)
  /-- COUNTER_UPDATE: an expert counter update arrives (R249). -/
  | counterUpdate (upd : Nat)
  /-- EXPERT_COUNTER_WRITE: a host write of an expert count (R248). -/
  | expertCounterWrite (slice block word : Nat) (v : BitVec 64)
  /-- CHANNEL_BEAT_ARRIVAL: a sent beat arrives (R220). -/
  | channelBeatArrival (beat : Nat)
  /-- RECV_HOLD_EXPIRY: a held beat expires (R220). -/
  | recvHoldExpiry (beat : Nat)
  /-- SLICE_FILL_READ: a fill reaches its slice (R224, R235). -/
  | sliceFillRead (acc : Nat)
  /-- WRITE_BACK_READ: a queued write-back reads its line (R300). -/
  | writeBackRead (elem : Nat)
  /-- WRITE_BACK_PERFORM: a write-back performs at its node (R237). -/
  | writeBackPerform (acc : Nat)
  /-- ATOMIC_PERFORM: the atomics of one word perform (R239). -/
  | atomicPerform (acc : Nat)
  /-- MCAST_REPLICA: a multicast replica performs (R238). -/
  | mcastReplica (acc : Nat)
  /-- TRANSFER_UNIT_LAND: one unit of a request performs (R243). -/
  | transferUnitLand (req unit : Nat) (r : UnitRead)
  /-- HANDLE_FULL: a handle goes full (R242). -/
  | handleFull (region : Nat) (h : Fin 64)
  /-- FETCH_DEADLINE: an expert fetch reaches its deadline (R247). -/
  | fetchDeadline (req : Nat)
  /-- FIRMWARE_CYCLE_STEAL: the firmware path takes a sequencer cycle (R246). -/
  | firmwareCycleSteal (region : Nat)
  /-- HANDLE_DRAIN_END: a draining handle becomes free (R242). -/
  | handleDrainEnd (region : Nat) (h : Fin 64)
  /-- XLAT_INVAL: a write of XLAT.INVAL (R232). -/
  | xlatInval (v : BitVec 64)
  /-- SLICE_SLOTS_APPLY: a written slot table takes effect (R227). -/
  | sliceSlotsApply (slice : Nat)
  /-- HOST_MEMWIN_WRITE: a write of HOST.MEMWIN n (R352). -/
  | hostMemwinWrite (n : Fin 8) (v : BitVec 64)
  /-- RVWAIT_RESUME: a waiting slot sees its phase end (R289). -/
  | rvwaitResume (slot : Nat)
  /-- HWAIT_RESUME: a slot waiting on a handle sees it full (R294). -/
  | hwaitResume (slot : Nat)
  /-- CSYNC_RELEASE: the release cycle of a csync (R297). -/
  | csyncRelease (l : Nat)
  /-- SEQUENCER_WAKE: a gated sequencer wakes (R293). -/
  | sequencerWake (region : Nat)
  /-- FENCE_RESUME: a waiting fence completes (R279, R280). -/
  | fenceResume (slot : Nat)
  /-- DDA_STEP: a domain steps (R253). -/
  | ddaStep (region : Nat) (dom : Fin 4)
  /-- DPATCH_DONE: a dpatch reaches its completion cycle (R258). -/
  | dpatchDone (slot : Nat)
  /-- DREST_DONE: a drest reaches its completion cycle (R260). -/
  | drestDone (slot : Nat)
  /-- TRAP_DELIVERY: a raised cause is delivered to its slot (R309). -/
  | trapDelivery (slot : Nat)
  /-- BAD_TOKEN_WRITE: a write to a token window that is no token (R64). -/
  | badTokenWrite (host : HostPort) (port : Fin 16) (why : BadToken)
  /-- APPEALS_EXPIRY: an appeal leaves the 60-minute count (R333). -/
  | appealsExpiry (cluster : Nat)
  /-- CSYNC_STALL: a csync has waited 2^32 cycles beside a held slot (R313). -/
  | csyncStall (l : Nat)
  /-- WALL_CLR: CLR written to REGION.WALL (R86). -/
  | wallClr (region : Nat)
  /-- WINMISS_CLR: CLR written to SLOT.WINMISS (R142). -/
  | winmissClr (slot : Nat)
  /-- POISON_ORIGIN_CLR: CLR written to POISON.ORIGIN (R147). -/
  | poisonOriginClr (slot : Nat)
  /-- SITEERR_CLR: CLR written to SLOT.SITEERR (R225). -/
  | siteerrClr (slot : Nat)
  /-- ACCERR_CLR: CLR written to CLUSTER.ACCERR (R199). -/
  | accerrClr (cluster : Nat)
  /-- DDA_ERR_CLR: CLR written to DDA.ERR (R255). -/
  | ddaErrClr (region : Nat)
  /-- HEARTBEAT: a cluster sends its heartbeat (R328). -/
  | heartbeat (cluster : Nat)
  /-- HEARTBEAT_JUDGE: a voter judges a cluster (R330). -/
  | heartbeatJudge (cluster : Nat) (side : Dir) (ob : Observed)
  /-- VOTE: an accusing voter starts a vote (R330). -/
  | vote (cluster : Nat)
  /-- VOTE_FENCE: the end of round 2 of a vote, with the voter links that failed (R330, R331). -/
  | voteFence (cluster : Nat) (lost : List (Dir × Dir))
  /-- APPEAL_START: an appeal starts or is refused (R334). -/
  | appealStart (cluster : Nat)
  /-- APPEAL_VERDICT: the voters judge a self-test signature (R334). -/
  | appealVerdict (cluster : Nat) (sig : Option (BitVec 64)) (lost : List (Dir × Dir))
  /-- LAUNCH_RETIRE: a launch retires (R340). -/
  | launchRetire (l : Nat)
  /-- UNLOAD_GO: GO written to REGION.UNLOAD (R345). -/
  | unloadGo (region : Nat) (v : BitVec 64)
  /-- COPY_RELEASE: an unloaded copy is released (R345). -/
  | copyRelease (region : Nat)
  /-- PREEMPT_GO: GO written to REGION.PREEMPT (R319). -/
  | preemptGo (region : Nat) (v : BitVec 64)
  /-- REGION_HALT: the halt cycle of a region (R320). -/
  | regionHalt (region : Nat)
  /-- PREEMPT_RESUME: RESUME written to REGION.PREEMPT (R323). -/
  | preemptResume (region : Nat) (v : BitVec 64)
  /-- REGION_RESUME: the resume cycle of a region (R323). -/
  | regionResume (region : Nat)
  /-- PREEMPT_KILL: KILL written to REGION.PREEMPT (R319). -/
  | preemptKill (region : Nat) (v : BitVec 64)
  /-- PAGECOPY_OUT: GO with DIR 0 written to REGION.PAGECOPY (R322). -/
  | pagecopyOut (region : Nat) (v : BitVec 64)
  /-- PAGECOPY_IN: GO with DIR 1 written to REGION.PAGECOPY (R322). -/
  | pagecopyIn (region : Nat) (v : BitVec 64)
  /-- ORPHANS_CLR: CLR written to SLICE.ORPHANS (R293). -/
  | orphansClr (slice : Nat)
  /-- PEER_RETRY_CLR: CLR written to PEER.STAT (R355). -/
  | peerRetryClr (n : Fin 16)
  /-- REGISTER_WRITE: a host write to a device register with no behaviour of its own (R6). -/
  | registerWrite (host : HostPort) (off : Nat) (v : BitVec 64)
  /-- TRUST_EXTEND: a write of TRUST.EXTEND (R357). -/
  | trustExtend (j : BitVec 8) (d : BitVec 384)
  /-- TRUST_ATTEST: 1 written to TRUST.ATTEST (R358). -/
  | trustAttest
  /-- ATTEST_REPORT: the device writes the attestation report (R358). -/
  | attestReport
  /-- OPEN: an OPEN token arrives (R66). -/
  | openTok (t : Token)
  /-- PARAM: a PARAM token arrives (R67). -/
  | paramTok (t : Token)
  /-- DATA: a DATA token arrives (R65). -/
  | dataTok (t : Token)
  /-- CLOSE: a CLOSE token arrives (R68). -/
  | closeTok (t : Token)
  /-- HOST_SEM_WRITE: a write of HOST.SEM n (R75). -/
  | hostSemWrite (host : HostPort) (n : Fin 16) (v : BitVec 32)
  /-- OBJECT_LOAD: a load under way completes or is refused (R38). -/
  | objectLoad (ld : Nat) (r : LoadRead)
  /-- MOVE_ABORT: a move is abandoned (R80, R81). -/
  | moveAbort (l : Nat)
  /-- MOVE_DONE: a move completes (R80). -/
  | moveDone (l : Nat)
  /-- KILN_RECONCILE: the end of a firing window, with the measured energy of each launch and of the module in µJ (R89, R347). -/
  | kilnReconcile (sensed total : Nat)
  /-- MLOAD_DONE: a phase-image load ends (R129). -/
  | mloadDone (l : Nat) (cfg : Option Nat)
  /-- MILESTONE_CANCEL: a shadow-plane error found after commit (R325). -/
  | milestoneCancel (l page : Nat)
  /-- WINDOW_DATA_ARRIVAL: the reply of an access reaches its landing entry (R141). -/
  | windowDataArrival (acc : Nat)
  /-- ACC_SCRUB: the array scrubs one tile word or row (R201). -/
  | accScrub (cluster : Nat)
  /-- HBM_SCRUB_REPORT: a base die reports an uncorrectable word (R313). -/
  | hbmScrubReport (stack addr : Nat)
  /-- STAMP_CHECK: a retag check is decided at its slice (R237). -/
  | stampCheck (acc : Nat)
  /-- FIRMWARE_COPY_DONE: the firmware path ends a request, with what its reads brought (R246). -/
  | firmwareCopyDone (req : Nat) (units : List (Nat × UnitRead))
  /-- WAYMARK_ACK: a slice acknowledges a waymark (R279). -/
  | waymarkAck (slot elem slice : Nat)
  /-- DSAVE_DONE: every unit of a dsave has performed, or the unit on which its write path failed (R260). -/
  | dsaveDone (slot : Nat) (bad : Option Nat)
  /-- LINK_UP: a link completes training (R355). -/
  | linkUp (l : Link) (remote : BitVec 16) (rport : BitVec 4)
  /-- THERMAL_RECOVERY: every die is 5 °C below its limit (R359). -/
  | thermalRecovery
  /-- SHARED_POINT_ANSWER: the answer of a shared point returns (R291). -/
  | sharedPointAnswer (slot : Nat)
  /-- CLUSTER_POWER_GATE: a cluster is power-gated (R328). -/
  | clusterPowerGate (cluster : Nat)
  /-- WAKE_LATE: a gated sequencer is late to wake (R313). -/
  | wakeLate (region : Nat)
  /-- BABBLE: a switch box drops a token in an unowned track slot (R329). -/
  | babble (cluster : Nat) (side : Dir)
  /-- IMAGE_SAVE_DONE: the halt image is written (R321). -/
  | imageSaveDone (region : Nat)
  /-- PAGECOPY_DONE: a page copy completes (R322). -/
  | pagecopyDone (region : Nat)
  /-- HOST_LINK_RESET: a host link enters reset (R351). -/
  | hostLinkReset (host : HostPort)
  /-- HOST_MEM_ACCESS: a host CXL.mem access (R353). -/
  | hostMemAccess (host : HostPort) (write : Bool) (addr : Nat) (d : BitVec 512)
  /-- CXL_SNOOP: a host snoop (R351). -/
  | cxlSnoop (host : HostPort) (addr : Nat)
  /-- PEER_FLIT: a peer flit is received (R354). -/
  | peerFlit (l : Link) (f : Flit)
  /-- LINK_DOWN: a link is lost (R354). -/
  | linkDown (l : Link)
  /-- PEER_REQUEST: a request of a peer (R231). -/
  | peerRequest (n : Fin 16) (write : Bool) (off : Nat) (d : BitVec 512)
  /-- FIRMWARE_BOOT: the boot ROM verifies the firmware (R356, R357). -/
  | firmwareBoot (image : List Byte) (signed : Signed) (settings : BitVec 384)
  /-- THERMAL: a temperature passes its limit (R359). -/
  | thermal (w : Hot)
  /-- DIE_OVERHEAT: a die reaches 115 °C (R359). -/
  | dieOverheat (die : Fin 8)
  /-- POWER_FAULT: a supply leaves its range (R313). -/
  | powerFault (supply : Nat)
  /-- MGMT_WATCHDOG: the management core restarts (R313). -/
  | mgmtWatchdog
  /-- DEBUG_WRITE: the debug path writes a schedule store (R107). -/
  | debugWrite (region addr : Nat) (bytes : List Byte)
  /-- MODULE_RESET: module reset (R304). -/
  | moduleReset
  /-- INGRESS_CLR: CLR written to INGRESS.CTL (R71). -/
  | ingressClr (port : Fin 16)
deriving DecidableEq, Repr, Inhabited

end Sys2Proof
end

