-- ==== Sys2Proof/Machine/Bits.lean ====
section
/-! DEFINITION. Bit fields, sign extension, byte order and small list helpers (R2, R4). -/

namespace Sys2Proof

/-- Bits hi..lo of a word, as a number (R2). -/
def field {w : Nat} (x : BitVec w) (hi lo : Nat) : Nat := (x.toNat >>> lo) % 2 ^ (hi - lo + 1)

/-- Bit i of a word (R4). -/
def bitAt {w : Nat} (x : BitVec w) (i : Nat) : Bool := x.getLsbD i

/-- A word with the number v in bits hi..lo and its other bits kept. -/
def putField {w : Nat} (x : BitVec w) (hi lo v : Nat) : BitVec w :=
  let m : BitVec w := BitVec.ofNat w ((2 ^ (hi - lo + 1) - 1) <<< lo)
  (x &&& ~~~m) ||| (BitVec.ofNat w (v <<< lo) &&& m)

/-- A number read as n-bit two's complement (R4, `sext`). -/
def sextNat (v n : Nat) : Int :=
  let m := v % 2 ^ n
  if n ≠ 0 ∧ 2 ^ (n - 1) ≤ m then (m : Int) - (2 ^ n : Nat) else m

/-- An integer reduced modulo 2^n (R42). -/
def wrapNat (x : Int) (n : Nat) : Nat := (x % ((2 ^ n : Nat) : Int)).toNat

/-- The lowest `n` bytes of a number, least significant first (R2). -/
def bytesOf (v : Nat) : Nat → List Byte
  | 0 => []
  | n + 1 => BitVec.ofNat 8 v :: bytesOf (v / 256) n

/-- The number that little-endian bytes hold (R2). -/
def natOfBytes : List Byte → Nat
  | [] => 0
  | b :: bs => b.toNat + 256 * natOfBytes bs

/-- Items `n` upward of a list, at most `k` of them. -/
def slice {α : Type} (l : List α) (n k : Nat) : List α := (l.drop n).take k

/-- Sum of a list of numbers. -/
def sumNat (l : List Nat) : Nat := l.foldl (· + ·) 0

/-- The largest of a list of numbers, 0 for none. -/
def maxNat (l : List Nat) : Nat := l.foldl Nat.max 0

/-- The quotient rounded up. -/
def ceilDiv (a b : Nat) : Nat := (a + b - 1) / b

/-- The number of one bits among bits 0 to n - 1 of a number. -/
def popCount (v : Nat) : Nat → Nat
  | 0 => 0
  | n + 1 => v % 2 + popCount (v / 2) n

/-- A counter that stops at a limit. -/
def stopAt (limit v : Nat) : Nat := if limit ≤ v then limit else v

end Sys2Proof
end

