-- ==== Sys2Proof/Machine/Num.lean ====
section
/-! DEFINITION. Number formats (03 R42 to R59): codes read as exact values, exact sums and products, and one rounding
to the destination format with its overflow rule. -/

namespace Sys2Proof.Machine

/-- The value of a floating-point code: (−1)^neg × m × 2^e, an infinity, or a NaN (R43). -/
inductive Val
  | nan
  | inf (neg : Bool)
  | fin (neg : Bool) (m : Nat) (e : Int)
deriving DecidableEq, Repr, Inhabited

/-- The floating-point formats of R43. -/
inductive FF | f32 | f16 | bf16 | e4m3 | e5m2 | e2m1
deriving DecidableEq, Repr, Inhabited

def FF.ebits : FF → Nat
  | .f32 => 8 | .f16 => 5 | .bf16 => 8 | .e4m3 => 4 | .e5m2 => 5 | .e2m1 => 2

def FF.fbits : FF → Nat
  | .f32 => 23 | .f16 => 10 | .bf16 => 7 | .e4m3 => 3 | .e5m2 => 2 | .e2m1 => 1

def FF.bias : FF → Int
  | .f32 => 127 | .f16 => 15 | .bf16 => 127 | .e4m3 => 7 | .e5m2 => 15 | .e2m1 => 1

def FF.width (f : FF) : Nat := 1 + f.ebits + f.fbits

/-- The canonical NaN (R44); e2m1 has none and reads 0. -/
def FF.nan : FF → Nat
  | .f32 => 0x7FC00000 | .f16 => 0x7E00 | .bf16 => 0x7FC0 | .e4m3 => 0x7F | .e5m2 => 0x7E | .e2m1 => 0

/-- The magnitude of the largest finite code (R43). -/
def FF.maxFin : FF → Nat
  | .f32 => 0x7F7FFFFF | .f16 => 0x7BFF | .bf16 => 0x7F7F | .e4m3 => 0x7E | .e5m2 => 0x7B | .e2m1 => 7

/-- The code of +infinity, for the formats that have one. -/
def FF.inf : FF → Option Nat
  | .f32 => some 0x7F800000 | .f16 => some 0x7C00 | .bf16 => some 0x7F80 | .e5m2 => some 0x7C | _ => none

/-- Fields of a code: sign, E, F. -/
def FF.sign (f : FF) (c : Nat) : Bool := c / 2 ^ (f.ebits + f.fbits) % 2 == 1
def FF.efield (f : FF) (c : Nat) : Nat := c / 2 ^ f.fbits % 2 ^ f.ebits
def FF.ffield (f : FF) (c : Nat) : Nat := c % 2 ^ f.fbits

/-- The sign bit of a code. -/
def FF.signBit (f : FF) (neg : Bool) : Nat := if neg then 2 ^ (f.ebits + f.fbits) else 0

/-- The value of a code (R43); e2m1 code 1000 reads here as −0 (R47 replaces it). -/
def FF.val (f : FF) (c : Nat) : Val :=
  let s := f.sign c
  let E := f.efield c
  let F := f.ffield c
  let top := 2 ^ f.ebits - 1
  let special : Bool := match f with
    | .e2m1 => false
    | .e4m3 => E == top && F == 7
    | _ => E == top
  if special then (if f.inf.isSome && F == 0 then .inf s else .nan)
  else if E = 0 then .fin s F (1 - f.bias - f.fbits)
  else .fin s (2 ^ f.fbits + F) (E - f.bias - f.fbits)

/-- Whether a code is subnormal. -/
def FF.subnormal (f : FF) (c : Nat) : Bool := f.efield c == 0 && f.ffield c != 0

/-- Subnormals read or written as zero of the same sign when FLUSH is set, for f32, f16 and bf16 (R45). -/
def FF.flushed (f : FF) (flush : Bool) (c : Nat) : Nat :=
  match f with
  | .f32 | .f16 | .bf16 => if flush && f.subnormal c then f.signBit (f.sign c) else c
  | _ => c

/-- m × 2^e, cut to a whole number by RND (R48). -/
def roundMag (rnd : Rnd) (m : Nat) (e : Int) : Nat :=
  if 0 ≤ e then m * 2 ^ e.toNat
  else
    let k := (-e).toNat
    let q := m / 2 ^ k
    let r := m % 2 ^ k
    match rnd with
    | .rtz => q
    | .rne => if 2 ^ k < 2 * r ∨ (2 * r = 2 ^ k ∧ q % 2 = 1) then q + 1 else q

/-- m × 2^e rounded to the format with the exponent unbounded: the magnitude's code and whether it exceeds the
largest finite value (R48, R49). -/
def FF.roundCode (f : FF) (rnd : Rnd) (m : Nat) (e : Int) : Nat × Bool :=
  if m = 0 then (0, false)
  else
    let lead : Int := (Nat.log2 m : Int) + e
    let emin : Int := 1 - f.bias
    let ulp : Int := (if lead < emin then emin else lead) - f.fbits
    let r := roundMag rnd m (e - ulp)
    if r < 2 ^ f.fbits then (r, false)
    else
      let (r, ulp) := if r = 2 ^ (f.fbits + 1) then (2 ^ f.fbits, ulp + 1) else (r, ulp)
      let E : Int := ulp + f.fbits + f.bias
      let c := E.toNat * 2 ^ f.fbits + (r - 2 ^ f.fbits)
      (c, f.maxFin < c)

/-- A code and whether forming it is a new poison source (R50). -/
structure Coded where
  c : Nat
  p : Bool := false
deriving DecidableEq, Repr, Inhabited

/-- RND, SAT, PCHK of the word and FLUSH and SPARE of its slot (R46, R48). -/
structure Arith where
  rnd : Rnd := .rne
  sat : Bool := false
  pchk : Bool := false
  flush : Bool := false
  spare : Nat := 0x80
deriving DecidableEq, Repr, Inhabited

/-- `fround`: a value rounded to the format, R49 for overflow, R45 for the result. A NaN that comes from a NaN is no
new source of poison; an infinity or a NaN that the format cannot hold is an invalid conversion (R49). -/
def fround (ar : Arith) (f : FF) : Val → Coded
  | .nan => match f with
    | .e2m1 => ⟨0, true⟩
    | _ => ⟨f.nan, false⟩
  | .inf s => match f.inf with
    | some i => ⟨f.signBit s + i, false⟩
    | none => ⟨f.signBit s + f.maxFin, true⟩
  | .fin s m e =>
    let (c, exceeds) := f.roundCode ar.rnd m e
    if exceeds then
      match f with
      | .e2m1 => ⟨f.signBit s + f.maxFin, false⟩
      | .e4m3 => if ar.rnd = .rtz ∨ ar.sat then ⟨f.signBit s + f.maxFin, false⟩ else ⟨f.nan, true⟩
      | _ => if ar.rnd = .rtz ∨ ar.sat then ⟨f.signBit s + f.maxFin, false⟩
             else ⟨f.signBit s + f.inf.getD 0, ar.pchk⟩
    else
      match f with
      | .e2m1 => ⟨if c = 0 then 0 else f.signBit s + c, false⟩
      | _ => ⟨f.flushed ar.flush (f.signBit s + c), false⟩

/-- An exact integer multiple of 2^e as a value; a zero takes the given sign. -/
def ofInt (x : Int) (e : Int) (zneg : Bool) : Val :=
  if x = 0 then .fin zneg 0 e else .fin (x < 0) x.natAbs e

/-- The signed numerator of a finite value over 2^e, for e at most its own exponent. -/
def scaled (neg : Bool) (m : Nat) (e e0 : Int) : Int :=
  let k : Int := (m * 2 ^ (e - e0).toNat : Nat)
  if neg then -k else k

/-- Exact sum (R159); the flag tells a NaN formed from operands that are not NaN (R160). A zero sum is +0 unless both
operands are zeros of one sign (R339). -/
def addVal : Val → Val → Val × Bool
  | .nan, _ => (.nan, false)
  | _, .nan => (.nan, false)
  | .inf a, .inf b => if a = b then (.inf a, false) else (.nan, true)
  | .inf a, .fin .. => (.inf a, false)
  | .fin .., .inf b => (.inf b, false)
  | .fin sa ma ea, .fin sb mb eb =>
    let e0 := if ea ≤ eb then ea else eb
    (ofInt (scaled sa ma ea e0 + scaled sb mb eb e0) e0 (sa && sb && ma == 0 && mb == 0), false)

def negVal : Val → Val
  | .nan => .nan
  | .inf s => .inf (!s)
  | .fin s m e => .fin (!s) m e

def absVal : Val → Val
  | .nan => .nan
  | .inf _ => .inf false
  | .fin _ m e => .fin false m e

/-- Exact product (R159); 0 × inf is a new NaN (R160). -/
def mulVal : Val → Val → Val × Bool
  | .nan, _ => (.nan, false)
  | _, .nan => (.nan, false)
  | .inf a, .inf b => (.inf (a != b), false)
  | .inf a, .fin b m _ => if m = 0 then (.nan, true) else (.inf (a != b), false)
  | .fin a m _, .inf b => if m = 0 then (.nan, true) else (.inf (a != b), false)
  | .fin a m e, .fin b n f => (.fin (a != b) (m * n) (e + f), false)

/-- x × y + z, exact (R159, R160). A new NaN needs operands that are not NaN. -/
def fmaVal (x y z : Val) : Val × Bool :=
  let (p, np) := mulVal x y
  match z with
  | .nan => (.nan, false)
  | _ => if np then (.nan, true) else addVal p z

/-- A value times 2^k. -/
def scaleVal (k : Int) : Val → Val
  | .fin s m e => .fin s m (e + k)
  | v => v

/-- Whether x < y for numbers, with −0 below +0 when `zeros` (R160, R162). NaNs are below nothing. -/
def ltVal (zeros : Bool) : Val → Val → Bool
  | .nan, _ => false
  | _, .nan => false
  | .inf a, .inf b => a && !b
  | .inf a, .fin .. => a
  | .fin .., .inf b => !b
  | .fin sa ma ea, .fin sb mb eb =>
    if ma = 0 ∧ mb = 0 then zeros && sa && !sb
    else
      let e0 := if ea ≤ eb then ea else eb
      decide (scaled sa ma ea e0 < scaled sb mb eb e0)

def isNan : Val → Bool
  | .nan => true
  | _ => false

/-- x = y for numbers; −0 = +0; NaN equals nothing (R162). -/
def eqVal (x y : Val) : Bool := !isNan x && !isNan y && !ltVal false x y && !ltVal false y x

/-- A finite value rounded to an integer by RND. -/
def toInt (rnd : Rnd) (neg : Bool) (m : Nat) (e : Int) : Int :=
  let q : Int := roundMag rnd m e
  if neg then -q else q

/-- The floor of m × 2^e with its sign. -/
def floorInt (neg : Bool) (m : Nat) (e : Int) : Int :=
  if 0 ≤ e then (if neg then -((m * 2 ^ e.toNat : Nat) : Int) else ((m * 2 ^ e.toNat : Nat) : Int))
  else
    let k := (-e).toNat
    if neg then -(((m + 2 ^ k - 1) / 2 ^ k : Nat) : Int) else ((m / 2 ^ k : Nat) : Int)

/-- `fround.T` (R160): an integral value of the same sign. -/
def integral (rnd : Rnd) : Val → Val
  | .fin s m e => .fin s (roundMag rnd m e) 0
  | v => v

/-! ## Integers (R42) -/

def IntTy.bits : IntTy → Nat
  | .i8 | .n8 => 8
  | .i16 | .n16 => 16
  | .i32 | .n32 => 32

def IntTy.signed : IntTy → Bool
  | .i8 | .i16 | .i32 => true
  | _ => false

/-- The value of a code of an integer type. -/
def intVal (t : IntTy) (c : Nat) : Int := if IntTy.signed t then sextNat c (IntTy.bits t) else (c % 2 ^ IntTy.bits t : Nat)

def IntTy.lo (t : IntTy) : Int := if IntTy.signed t then -((2 ^ (IntTy.bits t - 1) : Nat) : Int) else 0
def IntTy.hi (t : IntTy) : Int :=
  if IntTy.signed t then ((2 ^ (IntTy.bits t - 1) : Nat) : Int) - 1 else ((2 ^ IntTy.bits t : Nat) : Int) - 1

def clampInt (lo hi x : Int) : Int := if x < lo then lo else if hi < x then hi else x

/-- `fit` (R148): clamped when SAT, else modulo 2^width; the code. -/
def fit (t : IntTy) (sat : Bool) (x : Int) : Nat :=
  wrapNat (if sat then clampInt (IntTy.lo t) (IntTy.hi t) x else x) (IntTy.bits t)

/-- The `k`-plane value of a bit-plane weight (R57), in 64ths of its represented value. -/
def bprecon (w k : Nat) : Int :=
  let s := sextNat w 8
  let d : Int := (2 ^ (8 - k) : Nat)
  s / d * d + (if k < 8 then ((2 ^ (7 - k) : Nat) : Int) else 0)

/-- e2m1 (R47): code 1000 reads as the e4m3 value SPARE; poisoned when that is a NaN. -/
def e2m1Val (spare : Nat) (c : Nat) : Val × Bool :=
  if c % 16 = 8 then
    let v := FF.e4m3.val spare
    (v, isNan v)
  else (FF.e2m1.val c, false)

/-! ## Microscaling (R51 to R55) -/

def MxTy.emax : MxTy → Int
  | .mxi8 => 0 | .mxf8 => 8 | .mxf4 => 2

/-- One element x × 2^(−e) in the format, saturated by R53; zero is positive (R54). -/
def mxElem (t : MxTy) (rnd : Rnd) (e : Int) : Val → Nat
  | .fin s m x =>
    match t with
    | .mxi8 => wrapNat (clampInt (-127) 127 (toInt rnd s m (x - e + 6))) 8
    | .mxf8 =>
      let c := (fround { rnd := rnd, sat := true } .e4m3 (.fin s m (x - e))).c
      if c % 128 = 0 then 0 else c
    | .mxf4 => (fround { rnd := rnd } .e2m1 (.fin s m (x - e))).c
  | _ => 0

/-- Quantising a block (R54): the scale code, the elements, and whether the elements are poisoned. -/
def mxQuant (t : MxTy) (rnd : Rnd) (xs : List Val) : Nat × List Nat × Bool :=
  if xs.any (fun x => match x with | .fin .. => false | _ => true) then (0xFF, xs.map (fun _ => 0), true)
  else
    let logs := xs.filterMap fun x => match x with
      | .fin _ m e => if m = 0 then none else some ((Nat.log2 m : Int) + e)
      | _ => none
    match logs with
    | [] => (0, xs.map (fun _ => 0), false)
    | l :: ls =>
      let top := ls.foldl (fun a b => if a < b then b else a) l
      let e := if top - MxTy.emax t < -127 then -127 else top - MxTy.emax t
      ((e + 127).toNat, xs.map (mxElem t rnd e), false)

/-- The value of an MX element (R53): in mxi8 sext(e, 8) / 64. -/
def mxElemVal (t : MxTy) (spare : Nat) (c : Nat) : Val × Bool :=
  match t with
  | .mxi8 => (ofInt (sextNat c 8) (-6) false, false)
  | .mxf8 => (FF.e4m3.val c, false)
  | .mxf4 => e2m1Val spare c

end Sys2Proof.Machine
end

