-- ==== Sys2Proof/WellFormed.lean ====
section
/-! DEFINITION. What the verifier refuses in one word by itself (R93 to R98, R103, R135, R138, R149, R153, R164 to R175,
R179, R183 to R207, R217, R219, R240, R241, R262): `FormRule` says for each schedule form which destinations,
sources, immediate bits, flags, masks and folds it admits, and `wellFormed` checks a word against it. What needs the
code object as well (register counts, sites, rows, features) stands in Machine/Verify.lean. -/

namespace Sys2Proof

/-- Which destinations a form admits (R98). -/
inductive DstRule | zero | regs | regRes | regResMask | mask | only (d : Dst)
deriving DecidableEq, Repr

/-- Which sources a form admits (R95, R98, R153, R169, R183). -/
inductive SrcRule | unused | any | noImm | lane | own | port
deriving DecidableEq, Repr

/-- How a form uses IMM (R97, R98, R153): as an immediate or mask index, or as its own sub-fields, whose bits the
mask gives. -/
inductive ImmRule | value | sub (bits : BitVec 16)
deriving DecidableEq, Repr

/-- Which folds a form admits. -/
inductive FoldRule | free | only (n : Nat) | block | odd
deriving DecidableEq, Repr

/-- Which FLG bits a form admits: all (R150), none (R176, R183), or RND, SAT and PCHK (`mdrain`, R183). -/
inductive FlgRule | free | zero | noLast
deriving DecidableEq, Repr

/-- What one schedule form admits in its fields. -/
structure FormRule where
  dst : DstRule := .regResMask
  a : SrcRule := .any
  b : SrcRule := .any
  imm : ImmRule := .value
  fold : FoldRule := .free
  flg : FlgRule := .free
  pred : Bool := true
  win : Bool := false
  matrix : Bool := false
deriving DecidableEq, Repr

/-- FOLD that `mfa` needs for its type (R184). -/
def mfaFold : MTy → FoldRule
  | .mxf8 | .mxi8 => .only 4
  | .mxf4 => .only 2
  | _ => .free

/-- The form of a schedule word; none for a control word or an event. -/
def formRule : Instr → Option FormRule
  | .nop _ => some { dst := .zero, a := .unused, b := .unused, flg := .zero, pred := false }
  | .pass _ => some { b := .unused }
  | .ptest _ => some { dst := .mask, b := .unused }
  | .add _ _ | .sub _ _ | .mul _ _ | .mulh _ _ | .min _ _ | .max _ _ => some {}
  | .mad _ _ | .fma _ _ | .bfi _ => some { dst := .regs }
  | .abs _ _ | .neg _ _ => some { b := .unused }
  | .cmp _ _ _ | .and _ | .or _ | .xor _ | .andn _ | .shl _ | .shr _ | .sra _ | .rot _ | .bfxN32 _ | .bfxI32 _ => some {}
  | .sel _ _ => some { dst := .regRes, a := .noImm, b := .noImm, imm := .sub 0x0007 }
  | .clz _ | .popc _ => some { b := .unused }
  | .fadd _ _ | .fsub _ _ | .fmul _ _ | .fmin _ _ | .fmax _ _ | .fcmp _ _ _ | .fscale _ _ => some {}
  | .fabs _ _ | .fneg _ _ | .fclass _ _ | .fround _ _ => some { b := .unused }
  | .cvt _ _ _ => some { dst := .regRes, b := .unused }
  | .mxq _ _ => some { dst := .regs, b := .unused, fold := .block, pred := false }
  | .mxdq _ _ => some { dst := .regs, a := .own, b := .unused, fold := .block, pred := false }
  | .bpsplit _ => some { dst := .regs, b := .unused, pred := false }
  | .bpjoin _ => some { dst := .regs, a := .noImm, b := .unused, imm := .sub 0x0007, pred := false }
  | .pack _ _ => some { dst := .regs }
  | .unpack _ _ => some { dst := .regs, a := .noImm, b := .unused, imm := .sub 0x0001 }
  | .perm _ => some { a := .lane }
  | .bcast _ => some { dst := .regRes, a := .lane, b := .unused, imm := .sub 0x003F }
  | .lsh _ => some { dst := .regRes, a := .lane, b := .noImm, imm := .sub 0x007F }
  | .rsum _ _ | .rmax _ _ => some { a := .lane, b := .unused }
  | .segscan _ _ => some { dst := .regRes, a := .lane, b := .unused, imm := .sub 0x000F }
  | .grp _ => some { dst := .regs, a := .lane, b := .noImm, imm := .sub 0x0007 }
  | .lut _ | .lutr _ => some { dst := .regs, a := .noImm, b := .unused, imm := .sub 0x0003 }
  | .lutc _ => some { dst := .regs, a := .noImm, b := .noImm, imm := .sub 0x0003 }
  | .lds _ | .ldx _ | .ldt _ _ => some { dst := .regs, a := .unused, b := .unused, imm := .sub 0xFFFF }
  | .sts _ _ | .stx _ | .stw _ | .mcast _ =>
    some { dst := .only .site, a := .noImm, b := .unused, imm := .sub 0xFFFF }
  | .send _ => some { dst := .only .send, a := .noImm, b := .unused, imm := .sub 0x00FF }
  | .recv _ => some { dst := .regs, a := .unused, b := .unused, imm := .sub 0x00FF }
  | .ldw _ | .ldsy _ => some { dst := .regs, a := .unused, b := .unused, imm := .sub 0xFFFF, win := true }
  | .atomAdd _ _ | .atomMin _ _ | .atomMax _ _ | .atomAnd _ | .atomOr _ | .atomXor _ | .atomXchg _ | .atomInc _ =>
    some { dst := .regs, a := .noImm, b := .unused, imm := .sub 0xFFFF, win := true }
  | .atomCas _ => some { dst := .regs, a := .noImm, b := .noImm, imm := .sub 0xFFFF, win := true }
  | .treq _ => some { dst := .only .xfer, a := .noImm, b := .unused, imm := .sub 0x000F }
  | .mfa t _ => some { dst := .only .feed, a := .port, b := .unused, imm := .sub 0xFFFF, fold := mfaFold t,
                       flg := .zero, pred := false, matrix := true }
  | .mfb _ _ => some { dst := .only .wbuf, a := .port, b := .unused, imm := .sub 0x1FFF, fold := .odd,
                       flg := .zero, matrix := true }
  | .mzero _ => some { dst := .zero, a := .unused, b := .unused, imm := .sub 0x0003, fold := .only 0,
                       flg := .zero, pred := false, matrix := true }
  | .mdrain _ _ => some { dst := .regs, a := .unused, b := .unused, imm := .sub 0x000F, fold := .only 7,
                          flg := .noLast, matrix := true }
  | .mjoin _ => some { dst := .zero, a := .port, b := .unused, imm := .sub 0x0FFF, fold := .only 0,
                       flg := .zero, pred := false, matrix := true }
  | .mchk _ => some { dst := .regs, a := .unused, b := .unused, imm := .sub 0x0003, fold := .only 0,
                      flg := .zero, pred := false, matrix := true }
  | .dtap _ => some { dst := .regs, a := .unused, b := .unused, imm := .sub 0x01FF }
  | _ => none

/-- The operands of a schedule word. -/
def sopOf : Instr → Option SOp
  | .nop o | .pass o | .ptest o => some o
  | .add _ o | .sub _ o | .mul _ o | .mulh _ o | .mad _ o | .min _ o | .max _ o | .abs _ o | .neg _ o => some o
  | .cmp _ _ o | .sel _ o => some o
  | .and o | .or o | .xor o | .andn o | .shl o | .shr o | .sra o | .rot o | .clz o | .popc o => some o
  | .bfxN32 o | .bfxI32 o | .bfi o => some o
  | .fadd _ o | .fsub _ o | .fmul _ o | .fma _ o | .fmin _ o | .fmax _ o | .fabs _ o | .fneg _ o => some o
  | .fcmp _ _ o | .fclass _ o | .fscale _ o | .fround _ o | .cvt _ _ o => some o
  | .mxq _ o | .mxdq _ o | .bpsplit o | .bpjoin o | .pack _ o | .unpack _ o => some o
  | .perm o | .bcast o | .lsh o | .rsum _ o | .rmax _ o | .segscan _ o | .grp o => some o
  | .lut o | .lutr o | .lutc o => some o
  | .lds o | .sts _ o | .ldx o | .stx o | .ldt _ o | .send o | .recv o | .ldw o | .stw o | .ldsy o | .mcast o => some o
  | .atomAdd _ o | .atomMin _ o | .atomMax _ o | .atomAnd o | .atomOr o | .atomXor o | .atomXchg o | .atomCas o
  | .atomInc o => some o
  | .treq o | .mfa _ o | .mfb _ o | .mzero o | .mdrain _ o | .mjoin o | .mchk o | .dtap o => some o
  | _ => none

/-- Whether a source names a register the verifier could find (a neighbour index is a DST code, R95). -/
def srcWf : Src → Bool
  | .nbr _ c => c.toNat < 56
  | _ => true

/-- Whether a source selects the immediate. -/
def isImm : Src → Bool
  | .imm => true
  | _ => false

def srcRuleOk (r : SrcRule) (s : Src) : Bool :=
  srcWf s && match r, s with
  | .unused, s => s == .g 0
  | .any, _ => true
  | .noImm, s => s != .imm
  | .lane, .g _ | .lane, .q _ | .lane, .nbr _ _ => true
  | .lane, _ => false
  | .own, .g _ | .own, .q _ => true
  | .own, _ => false
  | .port, .imm | .port, .bcast _ => false
  | .port, _ => true

def dstRuleOk (r : DstRule) (d : Dst) : Bool :=
  match r, d with
  | .zero, d => d == .g 0
  | .regs, .g _ | .regs, .q _ => true
  | .regs, _ => false
  | .regRes, .g _ | .regRes, .q _ | .regRes, .res | .regRes, .seq => true
  | .regRes, _ => false
  | .regResMask, .g _ | .regResMask, .q _ | .regResMask, .res | .regResMask, .seq | .regResMask, .mask => true
  | .regResMask, _ => false
  | .mask, d => d == .mask
  | .only e, d => d == e

/-- IMM against its use: sub-fields leave no other bit set (R153); a mask destination names m1 to m7 and no source
may then be the immediate (R94); an unused immediate is zero (R107). -/
def immRuleOk (r : ImmRule) (o : SOp) : Bool :=
  match r with
  | .sub m => o.imm &&& ~~~m == 0
  | .value =>
    if o.dst == .mask then field o.imm 2 0 != 0 && field o.imm 15 3 == 0 && !isImm o.a && !isImm o.b
    else if isImm o.a || isImm o.b then true else o.imm == 0

def foldRuleOk (r : FoldRule) (f : Nat) : Bool :=
  match r with
  | .free => true
  | .only n => f == n
  | .block => f == 3 || f == 7
  | .odd => f % 2 == 1

def flgRuleOk (r : FlgRule) (o : SOp) : Bool :=
  match r with
  | .free => true
  | .zero => o.rnd == .rne && !o.sat && !o.pchk && !o.last
  | .noLast => !o.last

/-- The name of the field for which a word is refused with `BAD_FIELD`, or the overlap that is refused with
`REG_OVERLAP` (R138). -/
inductive WfErr | cols | dst | srcA | srcB | pred | win | flg | imm | fold | overlap | minor | notAWord
deriving DecidableEq, Repr

/-- The register code of a destination or an own source (R94, R95): 0 to 47. -/
def dstReg : Dst → Option Nat
  | .g n => some n.val
  | .q n => some (16 + n.val)
  | _ => none

def srcReg : Src → Option Nat
  | .g n => some n.val
  | .q n => some (16 + n.val)
  | _ => none

/-- The next register name of a group (R138); none past g15 or q31. -/
def nextReg (c : Nat) : Option Nat := if c = 15 ∨ c = 47 then none else some (c + 1)

/-- Whether the second register of a group named by `c` exists. -/
def groupOk (c : Option Nat) : Bool := ((c.bind nextReg).isSome)

/-- Whether `s` names register `d` or the one after it. -/
def inGroup (d s : Option Nat) : Bool :=
  match d, s with
  | some d, some s => s == d || s == d + 1
  | _, _ => false

/-- The refusals that one form adds to the shape of its fields. `abs` and `neg` have no unsigned types (R154, R155). -/
def extraCheck (i : Instr) (o : SOp) : Option WfErr :=
  let w := 8 * (o.fold.val + 1)
  match i with
  | .abs t _ | .neg t _ =>
    if t = .n8 ∨ t = .n16 ∨ t = .n32 then some .minor
    else if t = .i8 ∧ isImm o.a ∧ field o.imm 15 8 ≠ 0 then some .imm else none
  | .add t _ | .sub t _ | .mul t _ | .mulh t _ | .mad t _ | .min t _ | .max t _ | .cmp _ t _ =>
    if (t = .i8 ∨ t = .n8) ∧ (isImm o.a || isImm o.b) ∧ field o.imm 15 8 ≠ 0 then some .imm else none
  | .cvt d s _ =>
    if d = s then some .srcB
    else if isImm o.a ∧ (s = .i8 ∨ s = .n8 ∨ s = .e4m3 ∨ s = .e5m2) ∧ field o.imm 15 8 ≠ 0 then some .imm
    else if isImm o.a ∧ s = .e2m1 ∧ field o.imm 15 4 ≠ 0 then some .imm
    else none
  | .mxq _ _ => if !groupOk (dstReg o.dst) then some .dst
    else if inGroup (dstReg o.dst) (srcReg o.a) then some .overlap else none
  | .mxdq _ _ => if !groupOk (srcReg o.a) then some .srcA
    else if inGroup (srcReg o.a) (dstReg o.dst) then some .overlap else none
  | .bpjoin _ => if field o.imm 2 0 = 7 then some .imm else none
  | .bcast _ => if w ≤ field o.imm 5 0 then some .imm else none
  | .grp _ => if !groupOk (dstReg o.dst) then some .dst
    else if inGroup (dstReg o.dst) (srcReg o.a) || inGroup (dstReg o.dst) (srcReg o.b) then some .overlap
    else if !bitAt o.imm 0 ∧ field o.imm 2 1 ≠ 0 then some .imm else none
  | .mfa t _ =>
    let p := field o.imm 13 12
    let ok : Bool := match t with
      | .e4m3 | .e5m2 | .i8 | .n8 | .mxf8 | .mxi8 => decide (p ≤ 2)
      | .e2m1 | .mxf4 => p == 1
      | .f16 | .bf16 => p == 0
    if ok then none else some .imm
  | .mfb f _ =>
    let n := (o.fold.val + 1) / 2
    let scaled := match f with
      | .ty .mxf8 | .ty .mxi8 | .ty .mxf4 | .bp _ => true
      | _ => false
    if 4095 < field o.imm 11 0 + 16 * n - 1 then some .imm
    else if bitAt o.imm 12 ∧ !scaled then some .imm else none
  | .mdrain t _ => if t ≠ .f32 ∧ 2 ≤ field o.imm 3 2 then some .imm else none
  | .mjoin _ =>
    if field o.imm 11 9 = 7 then some .imm
    else if !bitAt o.imm 2 ∧ field o.imm 11 3 ≠ 0 then some .imm else none
  | .dtap _ => if 511 < field o.imm 8 0 + w - 1 then some .imm else none
  | _ => none

/-- The first refusal of a schedule word by its own fields. -/
def schedCheck (i : Instr) (r : FormRule) (o : SOp) : Option WfErr :=
  if o.colL.toNat < o.colF.toNat then some .cols
  else if !dstRuleOk r.dst o.dst then some .dst
  else if o.dst = .seq ∧ o.colF ≠ o.colL then some .cols
  else if !srcRuleOk r.a o.a then some .srcA
  else if !srcRuleOk r.b o.b then some .srcB
  else if isImm o.a && isImm o.b then some .srcB
  else if !immRuleOk r.imm o then some .imm
  else if !foldRuleOk r.fold o.fold.val then some .fold
  else if !flgRuleOk r.flg o then some .flg
  else if !r.pred ∧ (o.predNeg ∨ o.predMask ≠ 0) then some .pred
  else if r.win != (o.win != 0) then some .win
  else if r.matrix ∧ (o.colF.toNat % 4 ≠ 0 ∨ (o.colL.toNat + 1) % 4 ≠ 0) then some .cols
  else extraCheck i o

/-- The first refusal of a control word by its own fields: the cell range of `dpatch` (R103). The typed operands
of the other control words hold only what their forms admit. -/
def ctrlCheck : Instr → Option WfErr
  | .dpatch _ f m => if 511 < f.val + m.val then some .imm else none
  | _ => none

/-- Whether a constructor is a control word (R102). -/
def isCtrl : Instr → Bool
  | .seqAdd .. | .seqSub .. | .seqMul .. | .seqMulh .. | .seqMulhu .. | .seqAnd .. | .seqOr .. | .seqXor .. => true
  | .seqAndn .. | .seqShl .. | .seqShr .. | .seqSra .. | .seqMin .. | .seqMax .. | .seqMinu .. | .seqMaxu .. => true
  | .addi .. | .andi .. | .ori .. | .xori .. | .shli .. | .shri .. | .srai .. | .li .. | .lsi .. => true
  | .kcmp .. | .kand .. | .kor .. | .kxor .. | .knot .. | .ld .. | .st .. => true
  | .beq .. | .bne .. | .blt .. | .bltu .. | .bge .. | .bgeu .. | .bk .. | .bnk .. | .j .. | .call .. | .ret .. | .jr .. => true
  | .loop .. | .run .. | .hold .. | .wake .. | .csync .. | .ctok .. | .rvinit .. | .rvarr .. | .rvwait .. => true
  | .hwait .. | .hfree .. | .hstat .. | .sbar .. | .fenceWay | .fence .. | .mload .. | .mswap .. | .mcancel => true
  | .dpatch .. | .dset .. | .dstep .. | .dstop .. | .dsave .. | .drest .. | .trap .. | .eret | .csrr .. | .csrw .. => true
  | .halt | .nrg .. | .gen .. => true
  | _ => false

/-- The first refusal of a word by itself, or none when it is well formed; an event is no word. -/
def wfCheck (i : Instr) : Option WfErr :=
  match formRule i, sopOf i with
  | some r, some o => schedCheck i r o
  | _, _ => if isCtrl i then ctrlCheck i else some .notAWord

/-- A word the verifier does not refuse by its own fields. -/
def wellFormed (i : Instr) : Bool := (wfCheck i).isNone

end Sys2Proof
end

