-- ==== Sys2Proof/Decode.lean ====
section
/-! DEFINITION. The decoder of schedule words and control words (R91 to R103, R107), total on any bits and refusing by
name, and the encoder written from the same tables. -/

namespace Sys2Proof

/-- The fates of an encoding that is not an instruction (R107). -/
inductive DecErr | rsvMajor | illegalMinor | badField (f : WfErr)
deriving DecidableEq, Repr

/-- The fields of a schedule word (R92). -/
structure SFields where
  maj : BitVec 6
  min : BitVec 6
  fold : BitVec 3
  colF : BitVec 5
  colL : BitVec 5
  dst : BitVec 6
  sas : BitVec 3
  sai : BitVec 6
  sbs : BitVec 3
  sbi : BitVec 6
  pred : BitVec 4
  win : BitVec 6
  flg : BitVec 5
  imm : BitVec 16
deriving DecidableEq, Repr

/-- The schedule word that holds the fields (R92), most significant first. -/
def SFields.pack (f : SFields) : SchedWord :=
  (f.maj ++ f.min ++ f.fold ++ f.colF ++ f.colL ++ f.dst ++ f.sas ++ f.sai ++ f.sbs ++ f.sbi ++ f.pred ++ f.win
    ++ f.flg ++ f.imm : BitVec 80)

/-- The fields of a schedule word (R92). -/
def SFields.unpack (w : SchedWord) : SFields :=
  { maj := w.extractLsb' 74 6, min := w.extractLsb' 68 6, fold := w.extractLsb' 65 3, colF := w.extractLsb' 60 5,
    colL := w.extractLsb' 55 5, dst := w.extractLsb' 49 6, sas := w.extractLsb' 46 3, sai := w.extractLsb' 40 6,
    sbs := w.extractLsb' 37 3, sbi := w.extractLsb' 31 6, pred := w.extractLsb' 27 4, win := w.extractLsb' 21 6,
    flg := w.extractLsb' 16 5, imm := w.extractLsb' 0 16 }

/-- The fields of a control word (R101). -/
structure CFields where
  maj : BitVec 6
  min : BitVec 6
  a : BitVec 5
  b : BitVec 5
  imm : BitVec 18
deriving DecidableEq, Repr

def CFields.pack (f : CFields) : CtrlWord := (f.maj ++ f.min ++ f.a ++ f.b ++ f.imm : BitVec 40)

def CFields.unpack (w : CtrlWord) : CFields :=
  { maj := w.extractLsb' 34 6, min := w.extractLsb' 28 6, a := w.extractLsb' 23 5, b := w.extractLsb' 18 5,
    imm := w.extractLsb' 0 18 }

/-! ## Type codes (R99, R100) -/

def IntTy.code : IntTy → Nat
  | .i8 => 0 | .i16 => 1 | .i32 => 2 | .n8 => 3 | .n16 => 4 | .n32 => 5

def intTyOf : Nat → Option IntTy
  | 0 => some .i8 | 1 => some .i16 | 2 => some .i32 | 3 => some .n8 | 4 => some .n16 | 5 => some .n32 | _ => none

/-- Types of `abs` and `neg` (R154, R155): the signed ones. -/
def signedTyOf (n : Nat) : Option IntTy := if n < 3 then intTyOf n else none

def FltTy.code : FltTy → Nat
  | .f32 => 0 | .f16 => 1 | .bf16 => 2

def fltTyOf : Nat → Option FltTy
  | 0 => some .f32 | 1 => some .f16 | 2 => some .bf16 | _ => none

def Fmt.code : Fmt → Nat
  | .i8 => 0 | .i16 => 1 | .i32 => 2 | .n8 => 3 | .n16 => 4 | .n32 => 5 | .f32 => 8 | .f16 => 9 | .bf16 => 10
  | .e4m3 => 11 | .e5m2 => 12 | .e2m1 => 13

def fmtOf : Nat → Option Fmt
  | 0 => some .i8 | 1 => some .i16 | 2 => some .i32 | 3 => some .n8 | 4 => some .n16 | 5 => some .n32
  | 8 => some .f32 | 9 => some .f16 | 10 => some .bf16 | 11 => some .e4m3 | 12 => some .e5m2 | 13 => some .e2m1
  | _ => none

def MTy.code : MTy → Nat
  | .e4m3 => 0 | .e5m2 => 1 | .i8 => 2 | .n8 => 3 | .f16 => 4 | .bf16 => 5 | .mxf8 => 6 | .mxi8 => 7 | .e2m1 => 8
  | .mxf4 => 9

def mTyOf : Nat → Option MTy
  | 0 => some .e4m3 | 1 => some .e5m2 | 2 => some .i8 | 3 => some .n8 | 4 => some .f16 | 5 => some .bf16
  | 6 => some .mxf8 | 7 => some .mxi8 | 8 => some .e2m1 | 9 => some .mxf4 | _ => none

def Cond.code : Cond → Nat
  | .eq => 1 | .ne => 2 | .lt => 3 | .le => 4 | .gt => 5 | .ge => 6

def condOf : Nat → Option Cond
  | 1 => some .eq | 2 => some .ne | 3 => some .lt | 4 => some .le | 5 => some .gt | 6 => some .ge | _ => none

def FCond.code : FCond → Nat
  | .eq => 0 | .ne => 1 | .lt => 2 | .le => 3 | .un => 4

def fCondOf : Nat → Option FCond
  | 0 => some .eq | 1 => some .ne | 2 => some .lt | 3 => some .le | 4 => some .un | _ => none

def MxTy.code : MxTy → Nat
  | .mxi8 => 0 | .mxf8 => 1 | .mxf4 => 2

def mxTyOf : Nat → Option MxTy
  | 0 => some .mxi8 | 1 => some .mxf8 | 2 => some .mxf4 | _ => none

def PackTy.code : PackTy → Nat
  | .i16 => 0 | .n16 => 1 | .i8 => 2 | .n8 => 3 | .f16 => 4 | .bf16 => 5

def packTyOf : Nat → Option PackTy
  | 0 => some .i16 | 1 => some .n16 | 2 => some .i8 | 3 => some .n8 | 4 => some .f16 | 5 => some .bf16 | _ => none

def KCond.code : KCond → Nat
  | .eq => 0 | .ne => 1 | .lt => 2 | .ltu => 3 | .ge => 4 | .geu => 5

def kCondOf : Nat → Option KCond
  | 0 => some .eq | 1 => some .ne | 2 => some .lt | 3 => some .ltu | 4 => some .ge | 5 => some .geu | _ => none

def LdTy.code : LdTy → Nat
  | .i8 => 0 | .n8 => 1 | .i16 => 2 | .n16 => 3 | .i32 => 4 | .n32 => 5 | .i64 => 6

def ldTyOf : Nat → Option LdTy
  | 0 => some .i8 | 1 => some .n8 | 2 => some .i16 | 3 => some .n16 | 4 => some .i32 | 5 => some .n32
  | 6 => some .i64 | _ => none

def StTy.code : StTy → Nat
  | .i8 => 0 | .i16 => 1 | .i32 => 2 | .i64 => 3

def stTyOf : Nat → Option StTy
  | 0 => some .i8 | 1 => some .i16 | 2 => some .i32 | 3 => some .i64 | _ => none

/-! ## Schedule operands (R92 to R96) -/

/-- The DST code of a destination (R94). -/
def Dst.code : Dst → Nat
  | .g n => n.val
  | .q n => 16 + n.val
  | .site => 48 | .send => 49 | .xfer => 50 | .feed => 51 | .mask => 52 | .wbuf => 53 | .res => 54 | .seq => 55

def dstOf (c : Nat) : Option Dst :=
  if h : c < 16 then some (.g ⟨c, h⟩)
  else if h : c - 16 < 32 then some (.q ⟨c - 16, h⟩)
  else match c with
    | 48 => some .site | 49 => some .send | 50 => some .xfer | 51 => some .feed | 52 => some .mask
    | 53 => some .wbuf | 54 => some .res | 55 => some .seq
    | _ => none

def Dir.code : Dir → Nat
  | .north => 1 | .south => 2 | .west => 4 | .east => 3

/-- The select and the index of a source (R95). -/
def Src.code : Src → BitVec 3 × BitVec 6
  | .g n => (0, BitVec.ofNat 6 n.val)
  | .q n => (0, BitVec.ofNat 6 (16 + n.val))
  | .nbr d c => (BitVec.ofNat 3 d.code, c)
  | .imm => (5, 0)
  | .lb n => (6, BitVec.ofNat 6 n.val)
  | .siteP => (6, 8)
  | .recvP => (6, 16)
  | .ddaP => (6, 24)
  | .bcast n => (7, BitVec.ofNat 6 n.val)

def srcOf (sel : BitVec 3) (idx : BitVec 6) : Option Src :=
  match sel.toNat with
  | 0 => if h : idx.toNat < 16 then some (.g ⟨idx.toNat, h⟩)
         else if h : idx.toNat - 16 < 32 then some (.q ⟨idx.toNat - 16, h⟩) else none
  | 1 => some (.nbr .north idx)
  | 2 => some (.nbr .south idx)
  | 3 => some (.nbr .east idx)
  | 4 => some (.nbr .west idx)
  | 5 => if idx = 0 then some .imm else none
  | 6 => if h : idx.toNat < 4 then some (.lb ⟨idx.toNat, h⟩)
         else match idx.toNat with
           | 8 => some .siteP | 16 => some .recvP | 24 => some .ddaP | _ => none
  | _ => if h : idx.toNat < 32 then some (.bcast ⟨idx.toNat, h⟩) else none

/-- RND of FLG (R48); 2 and 3 are reserved. -/
def Rnd.code : Rnd → BitVec 2
  | .rne => 0 | .rtz => 1

def rndOf (c : BitVec 2) : Option Rnd := if c = 0 then some .rne else if c = 1 then some .rtz else none

/-- FLG (R48, R92): RND in bits 20..19, SAT 18, PCHK 17, LAST 16. -/
def SOp.flg (o : SOp) : BitVec 5 :=
  (o.rnd.code ++ BitVec.ofBool o.sat ++ BitVec.ofBool o.pchk ++ BitVec.ofBool o.last : BitVec 5)

/-- The typed operands of a schedule word. The index of source B is an argument, for `cvt`'s holds a format. -/
def sopOfFields (f : SFields) (sbi : BitVec 6) : Except WfErr SOp :=
  match dstOf f.dst.toNat with
  | none => .error .dst
  | some dst => match srcOf f.sas f.sai with
    | none => .error .srcA
    | some a => match srcOf f.sbs sbi with
      | none => .error .srcB
      | some b => match rndOf (f.flg.extractLsb' 3 2) with
        | none => .error .flg
        | some rnd => .ok { fold := f.fold.toFin, colF := f.colF, colL := f.colL, dst := dst, a := a, b := b,
                            predNeg := f.pred.getLsbD 3, predMask := (f.pred.extractLsb' 0 3).toFin, win := f.win,
                            rnd := rnd, sat := f.flg.getLsbD 2, pchk := f.flg.getLsbD 1, last := f.flg.getLsbD 0,
                            imm := f.imm }

/-- The fields that hold the typed operands. -/
def fieldsOfSop (maj min : Nat) (o : SOp) (sbi : BitVec 6) : SFields :=
  { maj := BitVec.ofNat 6 maj, min := BitVec.ofNat 6 min, fold := BitVec.ofFin o.fold, colF := o.colF,
    colL := o.colL, dst := BitVec.ofNat 6 o.dst.code, sas := o.a.code.1, sai := o.a.code.2, sbs := o.b.code.1,
    sbi := sbi, pred := (BitVec.ofBool o.predNeg ++ (BitVec.ofFin o.predMask : BitVec 3) : BitVec 4), win := o.win,
    flg := o.flg, imm := o.imm }

/-! ## Schedule opcodes (R99, R100) -/

/-- The instruction of a major and a minor outside major 8. -/
def schedOf (maj min : Nat) (o : SOp) : Option Instr :=
  match maj with
  | 0 => match min with
    | 0 => some (.nop o) | 1 => some (.pass o) | 2 => some (.ptest o) | _ => none
  | 1 => match min % 8 with
    | 0 => (intTyOf (min / 8)).map fun t => .add t o
    | 1 => (intTyOf (min / 8)).map fun t => .sub t o
    | 2 => (intTyOf (min / 8)).map fun t => .mul t o
    | 3 => (intTyOf (min / 8)).map fun t => .mulh t o
    | 4 => (intTyOf (min / 8)).map fun t => .mad t o
    | 5 => (intTyOf (min / 8)).map fun t => .min t o
    | 6 => (intTyOf (min / 8)).map fun t => .max t o
    | _ => (signedTyOf (min / 8)).map fun t => .abs t o
  | 2 => match min % 8 with
    | 0 => (signedTyOf (min / 8)).map fun t => .neg t o
    | 7 => (intTyOf (min / 8)).map fun t => .sel t o
    | c => (condOf c).bind fun c => (intTyOf (min / 8)).map fun t => .cmp c t o
  | 3 => match min with
    | 0 => some (.and o) | 1 => some (.or o) | 2 => some (.xor o) | 3 => some (.andn o) | 4 => some (.shl o)
    | 5 => some (.shr o) | 6 => some (.sra o) | 7 => some (.rot o) | 8 => some (.clz o) | 9 => some (.popc o)
    | 10 => some (.bfxN32 o) | 11 => some (.bfxI32 o) | 12 => some (.bfi o) | _ => none
  | 4 => match min % 8 with
    | 0 => (fltTyOf (min / 8)).map fun t => .fadd t o
    | 1 => (fltTyOf (min / 8)).map fun t => .fsub t o
    | 2 => (fltTyOf (min / 8)).map fun t => .fmul t o
    | 3 => (fltTyOf (min / 8)).map fun t => .fma t o
    | 4 => (fltTyOf (min / 8)).map fun t => .fmin t o
    | 5 => (fltTyOf (min / 8)).map fun t => .fmax t o
    | 6 => (fltTyOf (min / 8)).map fun t => .fabs t o
    | _ => (fltTyOf (min / 8)).map fun t => .fneg t o
  | 5 => match min % 8 with
    | 5 => (fltTyOf (min / 8)).map fun t => .fclass t o
    | 6 => (fltTyOf (min / 8)).map fun t => .fscale t o
    | 7 => (fltTyOf (min / 8)).map fun t => .fround t o
    | c => (fCondOf c).bind fun c => (fltTyOf (min / 8)).map fun t => .fcmp c t o
  | 9 => match min / 8 with
    | 0 => match min with
      | 0 => some (.mxq .mxi8 o) | 1 => some (.mxq .mxf8 o) | 2 => some (.mxq .mxf4 o)
      | 4 => some (.mxdq .mxi8 o) | 5 => some (.mxdq .mxf8 o) | 6 => some (.mxdq .mxf4 o) | _ => none
    | 1 => match min with
      | 8 => some (.bpsplit o) | 9 => some (.bpjoin o) | _ => none
    | 2 => (packTyOf (min - 16)).map fun t => .pack t o
    | 3 => (packTyOf (min - 24)).map fun t => .unpack t o
    | _ => none
  | 12 => match min with
    | 0 => some (.perm o) | 1 => some (.bcast o) | 2 => some (.lsh o) | 3 => some (.rsum .i32 o)
    | 4 => some (.rsum .f32 o) | 5 => some (.rmax .i32 o) | 6 => some (.rmax .n32 o) | 7 => some (.rmax .f32 o)
    | 8 => some (.segscan .i32 o) | 9 => some (.segscan .f32 o) | 10 => some (.grp o) | _ => none
  | 13 => match min with
    | 0 => some (.lut o) | 1 => some (.lutr o) | 2 => some (.lutc o) | _ => none
  | 16 => match min with
    | 0 => some (.lds o) | 1 => some (.sts .n32 o) | 2 => some (.ldx o) | 3 => some (.stx o) | 4 => some (.ldt .n32 o)
    | 5 => some (.send o) | 6 => some (.recv o) | 7 => some (.ldw o) | 8 => some (.stw o) | 9 => some (.ldsy o)
    | 10 => some (.mcast o) | 11 => some (.ldt .n16 o) | 12 => some (.sts .n8 o) | 13 => some (.sts .n16 o) | _ => none
  | 17 => match min with
    | 0 => some (.atomAdd .i32 o) | 1 => some (.atomAdd .f32 o) | 2 => some (.atomMin .i32 o)
    | 3 => some (.atomMax .i32 o) | 4 => some (.atomMin .n32 o) | 5 => some (.atomMax .n32 o) | 6 => some (.atomAnd o)
    | 7 => some (.atomOr o) | 8 => some (.atomXor o) | 9 => some (.atomXchg o) | 10 => some (.atomCas o)
    | 11 => some (.atomInc o) | _ => none
  | 20 => match min with
    | 0 => some (.treq o) | _ => none
  | 24 => match min with
    | 40 => some (.mzero o) | 41 => some (.mdrain .f32 o) | 42 => some (.mdrain .f16 o) | 43 => some (.mdrain .bf16 o)
    | 44 => some (.mjoin o) | 45 => some (.mchk o)
    | m => if m < 16 then (mTyOf m).map fun t => .mfa t o
           else if m < 26 then (mTyOf (m - 16)).map fun t => .mfb (.ty t) o
           else if h : m - 26 < 7 then some (.mfb (.bp ⟨m - 26, h⟩) o) else none
  | 28 => match min with
    | 0 => some (.dtap o) | _ => none
  | _ => none

/-- The major, the minor and the operands of a schedule word; `cvt`'s source format is its index of source B. -/
def schedCode : Instr → Option (Nat × Nat × SOp × Option Fmt)
  | .nop o => some (0, 0, o, none) | .pass o => some (0, 1, o, none) | .ptest o => some (0, 2, o, none)
  | .add t o => some (1, 8 * t.code, o, none) | .sub t o => some (1, 8 * t.code + 1, o, none)
  | .mul t o => some (1, 8 * t.code + 2, o, none) | .mulh t o => some (1, 8 * t.code + 3, o, none)
  | .mad t o => some (1, 8 * t.code + 4, o, none) | .min t o => some (1, 8 * t.code + 5, o, none)
  | .max t o => some (1, 8 * t.code + 6, o, none) | .abs t o => some (1, 8 * t.code + 7, o, none)
  | .neg t o => some (2, 8 * t.code, o, none) | .cmp c t o => some (2, 8 * t.code + c.code, o, none)
  | .sel t o => some (2, 8 * t.code + 7, o, none)
  | .and o => some (3, 0, o, none) | .or o => some (3, 1, o, none) | .xor o => some (3, 2, o, none)
  | .andn o => some (3, 3, o, none) | .shl o => some (3, 4, o, none) | .shr o => some (3, 5, o, none)
  | .sra o => some (3, 6, o, none) | .rot o => some (3, 7, o, none) | .clz o => some (3, 8, o, none)
  | .popc o => some (3, 9, o, none) | .bfxN32 o => some (3, 10, o, none) | .bfxI32 o => some (3, 11, o, none)
  | .bfi o => some (3, 12, o, none)
  | .fadd t o => some (4, 8 * t.code, o, none) | .fsub t o => some (4, 8 * t.code + 1, o, none)
  | .fmul t o => some (4, 8 * t.code + 2, o, none) | .fma t o => some (4, 8 * t.code + 3, o, none)
  | .fmin t o => some (4, 8 * t.code + 4, o, none) | .fmax t o => some (4, 8 * t.code + 5, o, none)
  | .fabs t o => some (4, 8 * t.code + 6, o, none) | .fneg t o => some (4, 8 * t.code + 7, o, none)
  | .fcmp c t o => some (5, 8 * t.code + c.code, o, none) | .fclass t o => some (5, 8 * t.code + 5, o, none)
  | .fscale t o => some (5, 8 * t.code + 6, o, none) | .fround t o => some (5, 8 * t.code + 7, o, none)
  | .cvt d s o => some (8, d.code, o, some s)
  | .mxq f o => some (9, f.code, o, none) | .mxdq f o => some (9, 4 + f.code, o, none)
  | .bpsplit o => some (9, 8, o, none) | .bpjoin o => some (9, 9, o, none)
  | .pack t o => some (9, 16 + t.code, o, none) | .unpack t o => some (9, 24 + t.code, o, none)
  | .perm o => some (12, 0, o, none) | .bcast o => some (12, 1, o, none) | .lsh o => some (12, 2, o, none)
  | .rsum .i32 o => some (12, 3, o, none) | .rsum .f32 o => some (12, 4, o, none)
  | .rmax .i32 o => some (12, 5, o, none) | .rmax .n32 o => some (12, 6, o, none)
  | .rmax .f32 o => some (12, 7, o, none) | .segscan .i32 o => some (12, 8, o, none)
  | .segscan .f32 o => some (12, 9, o, none) | .grp o => some (12, 10, o, none)
  | .lut o => some (13, 0, o, none) | .lutr o => some (13, 1, o, none) | .lutc o => some (13, 2, o, none)
  | .lds o => some (16, 0, o, none) | .sts .n32 o => some (16, 1, o, none) | .sts .n8 o => some (16, 12, o, none)
  | .sts .n16 o => some (16, 13, o, none) | .ldx o => some (16, 2, o, none) | .stx o => some (16, 3, o, none)
  | .ldt .n32 o => some (16, 4, o, none) | .ldt .n16 o => some (16, 11, o, none) | .send o => some (16, 5, o, none)
  | .recv o => some (16, 6, o, none) | .ldw o => some (16, 7, o, none) | .stw o => some (16, 8, o, none)
  | .ldsy o => some (16, 9, o, none) | .mcast o => some (16, 10, o, none)
  | .atomAdd .i32 o => some (17, 0, o, none) | .atomAdd .f32 o => some (17, 1, o, none)
  | .atomMin .i32 o => some (17, 2, o, none) | .atomMax .i32 o => some (17, 3, o, none)
  | .atomMin .n32 o => some (17, 4, o, none) | .atomMax .n32 o => some (17, 5, o, none)
  | .atomAnd o => some (17, 6, o, none) | .atomOr o => some (17, 7, o, none) | .atomXor o => some (17, 8, o, none)
  | .atomXchg o => some (17, 9, o, none) | .atomCas o => some (17, 10, o, none) | .atomInc o => some (17, 11, o, none)
  | .treq o => some (20, 0, o, none)
  | .mfa t o => some (24, t.code, o, none) | .mfb (.ty t) o => some (24, 16 + t.code, o, none)
  | .mfb (.bp k) o => some (24, 26 + k.val, o, none) | .mzero o => some (24, 40, o, none)
  | .mdrain .f32 o => some (24, 41, o, none) | .mdrain .f16 o => some (24, 42, o, none)
  | .mdrain .bf16 o => some (24, 43, o, none) | .mjoin o => some (24, 44, o, none) | .mchk o => some (24, 45, o, none)
  | .dtap o => some (28, 0, o, none)
  | _ => none

/-- The instruction that the fields of a schedule word name, its fields' ranges not yet checked by form. -/
def schedOfFields (f : SFields) : Except DecErr Instr :=
  if 56 ≤ f.maj.toNat then .error .rsvMajor
  else if f.maj = 8 then
    match fmtOf f.min.toNat with
    | none => .error (.badField .minor)
    | some d => match fmtOf f.sbi.toNat with
      | none => .error (.badField .srcB)
      | some s => if f.sbs ≠ 0 then .error (.badField .srcB) else match sopOfFields f 0 with
        | .error e => .error (.badField e)
        | .ok o => .ok (.cvt d s o)
  else if (schedOf f.maj.toNat f.min.toNat {}).isNone then .error .illegalMinor
  else match sopOfFields f f.sbi with
    | .error e => .error (.badField e)
    | .ok o => match schedOf f.maj.toNat f.min.toNat o with
      | some i => .ok i
      | none => .error .illegalMinor

/-- The instruction, refused where a form does not admit its fields (R107). -/
def checked (i : Instr) : Except DecErr Instr :=
  match wfCheck i with
  | none => .ok i
  | some e => .error (.badField e)

/-- What a schedule word is (R92 to R100, R107). -/
def decodeSched (w : SchedWord) : Except DecErr Instr :=
  match schedOfFields (SFields.unpack w) with
  | .error e => .error e
  | .ok i => checked i

/-- The fields of a schedule instruction. -/
def schedFields (i : Instr) : Option SFields :=
  match schedCode i with
  | some (maj, min, o, none) => some (fieldsOfSop maj min o o.b.code.2)
  | some (maj, min, o, some s) => some (fieldsOfSop maj min o (BitVec.ofNat 6 s.code))
  | none => none

/-- The word of a schedule instruction; none for anything else. -/
def encodeSched (i : Instr) : Option SchedWord := (schedFields i).map SFields.pack

/-! ## Control words (R101 to R103) -/

/-- Whether the control opcode grid names an instruction (R102). -/
def ctrlDefined (maj min : Nat) : Bool :=
  match maj with
  | 0 => decide (min < 16)
  | 1 => min == 0 || (decide (5 ≤ min) && decide (min < 8)) || (decide (9 ≤ min) && decide (min < 12))
  | 2 => decide (min < 2)
  | 3 => decide (min < 6) || (decide (8 ≤ min) && decide (min < 12))
  | 4 => decide (min < 7)
  | 5 => decide (min < 4)
  | 6 => decide (min < 12)
  | 7 => decide (min < 4)
  | 8 => decide (min < 11)
  | 9 => decide (min < 3)
  | 10 => decide (min < 6)
  | 11 => decide (min < 7)
  | _ => false

def aReg (x : BitVec 5) : AReg := x.toFin

/-- A predicate field: bits 4..3 must be zero (R101). -/
def kReg (x : BitVec 5) : Option KReg := if h : x.toNat < 8 then some ⟨x.toNat, h⟩ else none

/-- Source 2 in IMM[17:13], the rest of IMM zero (R103). -/
def src2 (imm : BitVec 18) : Option AReg :=
  if imm.extractLsb' 0 13 = 0 then some (aReg (imm.extractLsb' 13 5)) else none

/-- Predicate 2 in IMM[15:13], the rest of IMM zero (R103). -/
def pred2 (imm : BitVec 18) : Option KReg :=
  if imm.extractLsb' 0 13 = 0 then kReg (imm.extractLsb' 13 5) else none

/-- A number below n in IMM[m-1:0], the rest of IMM zero. -/
def immFin (imm : BitVec 18) (n : Nat) : Option (Fin n) := if h : imm.toNat < n then some ⟨imm.toNat, h⟩ else none

/-- The n low bits of IMM as a word, the rest of IMM zero. -/
def immBits (imm : BitVec 18) (n : Nat) : Option (BitVec n) :=
  if imm.toNat < 2 ^ n then some (BitVec.ofNat n imm.toNat) else none

/-- A three-register form (R103). -/
def threeA (f : CFields) (k : AReg → AReg → AReg → Instr) : Option Instr :=
  (src2 f.imm).map fun y => k (aReg f.a) (aReg f.b) y

/-- A two-register form with an immediate. -/
def twoA (f : CFields) (k : AReg → AReg → BitVec 18 → Instr) : Option Instr := some (k (aReg f.a) (aReg f.b) f.imm)

/-- Token line 2, 3 or 4 (R127). -/
def ctokOf (n : Nat) : Option CtokLine :=
  match n with
  | 2 => some .step | 3 => some .clear | 4 => some .unit | _ => none

def CtokLine.code : CtokLine → Nat
  | .step => 2 | .clear => 3 | .unit => 4

/-- The instruction of a control word's fields; none where a field is out of its range or unused and not zero. -/
def ctrlOf (f : CFields) : Option Instr :=
  match f.maj.toNat with
  | 0 => match f.min.toNat with
    | 0 => threeA f .seqAdd | 1 => threeA f .seqSub | 2 => threeA f .seqMul | 3 => threeA f .seqMulh
    | 4 => threeA f .seqMulhu | 5 => threeA f .seqAnd | 6 => threeA f .seqOr | 7 => threeA f .seqXor
    | 8 => threeA f .seqAndn | 9 => threeA f .seqShl | 10 => threeA f .seqShr | 11 => threeA f .seqSra
    | 12 => threeA f .seqMin | 13 => threeA f .seqMax | 14 => threeA f .seqMinu | 15 => threeA f .seqMaxu
    | _ => none
  | 1 => match f.min.toNat with
    | 0 => twoA f .addi | 5 => twoA f .andi | 6 => twoA f .ori | 7 => twoA f .xori
    | 9 => (immBits f.imm 6).map fun n => .shli (aReg f.a) (aReg f.b) n
    | 10 => (immBits f.imm 6).map fun n => .shri (aReg f.a) (aReg f.b) n
    | 11 => (immBits f.imm 6).map fun n => .srai (aReg f.a) (aReg f.b) n
    | _ => none
  | 2 => if f.b ≠ 0 then none else match f.min.toNat with
    | 0 => some (.lsi (aReg f.a) f.imm) | 1 => some (.li (aReg f.a) f.imm) | _ => none
  | 3 => if f.min.toNat < 8 then
      (kCondOf f.min.toNat).bind fun c => (kReg f.a).bind fun k => (src2 f.imm).map fun y => .kcmp c k (aReg f.b) y
    else if f.min.toNat = 11 then
      if f.imm ≠ 0 then none else (kReg f.a).bind fun k => (kReg f.b).map fun x => .knot k x
    else (kReg f.a).bind fun k => (kReg f.b).bind fun x => (pred2 f.imm).bind fun y => match f.min.toNat with
      | 8 => some (.kand k x y) | 9 => some (.kor k x y) | 10 => some (.kxor k x y) | _ => none
  | 4 => (ldTyOf f.min.toNat).map fun t => .ld t (aReg f.a) (aReg f.b) f.imm
  | 5 => (stTyOf f.min.toNat).map fun t => .st t (aReg f.a) (aReg f.b) f.imm
  | 6 => match f.min.toNat with
    | 0 => twoA f .beq | 1 => twoA f .bne | 2 => twoA f .blt | 3 => twoA f .bltu | 4 => twoA f .bge | 5 => twoA f .bgeu
    | 6 => if f.b ≠ 0 then none else (kReg f.a).map fun k => .bk k f.imm
    | 7 => if f.b ≠ 0 then none else (kReg f.a).map fun k => .bnk k f.imm
    | 8 => if f.a ≠ 0 ∨ f.b ≠ 0 then none else some (.j f.imm)
    | 9 => if f.b ≠ 0 then none else some (.call (aReg f.a) f.imm)
    | 10 => if f.b ≠ 0 ∨ f.imm ≠ 0 then none else some (.ret (aReg f.a))
    | 11 => if f.b ≠ 0 ∨ f.imm ≠ 0 then none else some (.jr (aReg f.a))
    | _ => none
  | 7 => match f.min.toNat with
    | 0 => if f.imm ≠ 0 then none else some (.loop (aReg f.a) (aReg f.b))
    | 1 => if f.a ≠ 0 ∨ f.imm ≠ 0 then none else some (.run (aReg f.b))
    | 2 => if f.a ≠ 0 ∨ f.b ≠ 0 then none else (immBits f.imm 8).map fun s => .hold s
    | 3 => if f.a ≠ 0 ∨ f.b ≠ 0 then none else (immBits f.imm 8).map fun s => .wake s
    | _ => none
  | 8 => match f.min.toNat with
    | 0 => if f.a ≠ 0 ∨ f.imm ≠ 0 then none else some (.csync (aReg f.b))
    | 1 => if f.a ≠ 0 ∨ f.b ≠ 0 then none else (ctokOf f.imm.toNat).map fun l => .ctok l
    | 2 => if f.b ≠ 0 then none else (immFin f.imm 24).map fun w => .rvinit (aReg f.a) w
    | 3 => if f.a ≠ 0 ∨ f.b ≠ 0 then none else (immFin f.imm 24).map fun w => .rvarr w
    | 4 => if f.a ≠ 0 ∨ f.b ≠ 0 then none else (immFin f.imm 24).map fun w => .rvwait w
    | 5 => if f.a ≠ 0 ∨ f.b ≠ 0 then none else (immFin f.imm 64).map fun h => .hwait h
    | 6 => if f.a ≠ 0 ∨ f.b ≠ 0 then none else (immFin f.imm 64).map fun h => .hfree h
    | 7 => if f.b ≠ 0 then none else (immFin f.imm 64).map fun h => .hstat (aReg f.a) h
    | 8 => if f.a ≠ 0 ∨ f.b ≠ 0 then none else (immBits f.imm 16).map fun s => .sbar s
    | 9 => if f.a ≠ 0 ∨ f.b ≠ 0 ∨ f.imm ≠ 0 then none else some .fenceWay
    | 10 => if f.a ≠ 0 ∨ f.b ≠ 0 then none else (immFin f.imm 6).map fun s => .fence s
    | _ => none
  | 9 => match f.min.toNat with
    | 0 => if f.a ≠ 0 ∨ f.imm ≠ 0 then none else some (.mload (aReg f.b))
    | 1 => if f.a ≠ 0 ∨ f.imm ≠ 0 then none else some (.mswap (aReg f.b))
    | 2 => if f.a ≠ 0 ∨ f.b ≠ 0 ∨ f.imm ≠ 0 then none else some .mcancel
    | _ => none
  | 10 => match f.min.toNat with
    | 0 => if f.a ≠ 0 then none else some (.dpatch (aReg f.b) (f.imm.extractLsb' 0 9).toFin (f.imm.extractLsb' 9 9).toFin)
    | 1 => if f.b ≠ 0 then none else (immFin f.imm 512).map fun c => .dset (aReg f.a) c
    | 2 => (immFin f.imm 4).map fun d => .dstep (aReg f.a) (aReg f.b) d
    | 3 => if f.a ≠ 0 ∨ f.b ≠ 0 then none else (immFin f.imm 4).map fun d => .dstop d
    | 4 => if f.a ≠ 0 ∨ f.imm ≠ 0 then none else some (.dsave (aReg f.b))
    | 5 => if f.a ≠ 0 ∨ f.imm ≠ 0 then none else some (.drest (aReg f.b))
    | _ => none
  | 11 => match f.min.toNat with
    | 0 => if f.a ≠ 0 ∨ f.b ≠ 0 then none else (immBits f.imm 16).map fun c => .trap c
    | 1 => if f.a ≠ 0 ∨ f.b ≠ 0 ∨ f.imm ≠ 0 then none else some .eret
    | 2 => if f.b ≠ 0 then none else (immBits f.imm 12).map fun n => .csrr (aReg f.a) n
    | 3 => if f.a ≠ 0 then none else (immBits f.imm 12).map fun n => .csrw (aReg f.b) n
    | 4 => if f.a ≠ 0 ∨ f.b ≠ 0 ∨ f.imm ≠ 0 then none else some .halt
    | 5 => if f.b ≠ 0 then none else (immFin f.imm 8).map fun m => .nrg (aReg f.a) m
    | 6 => if f.b ≠ 0 ∨ f.imm ≠ 0 then none else some (.gen (aReg f.a))
    | _ => none
  | _ => none

/-- What a control word is (R101 to R103, R107). -/
def decodeCtrlFields (f : CFields) : Except DecErr Instr :=
  if 56 ≤ f.maj.toNat then .error .rsvMajor
  else if !ctrlDefined f.maj.toNat f.min.toNat then .error .illegalMinor
  else match ctrlOf f with
    | none => .error (.badField .imm)
    | some i => checked i

def decodeCtrl (w : CtrlWord) : Except DecErr Instr := decodeCtrlFields (CFields.unpack w)

/-- The fields of a control word from numbers. -/
def cf (maj min : Nat) (a b : BitVec 5) (imm : BitVec 18) : CFields :=
  { maj := BitVec.ofNat 6 maj, min := BitVec.ofNat 6 min, a := a, b := b, imm := imm }

def ar (x : AReg) : BitVec 5 := BitVec.ofFin x
def kr (x : KReg) : BitVec 5 := BitVec.ofNat 5 x.val

/-- Source 2 in IMM[17:13] (R103). -/
def imm2 (y : BitVec 5) : BitVec 18 := (y ++ (0 : BitVec 13) : BitVec 18)

/-- The fields of a control word (R102, R103); none for anything else. -/
def ctrlFields : Instr → Option CFields
  | .seqAdd d x y => some (cf 0 0 (ar d) (ar x) (imm2 (ar y))) | .seqSub d x y => some (cf 0 1 (ar d) (ar x) (imm2 (ar y)))
  | .seqMul d x y => some (cf 0 2 (ar d) (ar x) (imm2 (ar y))) | .seqMulh d x y => some (cf 0 3 (ar d) (ar x) (imm2 (ar y)))
  | .seqMulhu d x y => some (cf 0 4 (ar d) (ar x) (imm2 (ar y))) | .seqAnd d x y => some (cf 0 5 (ar d) (ar x) (imm2 (ar y)))
  | .seqOr d x y => some (cf 0 6 (ar d) (ar x) (imm2 (ar y))) | .seqXor d x y => some (cf 0 7 (ar d) (ar x) (imm2 (ar y)))
  | .seqAndn d x y => some (cf 0 8 (ar d) (ar x) (imm2 (ar y))) | .seqShl d x y => some (cf 0 9 (ar d) (ar x) (imm2 (ar y)))
  | .seqShr d x y => some (cf 0 10 (ar d) (ar x) (imm2 (ar y))) | .seqSra d x y => some (cf 0 11 (ar d) (ar x) (imm2 (ar y)))
  | .seqMin d x y => some (cf 0 12 (ar d) (ar x) (imm2 (ar y))) | .seqMax d x y => some (cf 0 13 (ar d) (ar x) (imm2 (ar y)))
  | .seqMinu d x y => some (cf 0 14 (ar d) (ar x) (imm2 (ar y)))
  | .seqMaxu d x y => some (cf 0 15 (ar d) (ar x) (imm2 (ar y)))
  | .addi d x n => some (cf 1 0 (ar d) (ar x) n) | .andi d x n => some (cf 1 5 (ar d) (ar x) n)
  | .ori d x n => some (cf 1 6 (ar d) (ar x) n) | .xori d x n => some (cf 1 7 (ar d) (ar x) n)
  | .shli d x n => some (cf 1 9 (ar d) (ar x) (n.setWidth 18)) | .shri d x n => some (cf 1 10 (ar d) (ar x) (n.setWidth 18))
  | .srai d x n => some (cf 1 11 (ar d) (ar x) (n.setWidth 18))
  | .lsi d n => some (cf 2 0 (ar d) 0 n) | .li d n => some (cf 2 1 (ar d) 0 n)
  | .kcmp c k x y => some (cf 3 c.code (kr k) (ar x) (imm2 (ar y)))
  | .kand k x y => some (cf 3 8 (kr k) (kr x) (imm2 (kr y))) | .kor k x y => some (cf 3 9 (kr k) (kr x) (imm2 (kr y)))
  | .kxor k x y => some (cf 3 10 (kr k) (kr x) (imm2 (kr y))) | .knot k x => some (cf 3 11 (kr k) (kr x) 0)
  | .ld t d b n => some (cf 4 t.code (ar d) (ar b) n) | .st t d b n => some (cf 5 t.code (ar d) (ar b) n)
  | .beq x y o => some (cf 6 0 (ar x) (ar y) o) | .bne x y o => some (cf 6 1 (ar x) (ar y) o)
  | .blt x y o => some (cf 6 2 (ar x) (ar y) o) | .bltu x y o => some (cf 6 3 (ar x) (ar y) o)
  | .bge x y o => some (cf 6 4 (ar x) (ar y) o) | .bgeu x y o => some (cf 6 5 (ar x) (ar y) o)
  | .bk k o => some (cf 6 6 (kr k) 0 o) | .bnk k o => some (cf 6 7 (kr k) 0 o) | .j o => some (cf 6 8 0 0 o)
  | .call d o => some (cf 6 9 (ar d) 0 o) | .ret x => some (cf 6 10 (ar x) 0 0) | .jr x => some (cf 6 11 (ar x) 0 0)
  | .loop n d => some (cf 7 0 (ar n) (ar d) 0) | .run d => some (cf 7 1 0 (ar d) 0)
  | .hold s => some (cf 7 2 0 0 (s.setWidth 18)) | .wake s => some (cf 7 3 0 0 (s.setWidth 18))
  | .csync m => some (cf 8 0 0 (ar m) 0) | .ctok l => some (cf 8 1 0 0 (BitVec.ofNat 18 l.code))
  | .rvinit x w => some (cf 8 2 (ar x) 0 (BitVec.ofNat 18 w.val)) | .rvarr w => some (cf 8 3 0 0 (BitVec.ofNat 18 w.val))
  | .rvwait w => some (cf 8 4 0 0 (BitVec.ofNat 18 w.val)) | .hwait h => some (cf 8 5 0 0 (BitVec.ofNat 18 h.val))
  | .hfree h => some (cf 8 6 0 0 (BitVec.ofNat 18 h.val)) | .hstat d h => some (cf 8 7 (ar d) 0 (BitVec.ofNat 18 h.val))
  | .sbar s => some (cf 8 8 0 0 (s.setWidth 18)) | .fenceWay => some (cf 8 9 0 0 0)
  | .fence s => some (cf 8 10 0 0 (BitVec.ofNat 18 s.val))
  | .mload x => some (cf 9 0 0 (ar x) 0) | .mswap x => some (cf 9 1 0 (ar x) 0) | .mcancel => some (cf 9 2 0 0 0)
  | .dpatch x f m =>
    some (cf 10 0 0 (ar x) ((BitVec.ofFin m : BitVec 9) ++ (BitVec.ofFin f : BitVec 9) : BitVec 18))
  | .dset x c => some (cf 10 1 (ar x) 0 (BitVec.ofNat 18 c.val))
  | .dstep n p d => some (cf 10 2 (ar n) (ar p) (BitVec.ofNat 18 d.val))
  | .dstop d => some (cf 10 3 0 0 (BitVec.ofNat 18 d.val))
  | .dsave x => some (cf 10 4 0 (ar x) 0) | .drest x => some (cf 10 5 0 (ar x) 0)
  | .trap c => some (cf 11 0 0 0 (c.setWidth 18)) | .eret => some (cf 11 1 0 0 0)
  | .csrr d n => some (cf 11 2 (ar d) 0 (n.setWidth 18)) | .csrw x n => some (cf 11 3 0 (ar x) (n.setWidth 18))
  | .halt => some (cf 11 4 0 0 0) | .nrg d m => some (cf 11 5 (ar d) 0 (BitVec.ofNat 18 m.val))
  | .gen d => some (cf 11 6 (ar d) 0 0)
  | _ => none

/-- The word of a control instruction; none for anything else. -/
def encodeCtrl (i : Instr) : Option CtrlWord := (ctrlFields i).map CFields.pack

/-! ## Bytes (R91) -/

/-- The schedule word in ten bytes (R91). -/
def schedOfBytes (bs : List Byte) : SchedWord := BitVec.ofNat 80 (natOfBytes (bs.take 10))

/-- The control word in five bytes: the first word of a unit fills its low half (R91). -/
def ctrlOfBytes (bs : List Byte) : CtrlWord := BitVec.ofNat 40 (natOfBytes (bs.take 5))

/-- The bytes of an instruction's word as storage holds them (R91); none for an event. -/
def encode (i : Instr) : List Byte :=
  match encodeSched i with
  | some w => bytesOf w.toNat 10
  | none => match encodeCtrl i with
    | some w => bytesOf w.toNat 5
    | none => []

/-- What bytes hold: five bytes a control word, ten a schedule word. -/
def decodeBytes (bs : List Byte) : Except DecErr Instr :=
  if bs.length ≤ 5 then decodeCtrl (ctrlOfBytes bs) else decodeSched (schedOfBytes bs)

/-- The instruction the decoder reads from the bits that the opcode table gives a row. -/
def decodeTableWord (nbits w : Nat) : Option Instr :=
  match decodeBytes (bytesOf (w % 2 ^ nbits) (if nbits ≤ 40 then 5 else 10)) with
  | .ok i => some i
  | .error _ => none

end Sys2Proof
end

