-- ==== Sys2Proof/Config.lean ====
section
/-! DEFINITION. What the spec leaves to the part or leaves undefined: opaque constants, with no body, so that no
proof can rest on a value. Each is named in a log entry (notes/assumptions). -/

namespace Sys2Proof.Config

/-- Contents the spec calls not defined after arming (R303), by arming epoch and storage key: a free value. -/
opaque freeLane : Nat → Nat → LaneWord

/-- An accumulator tile word after arming (R303): a free value. -/
opaque freeTile : Nat → Nat → LaneWord

/-- A weight-buffer byte after arming (R303): a free value. -/
opaque freeByte : Nat → Nat → Byte

/-- A mask after arming (R303): a free value. -/
opaque freeMask : Nat → Nat → BitVec 64

/-- A value some rule does not state, one per count of `State.fresh`. -/
opaque freeWord : Nat → Word

/-- A seam port on a channel's route (R82, R86): the page that the token leaves, the port, 0 north to 3 west, the track and
track slot there, and the cycles on tracks from the sender to it. -/
structure Hop where
  page : Nat
  port : Fin 4
  track : Nat
  tslot : Nat
  cycles : Nat
deriving DecidableEq, Repr, Inhabited

/-- The seam ports on the route of a channel in their order (R82, R86, R219), by loaded copy and channel. -/
opaque channelRoute : Nat → Nat → List Hop

/-- Cycles that a channel's route spends on tracks (R219), by loaded copy and channel, minus one: a route takes at least one
cycle. -/
opaque channelTracks : Nat → Nat → Nat

/-- The sending element of a channel (R219), by loaded copy and channel: 28 × row + column in the page set. -/
opaque channelSender : Nat → Nat → Nat

/-- The receiving element of a channel (R219), by loaded copy and channel: 28 × row + column in the page set. -/
opaque channelReceiver : Nat → Nat → Nat

/-- Where a reply on its way from a slice to an element meets a cluster (R331, R332), by element, slice and cluster:
none where its way does not touch the cluster, otherwise the seam, 0 north to 3 west. -/
opaque replyCrosses : Nat → Nat → Nat → Option Nat

/-- The seam by which the accesses of its region's sequencer and transfer units enter a cluster, 0 north to 3 west (R331). -/
opaque bankSeam : Nat → Nat

/-- Cycles from an element to a home slice's counter unit (R249), by region element index and slice. -/
opaque counterDelay : Nat → Nat → Nat

/-- Cycles that a request's signal takes to a shared point in another region's slice (17 R291, R361): log entry 56. -/
opaque crossDelay : Nat → Nat

/-- The longest route of a loaded copy in cycles, rmax of R131. -/
opaque longestRoute : Nat → Nat

/-- The vendor's table of the energy of each operation (R347). -/
opaque opEnergy : Instr → Nat

/-- A launch's share of the firing window in which it retires (R347), by launch and counted energy: the ratio of the window is
known only at its end, after the token. -/
opaque lastShare : Nat → Nat → Nat

/-- A page image of a copy out (R322), whose layout is the part's own: by its serial and byte. -/
opaque pageImage : Nat → Nat → Byte

/-- Whether a sequencer whose slots all wait is power-gated (R293), by region and cycle. -/
opaque gatesSequencer : Nat → Nat → Bool

/-- Cycles from a signal to the wake of a gated sequencer (R293), by region and cycle. -/
opaque wakeDelay : Nat → Nat → Nat

/-- The cycles that a self-test takes until its signature has reached the voters (R334), by serial. -/
opaque testCycles : Nat → Nat

/-- The signature that a cluster's self-test presents, if it presents one (R334), by serial. -/
opaque testSignature : Nat → Option (BitVec 64)

/-- The cycles from a request to its attestation report (R358), by serial. -/
opaque attestCycles : Nat → Nat

/-- The self-test signature that the voters hold in ROM (R334), by cluster. -/
opaque romSignature : Nat → BitVec 64

/-- The device identity key (R358), and the secret number of each signature, by the digest that it signs. -/
opaque identityKey : Nat
opaque signNumber : BitVec 384 → Nat

/-- The digest of the vendor key that is fused into the root of trust (R356). -/
opaque vendorKeyDigest : BitVec 384

/-- The version that a firmware image names (R358), whose place in the image no rule states. -/
opaque imageVersion : List Byte → BitVec 64

/-- The payload of a flit that carries an access to a peer's memory, or an answer to one (R354), whose layout no rule states:
by write or not, offset and bytes. -/
opaque flitPayload : Bool → Nat → List Byte → BitVec 1920

/-- The boot ROM's own digest (R357). -/
opaque romDigest : BitVec 384

/-- The device serial (R358). -/
opaque serial : BitVec 64

/-- The translation that a peer's system software sets for its requests (R231): the physical address of an offset
in space 0x00, or none where the peer tables refuse it; by peer port, write or not, and offset. -/
opaque peerTranslate : Nat → Bool → Nat → Option Nat

end Sys2Proof.Config
end

