-- ==== Sys2Proof/Machine/State.lean ====
section
/-! DEFINITION. The state of the GL-24 as plain data: every piece of state that INVENTORY.md's '## State' lists, the
named reasons for a stop, and the state after module reset. A `Map` is a list of (key, value) pairs with rising keys;
a key it does not list holds the value that the reader names, the field's reset value. -/

namespace Sys2Proof.Machine

/-- Sparse storage by key. -/
abbrev Map (α : Type) := List (Nat × α)

/-- The reasons for which the machine stops with a fault. -/
inductive Fault
  /-- Raised by no rule of the spec: the GL-24 has no state in which nothing further happens. No meaning answers it;
  safe. -/
  | stopped
deriving DecidableEq, Repr

/-- The reasons for which the model gives an instruction no meaning. -/
inductive Refusal
  /-- An instruction whose arm has no meaning yet, by its mnemonic. Safe: nothing can be proved of it. -/
  | notModelled (mnemonic : String)
deriving DecidableEq, Repr

/-! ## Slots (R113 to R116, R124, R142, R147, R225, R286, R307, R308) -/

inductive IssueKind | idle | loop | run
deriving DecidableEq, Repr, Inhabited

/-- A loop or run and where it stands (R124, R307). `serial` tells one execution of a loop or run from the next. -/
structure Issue where
  kind : IssueKind := .idle
  desc : Word := 0
  n : Nat := 0
  iter : Nat := 0
  line : Nat := 0
  beat : Nat := 0
  startAt : Nat := 0
  started : Bool := false
  serial : Nat := 0
  /-- The generation of the old plane, for a line that a milestone switch found mid-fold (R131). -/
  old : Option Nat := none
deriving DecidableEq, Repr, Inhabited

/-- A rendezvous operation on its way to a shared point in another region's slice (R291). -/
inductive RvOp | arrive | query
deriving DecidableEq, Repr, Inhabited

/-- What a control word that has executed waits for; the PC stays at the word. `ready` is the cycle from which the slot
may go on, once that is known. -/
inductive Wait
  | none
  /-- A timed word: it completes at an effect of the agenda. -/
  | timed
  | loop
  | rv (w : Nat) (ready : Option Nat)
  | handle (h : Nat) (ready : Option Nat)
  | csync (m : Word) (since : Nat)
  /-- A fence of scope 0 to 5, or `fence.way` as 6, and the cycle on which it executed. -/
  | fence (scope : Nat) (since : Nat)
  /-- `dsave` and `drest` at a home offset (R260); `dsave` has written its first units. -/
  | save (off units : Nat)
  | restore (off : Nat)
  /-- `mload` between a switch and the old plane's release (R129). -/
  | release
  /-- `rvinit` or `rvarr` until the end of t + 8 (R307). -/
  | rvOut
  /-- A rendezvous word whose answer is not timed (R291). -/
  | away (w : Nat) (op : RvOp)
deriving DecidableEq, Repr, Inhabited

/-- A cause raised against a slot and not yet delivered (R306, R310). -/
structure Raised where
  num : Nat
  kind : Nat
  row : Nat := 0
  col : Nat := 0
  beat : Nat := 0
  line : Nat := 0
  code : Nat := 0
  /-- The cycle of the event, for points S and A: their delivery comes on a later turn (R306). -/
  at_ : Nat := 0
deriving DecidableEq, Repr, Inhabited

/-- A stream barrier in force (R277): the set and the cycle on which `sbar` executed. -/
structure Barrier where
  set : BitVec 16
  ts : Nat
deriving DecidableEq, Repr

/-- A poisoned lane written to a sink (R147): the element that created the poison, the one that wrote it, the site, the kind,
and the cycle on which the beat left the edge. -/
structure Sink where
  origin : Nat
  sink : Nat
  site : Nat
  kind : Nat
  edge : Nat
deriving DecidableEq, Repr

/-- A window that has closed without all its data (R142): its first access, its closing cycle, its element and word, and the
beats of an atomic that have still to execute. -/
structure Late where
  win : Nat
  close : Nat
  elem : Nat := 0
  word : Nat := 0
  left : Nat := 0
deriving DecidableEq, Repr

/-- One wheel slot (R113, R115). -/
structure Slot where
  bound : Bool := false
  launch : Nat := 0
  kernel : Nat := 0
  rank : Nat := 0
  /-- First edge cycle at or after the start, from which turns are counted (R211); none before the start. -/
  start : Option Nat := none
  pc : BitVec 24 := 0
  a : Vector Word 32 := Vector.replicate 32 0
  k : Vector Bool 8 := Vector.replicate 8 false
  fmt : BitVec 32 := 0x8000
  unit : BitVec 24 := 0
  depth : BitVec 8 := 0
  fret : Word := 0
  winmiss : Word := 0
  /-- The window whose late data `SLOT.WINMISS` still waits for (R142). -/
  late : Option Late := none
  poison : Word := 0
  /-- The sinks recorded lately, oldest first, and `POISON.ORIGIN` before them (R147, R306). -/
  sinks : List Sink := []
  sinksOn : Word := 0
  siteerr : Word := 0
  tvec : Word := 0
  epc : Word := 0
  cause : Word := 0
  tval : Word := 0
  rb : BitVec 5 := 0
  ctr2 : BitVec 32 := 0
  ctr3 : BitVec 24 := 0
  siteBase : Map Word := []
  ac : Map (BitVec 16) := []
  wc : Map (BitVec 16) := []
  cur : Issue := {}
  following : List Issue := []
  /-- The cycle on which the last beat of a loop or run left the edge (R125). -/
  sentAt : Option Nat := none
  /-- FMT as the line under way was issued (R46). -/
  lineFmt : BitVec 32 := 0x8000
  /-- Cycle before which the slot executes no control word. -/
  busy : Nat := 0
  wait : Wait := .none
  held : Bool := false
  /-- Held by the allocator while its launch moves (R80). -/
  moved : Bool := false
  ended : Bool := false
  raised : List Raised := []
  barriers : List Barrier := []
  /-- Paths used (R278), keyed 256 × element + slice, with the edge cycle of the last access on each. -/
  paths : Map Nat := []
  /-- Waymarks not yet acknowledged (R279), by path key, and whether an acknowledgement was marked. -/
  waymarks : List Nat := []
  wayErr : Bool := false
  /-- Paths on which an access failed at its node, with the access's edge cycle (R279). -/
  failed : List (Nat × Nat) := []
  /-- Turns of the current firing window held by the kiln, per 16 (R89). -/
  gate : Nat := 0
deriving DecidableEq, Repr, Inhabited

/-! ## Elements (R132, R139 to R147, R208 to R218) -/

/-- A landing-buffer entry and its window (R141). -/
structure Landing where
  isOpen : Bool := false
  wid : Nat := 0
  slot : Nat := 0
  launch : Nat := 0
  /-- The plane that opened it (R131). -/
  gen : Nat := 0
  close : Nat := 0
  /-- Physical register, DST code and mask of the word, resolved at its first beat (R137, R141). -/
  reg : Nat := 0
  code : Nat := 0
  mask : BitVec 64 := 0
  width : Nat := 0
  acc : Nat := 0
  atomic : Bool := false
  site : Nat := 0
  line : Nat := 0
  /-- The schedule line of the word, from the kernel's SLOFF. -/
  sline : Nat := 0
  /-- Lanes that have arrived; none is poisoned (R146). -/
  data : Map Lane := []
  /-- The data of the last close (R141). -/
  kept : Map Lane := []
  /-- The word that opened it, the cycle on which its first beat left the edge, and the beats of it that have executed. -/
  word : Nat := 0
  edge : Nat := 0
  beats : Nat := 0
  ecc : Bool := false
  fe : Bool := false
  /-- A stamp check failed: the site that the stamp names, and the slice (R224, R235). -/
  stamped : Option (Nat × Nat) := none
  /-- A fence dropped a token of its reply; it had been opened before the fence (R332). -/
  lost : Bool := false
  orphan : Bool := false
deriving DecidableEq, Repr, Inhabited

/-- Where a granule of a site line came from (R221, R243): the space (0 with a physical address) and the offset. -/
structure GTag where
  space : Nat
  off : Nat
deriving DecidableEq, Repr, Inhabited

/-- What a word of several beats keeps at one element between them: its sources as read at the first beat (R169), the
mask and head bits read so far (R171, R172), and its first cycle. -/
structure Scratch where
  a : Map Lane := []
  b : Map Lane := []
  en : BitVec 64 := 0
  head : BitVec 64 := 0
  t0 : Nat := 0
deriving DecidableEq, Repr, Inhabited

/-- One element. Register lanes are keyed (48 × slot + code) × 64 + lane, with code 0 to 15 for g and 16 up for
physical rotating registers; site lines (4,096 × site + local line), granules of a line 256 × that + granule. -/
structure Elem where
  /-- Which free values the element's unwritten registers, masks and result lanes hold since its page armed (R303); 0
  before the first arming. -/
  epoch : Nat := 0
  regs : Map Lane := []
  masks : Map (BitVec 64) := []
  res : Map Lane := []
  tag : Option (Nat × Nat) := none
  /-- The result register and its tag before the current cycle's write (R121), and the cycle of that write. -/
  resOld : Map Lane := []
  tagOld : Option (Nat × Nat) := none
  resAt : Option Nat := none
  /-- Registers that beats wrote, with the lanes and the cycle: those of the latest cycle (R141). -/
  wrote : List (Nat × BitVec 64 × Nat) := []
  /-- By slot. -/
  scratch : Map Scratch := []
  landing : Map Landing := []
  siteLatch : Map LaneWord := []
  tapLatch : Map LaneWord := []
  /-- By slot, counters 0 and 1 of the address generator (R209): the word and the row of a line at which they stand. -/
  steps : Map (Nat × Nat) := []
  recvLatch : Map Lane := []
  bank : Map Byte := []
  tags : Map GTag := []
  dirty : Map Bool := []
  slotTable : Map Nat := []
  lut : Map (BitVec 64) := []
  /-- The tables of the plane before the last milestone switch (R131). -/
  oldTable : Map Nat := []
  oldLut : Map (BitVec 64) := []
  /-- Cycle on which a lane word, and on which other traffic, last used the bank (R211). -/
  laneUse : Option Nat := none
  otherUse : Option Nat := none
  scrubAt : Nat := 0
  /-- The cycle on which a corrected word took the scrub port (R144). -/
  portAt : Option Nat := none
deriving DecidableEq, Repr, Inhabited

/-! ## Clusters (R180 to R206, R326 to R334) -/

/-- An accumulator tile word (R192). -/
structure TileWord where
  v : LaneWord
  p : Bool := false
deriving DecidableEq, Repr, Inhabited

/-- A line of the weight buffer (R187): its tag, and its poison with the origin. -/
structure WLine where
  tag : Option (BForm × Bool) := none
  p : Bool := false
  o : BitVec 9 := 0
deriving DecidableEq, Repr, Inhabited

/-- One queued step (R186): the values of A by row and K, and what it needs at the array. -/
structure FStep where
  /-- The interval from which the array may take it; none while its scale lane is missing. -/
  ready : Option Nat
  /-- The cycle on which its beat queued it, and the one on which that beat left the edge. -/
  queuedAt : Nat
  edge : Nat := 0
  tile : Nat
  ty : MTy
  pack : Nat
  region : Nat
  slot : Nat
  launch : Nat
  /-- The `mfa` word that queued it, by serial, and its index in the word. -/
  word : Nat
  index : Nat
  line : Nat
  /-- 64 × P codes, row-major, with their poison. -/
  vals : List (BitVec 16 × Bool)
  scales : List (BitVec 8) := []
deriving DecidableEq, Repr, Inhabited

/-- A scale line as the array read it (R190): its form, the scale codes of the columns, its poison. -/
structure ScaleIn where
  form : BForm
  codes : List (BitVec 8)
  p : Bool
deriving DecidableEq, Repr

/-- A word of `mfa` being assembled (R186): lanes seen so far by element, and the cursor of its steps. -/
structure FWord where
  serial : Nat
  /-- Keyed 64 × element-in-cluster + lane. -/
  lanes : Map Lane := []
  seen : List Nat := []
  pushed : Nat := 0
  total : Nat := 0
  /-- The line at the cursor, and the last scale line as it was read (R190). -/
  cursor : Nat := 0
  scale : Option ScaleIn := none
  /-- The form whose scale line L named as the cursor started, if it named one. -/
  head : Option BForm := none
  taken : Nat := 0
  dead : Bool := false
deriving DecidableEq, Repr, Inhabited

/-- A step that the array takes: one of its own queue, by word and index, or step k of a joint operation. -/
inductive Pick
  | own (word index : Nat)
  | joint (id k : Nat)
deriving DecidableEq, Repr

/-- The scales of a tile's run (R193). -/
structure Run where
  live : Bool := false
  sa : List (BitVec 8) := []
  sb : List (BitVec 8) := []
  spare : BitVec 8 := 0x80
deriving DecidableEq, Repr, Inhabited

/-- What one voter holds of a cluster (R330). -/
inductive VoterState | trusting | suspect (misses : Nat) | accusing
deriving DecidableEq, Repr, Inhabited

/-- One cluster: its array, weight buffer, page and fence. -/
structure Cluster where
  epoch : Nat := 0
  /-- Keyed 4,096 × tile + 64 × row + column. -/
  tiles : Map TileWord := []
  /-- Row and column checksums of each tile in MODE 1 (R198), keyed 128 × tile + row, or + 64 + column: the
  difference from the words' own. -/
  sums : Map LaneWord := []
  marked : List Nat := []
  wbytes : Map Byte := []
  /-- What the last cycle's beats overwrote, and that cycle: another member reads a line one interval late (R202). -/
  wOld : Map Byte := []
  wOldLines : Map WLine := []
  wOldAt : Nat := 0
  wlines : Map WLine := []
  /-- Lanes written by the word under way to each line (R188): (word serial, lanes). -/
  wwrote : Map (Nat × BitVec 16) := []
  feed : List FStep := []
  fwords : List FWord := []
  runs : Map Run := []
  taken : Map Nat := []
  /-- A step of f16 or bf16 under way, the intervals that it has taken, and the first of them (R180). -/
  doing : Option (Pick × Nat) := none
  doingAt : Nat := 0
  /-- The last interval spent in a step (R182, R201). -/
  stepAt : Option Nat := none
  /-- A step or a drain corrected a word: the next interval is a replay (R197). -/
  replayDue : Bool := false
  zeroed : Map (List Nat) := []
  firstBeat : Map (Nat × Nat) := []
  drained : Map Bool := []
  chk : Option (Nat × Nat × Nat) := none
  accprot : Bool := false
  accerr : Word := 0
  busy : Word := 0
  bubbles : Word := 0
  scrubAt : Nat := 0
  /-- The page's holder (R76): the launch and page; saggar 0xFFF when free. -/
  launch : Option Nat := none
  page : Nat := 0
  saggar : BitVec 12 := 0xFFF
  /-- Seam ports stitched to another page of the set (R82): bit 0 north, 1 east, 2 south, 3 west; the others are closed. -/
  seams : BitVec 4 := 0
  armed : Bool := false
  gated : Bool := false
  wakeAt : Option Nat := none
  fence0 : Word := 0
  fence1 : Word := 0
  /-- Its seams are closed and its elements stopped: from a fence until a placement stitches it again (R331, R334). -/
  shut : Bool := false
  /-- Why its first accusing voter accused (R333, REASON). -/
  reason : Nat := 0
  voters : Map VoterState := []
  /-- Whether `CTRL_NET` was reported for a side that stays accusing (R330). -/
  told : List Nat := []
  /-- The votes under way: the cycle of each decision and its accusation bits, bit 3 north to bit 0 west. -/
  votes : List (Nat × Nat) := []
  /-- The cycle of the last heartbeat (R328), and by side the period in which its voter last judged a miss, counted from 1. -/
  beatAt : Option Nat := none
  missed : Map Nat := []
  fencedAt : Option Nat := none
deriving DecidableEq, Repr, Inhabited

/-! ## Regions (R18, R36, R39, R86, R242, R250 to R256, R319 to R323, R343 to R345) -/

/-- Handle states (R242). -/
inductive HState | free | filling | full | draining
deriving DecidableEq, Repr, Inhabited

structure Handle where
  st : HState := .free
  owner : Nat := 0
  units : Nat := 0
  planes : Nat := 8
  fw : Bool := false
  err : Bool := false
  /-- Home bytes that a drain clears (R242): slice offset range in home space, or none. -/
  dest : Option (Nat × Nat) := none
  drainAt : Nat := 0
deriving DecidableEq, Repr, Inhabited

/-- A DDA cell (R250). `pend` holds dx, dy0, dy1, dy2. -/
structure Cell where
  y : BitVec 33 := 0
  r : BitVec 32 := 0
  patch : BitVec 64 := 0
  latch : Int := 0
  pend : Vector Int 4 := Vector.replicate 4 0
deriving DecidableEq, Repr, Inhabited

/-- A step-clock domain (R256): `next` is the cycle of its next step. -/
structure Domain where
  running : Bool := false
  period : Nat := 0
  left : Nat := 0
  next : Nat := 0
  steps : Nat := 0
  starter : Option Nat := none
  /-- The cycle of its last step: it runs until that cycle's end (R258, R263). -/
  steppedAt : Option Nat := none
deriving DecidableEq, Repr, Inhabited

/-- A kernel of a loaded copy (R30, R31). -/
structure Kernel where
  slots : Nat := 1
  gcnt : Nat := 0
  qcnt : Nat := 0
  ii : Nat := 1
  cpoff : Nat := 0
  /-- Control words of the program (R113). -/
  words : Nat := 0
  sloff : Nat := 0
  slcnt : Nat := 1
deriving DecidableEq, Repr, Inhabited

/-- A site record (R32). -/
structure Site where
  page : Nat := 0
  banks : BitVec 16 := 0
  lrows : Nat := 0
  lcols : Nat := 0
  lines : Nat := 1
  fill : Nat := 0
  life : Nat := 0
  slip : Nat := 0
  stride : Int := 0
  win : Nat := 0
  boff : Nat := 0
  /-- Named by a store or atomic word of the configuration (R224). -/
  store : Bool := false
deriving DecidableEq, Repr, Inhabited

/-- The value that a relocation adds: the cluster of a page, known at each placement, or a number known at the load (R36). -/
inductive RelValue
  | page (p : Nat)
  | num (v : Nat)
deriving DecidableEq, Repr, Inhabited

/-- A relocation of an object that has one of kind 0, applied again at each placement (R36, R80): the section, the bit offset
(in section 9, among the bytes of the images) and the width of its field. -/
structure Reloc where
  sect : Nat
  off : Nat
  width : Nat
  val : RelValue
deriving DecidableEq, Repr, Inhabited

/-- A loaded copy of a code object (R39, R343). -/
structure Copy where
  gen : Nat := 0
  ident : BitVec 128 := 0
  /-- The saggar it was pinned under, for an object with patch records (R39). -/
  saggar : Option (BitVec 12) := none
  bindable : Bool := true
  base : Nat := 0
  bytes : Nat := 0
  /-- Offset of the control programs behind the schedule lines. -/
  progOff : Nat := 0
  progLen : Nat := 0
  used : BitVec 64 := 0
  epi : Nat := 0
  pcol : Nat := 1
  prow : Nat := 1
  quad : Bool := false
  accprot : Bool := false
  kernels : List Kernel := []
  sites : Map Site := []
  /-- Window descriptors: LEN and KIND (R34). -/
  windows : Map (Nat × Nat) := []
  /-- The bytes of sections 1, 4 and 5 from which the three fields above are read. -/
  recs : Map (List Byte) := []
  /-- Data images before placement: site, buffer offset, bytes, in directory order (R111). -/
  images : List (Nat × Nat × List Byte) := []
  /-- All its relocations in the order of their records, and the bytes of sections 1 to 5 and of the images as the object has
  them; empty where none is of kind 0. -/
  rels : List Reloc := []
  raw : Map (List Byte) := []
  /-- Pinned ranges: physical address, length, W (R37). -/
  pins : List (Nat × Nat × Bool) := []
  reserved : Nat := 0
  fmax : Nat := 1
  wmax : Nat := 0
deriving DecidableEq, Repr, Inhabited

/-- A beat in flight or held in a channel (R220). -/
structure ChanBeat where
  id : Nat
  region : Nat
  chan : Nat
  slot : Nat
  launch : Nat
  gen : Nat
  src : Nat
  dst : Nat
  lanes : List (Option Lane)
  arrive : Nat
  /-- The cycle on which its beat left the edge. -/
  edge : Nat := 0
  held : Bool := false
  /-- The seam port at which a wall or a closed seam drops it, on `arrive` (R85). -/
  wall : Option Config.Hop := none
deriving DecidableEq, Repr, Inhabited

/-- What a refusal names (R7, R24, R27, R28, R61, R107): its cause; the section, 0 for the header and the directory; the
byte offset of the record or word in it; the highest and lowest bit of the field; and the number that the rule reports, a
feature bit, an element row or an EDGE number. -/
structure Blame where
  cause : Nat
  sect : Nat := 0
  off : Nat := 0
  hi : Nat := 0
  lo : Nat := 0
  number : Option Nat := none
deriving DecidableEq, Repr, Inhabited

/-- What the loader reports of a load. -/
structure LoadReport where
  ident : BitVec 128 := 0
  region : Nat := 0
  gen : Nat := 0
  /-- None for an object that was loaded. -/
  refused : Option Blame := none
  /-- The device's and the object's feature version, where the object's is above (R27). -/
  versions : Option (Nat × Nat) := none
  /-- Kernels whose QCNT was rounded: the kernel, the declared count, the count used (R31). -/
  rounded : List (Nat × Nat × Nat) := []
  /-- Words of majors 56 to 63 in sections 2 and 3 (R107). -/
  laterSched : Nat := 0
  laterCtrl : Nat := 0
  /-- The delay D of each channel that a word names (R219). -/
  delays : Map Nat := []
  /-- The cycles of a counter update, keyed 4 × element + home slice (R249). -/
  counterDelays : Map Nat := []
deriving DecidableEq, Repr, Inhabited

/-- One region. -/
structure Region where
  store : Map Byte := []
  copies : List Copy := []
  lastGen : Nat := 0
  winstretch : BitVec 10 := 0
  wall : Word := 0
  preempt : Word := 0
  haltAt : Nat := 0
  halted : Bool := false
  /-- Events stopped by the halt (R320), by their place in the halted timeline. -/
  thalt : Nat := 0
  pagecopy0 : Word := 0
  pagecopy1 : Word := 0
  unload : Word := 0
  /-- The generation that the unload under way names (R345). -/
  unloadOf : Nat := 0
  /-- The copy of pages under way as its GO had it (R322): the direction, the pages, the base. -/
  copyJob : Bool × List Nat × Nat := (false, [], 0)
  handles : Map Handle := []
  mcast : Map Word := []
  cells : Map Cell := []
  doms : Map Domain := []
  ddaErr : Word := 0
  /-- Overruns of this cycle: the cell, the reason, the source cell (R255, R336). -/
  overruns : List (Nat × Nat × Nat) := []
  ddaOwner : Option Nat := none
  gatedSeq : Bool := false
  /-- Cycle since which the firmware path waits for a free sequencer cycle (R246). -/
  fwWait : Option Nat := none
  steal : Bool := false
deriving DecidableEq, Repr, Inhabited

/-! ## Launches (R66 to R73, R128, R285, R312, R340) -/

inductive LStage | open | closed | waiting | placed | running | retired
deriving DecidableEq, Repr, Inhabited

/-- A rendezvous point (R285). -/
structure Point where
  init : Bool := false
  count : BitVec 16 := 0
  ph : BitVec 16 := 0
  arr : BitVec 16 := 0
  next : BitVec 16 := 0
  /-- Share key, zero for a private point, and the shared point a bound point stands for (R291). -/
  key : BitVec 16 := 0
  link : Option (Nat × Nat) := none
  gone : Bool := false
deriving DecidableEq, Repr, Inhabited

/-- A slip group's watch entry (R222): a granule and the members that hold it. -/
structure Watch where
  tag : GTag
  members : List (Nat × Nat)
deriving DecidableEq, Repr, Inhabited

/-- A launch, from its OPEN token. -/
structure Launch where
  stage : LStage := .open
  host : HostPort := .A
  port : Nat := 0
  prio : Nat := 0
  age : Nat := 0
  closeAt : Nat := 0
  ident : BitVec 128 := 0
  objVa : BitVec 72 := 0
  objLen : Nat := 0
  openRsv : Bool := false
  block : BitVec 448 := 0
  gotParam : Bool := false
  data : List Byte := []
  hasData : Bool := false
  argChecked : Bool := false
  load : Option Nat := none
  region : Nat := 63
  gen : Nat := 0
  shadow : Option Nat := none
  oldGen : Option Nat := none
  cc0 : Nat := 0
  cr0 : Nat := 0
  /-- Slots, region-relative, by rank. -/
  slots : List Nat := []
  res : Nat := 0
  /-- What placement took for it (R77): registers of every element, the DDA, and store for a load still under way. -/
  regs : Nat := 0
  dda : Bool := false
  room : Nat := 0
  armAt : Nat := 0
  armed : Bool := false
  energy : Nat := 0
  /-- The energy of its operations counted in this firing window, by the vendor's table (R347). -/
  drawn : Nat := 0
  windows : Nat := 0
  mstat : BitVec 32 := 0
  milestone : Word := 0
  committed : Bool := false
  /-- `REGION.WINSTRETCH` at the commit (R131). -/
  stretch : Nat := 0
  mload : Option Nat := none
  /-- Status, cause and slot of a launch that was refused or terminated (R312, R342). -/
  status : Nat := 0
  cause : Nat := 0
  cslot : Nat := 0
  terminated : Bool := false
  watches : Map (List Watch) := []
  /-- Joint operations of each quad (R204): the `mjoin` word that opened the last one, plus 1, and their count. -/
  joins : Map (Nat × Nat) := []
  moving : Option (Nat × Nat) := none
  /-- The cycle on which the hold of the move began. -/
  movedAt : Nat := 0
  /-- A move waits for its boundary until this cycle (R80). -/
  moveBy : Option Nat := none
  halted : Bool := false
deriving DecidableEq, Repr, Inhabited

/-- A joint operation (R202 to R206). -/
structure Join where
  id : Nat
  launch : Nat
  quad : Nat
  tile : Nat
  leader : Nat
  start : Nat
  half : Nat
  base : Nat
  planes : Nat
  spare : BitVec 8
  region : Nat
  slot : Nat
  /-- Steps taken by each member, and entries of its A half that have left each member's queue. -/
  taken : List Nat := [0, 0, 0, 0]
  left : List Nat := [0, 0, 0, 0]
  /-- Each member's B cursor, the last scale line as it was read, and the form whose scale line the base named. -/
  curs : List (Nat × Option ScaleIn × Option BForm) := []
  on : Bool := false
  /-- The cycle on which the beat of its `mjoin` left the edge. -/
  edge : Nat := 0
  stop : Bool := false
  done : Bool := false
deriving DecidableEq, Repr, Inhabited

/-! ## Accesses and requests (R234 to R249) -/

inductive AccKind | read | sync | check | wback | atom | replica
deriving DecidableEq, Repr, Inhabited

inductive AccState | queued | sent | performed
deriving DecidableEq, Repr, Inhabited

/-- A windowed access in flight (R234, R275). `bytes` holds (offset, byte) of a write; `ops` the lanes of an atomic. -/
structure Access where
  id : Nat
  kind : AccKind
  st : AccState := .sent
  region : Nat := 0
  slot : Nat := 0
  launch : Nat := 0
  gen : Nat := 0
  elem : Nat := 0
  stream : Nat := 0
  site : Nat := 0
  addr : Nat := 0
  len : Nat := 0
  edge : Nat := 0
  /-- Cycle before which a queued write-back does not read the bank (R300). -/
  notBefore : Nat := 0
  entry : Nat := 0
  line : Nat := 0
  bytes : Map Byte := []
  ops : List (Nat × LaneWord × LaneWord) := []
  op : Nat := 0
  sat : Bool := false
  rnd : Rnd := .rne
  store : Bool := false
  /-- The access that opened the landing entry this one answers into (R141, R239). -/
  win : Nat := 0
  reply : Map LaneWord := []
  ecc : Bool := false
  fe : Bool := false
  stamped : Option (Nat × Nat) := none
deriving DecidableEq, Repr, Inhabited

inductive ReqState | queued | running | firmware | ended
deriving DecidableEq, Repr, Inhabited

/-- An accepted transfer request (R241 to R247). -/
structure Req where
  id : Nat
  st : ReqState := .queued
  slice : Nat := 0
  port : Nat := 0
  region : Nat := 0
  slot : Nat := 0
  launch : Nat := 0
  gen : Nat := 0
  saggar : BitVec 12 := 0
  at_ : Nat := 0
  /-- The cycle on which its beat left the edge. -/
  edge : Nat := 0
  pkt : BitVec 128 := 0
  ext : BitVec 128 := 0
  done : List Nat := []
  landed : Nat := 2
  /-- Walks under way, by unit: the tables gone through, the next one, and whether W stood at every level (R231, R232). -/
  walks : Map (Nat × Nat × Bool) := []
deriving DecidableEq, Repr, Inhabited

/-- A load under way (R38, R66, R129). -/
structure Load where
  id : Nat
  region : Nat
  ident : BitVec 128 := 0
  va : BitVec 72 := 0
  len : Nat := 0
  /-- The launch whose OPEN woke it, or that issued the `mload`. -/
  launch : Nat := 0
  phase : Bool := false
  fresh : Bool := true
deriving DecidableEq, Repr, Inhabited

/-- A translation-buffer entry (R232): the page, by its 64 KiB page numbers, its frame, and whether its walk passed W
at every level. -/
structure Tlb where
  saggar : BitVec 12
  space : Nat
  page : Nat
  pages : Nat
  frame : Nat
  w : Bool
deriving DecidableEq, Repr

/-- Who uses a bank of a slice: an access for a granule, a unit of a request, the image of a slot's `dsave`. -/
inductive BankUser
  | acc (id gran : Nat)
  | unit (id u : Nat)
  | save (key : Nat)
deriving DecidableEq, Repr, Inhabited

/-- A request that waits for banks of a slice (R227): its class in `SLICE.SLOTS`, whose it is, and the banks. Those that came
on one cycle, `since`, stand in ascending element order (R239). -/
structure BankWait where
  cls : Nat
  who : BankUser
  banks : List Nat
  since : Nat := 0
  order : Nat := 0
deriving DecidableEq, Repr, Inhabited

/-- A tag of a line of a site at an element that a slice has refused, until a later check of the line passes (R237). -/
structure RefusedTag where
  launch : Nat
  elem : Nat
  site : Nat
  line : Nat
  addr : Nat
  len : Nat
deriving DecidableEq, Repr, Inhabited

/-- A slice (R226). Stamps are keyed by 64-byte line: launch, site, W; full/empty bits by 32-bit word. -/
structure Slice where
  slots : Word := 0xFA550000
  slotsNew : Option Word := none
  orphans : Word := 0
  fe : Map Bool := []
  counters : Map Word := []
  /-- Counts cleared by a host write, and the cycle of it: an update of that cycle is lost (R350). -/
  cleared : Map Nat := []
  /-- Newest first; at most 512. -/
  tlb : List Tlb := []
  /-- The last cycle on which an atomic performed, and its element (R239). -/
  atomAt : Option (Nat × Nat) := none
  /-- By bank, the last cycle on which it served an access; and the requests that wait, in arrival order (R227). -/
  bankAt : Map Nat := []
  waits : List BankWait := []
  turn : Nat := 0
  scrubAt : Nat := 0
deriving DecidableEq, Repr, Inhabited

structure Stamp where
  launch : Nat
  site : Nat
  w : Bool
deriving DecidableEq, Repr, Inhabited

/-- An expert counter update on its way (R249). -/
structure CountUpd where
  id : Nat
  launch : Nat
  region : Nat
  slot : Nat
  slice : Nat
  adds : List (Nat × Nat)
  due : Nat
  /-- The cycle on which its beat left the edge. -/
  edge : Nat := 0
deriving DecidableEq, Repr, Inhabited

/-! ## Ports and device (R63 to R75, R87, R351 to R360) -/

/-- An ingress port (R63 to R72). -/
structure Port where
  prio : Nat := 0
  dropped : Nat := 0
  lastErr : Nat := 0
  stream : Option Nat := none
  seq : BitVec 12 := 0
  /-- Closed and not yet armed, in the order of their CLOSE tokens. -/
  queue : List Nat := []
deriving DecidableEq, Repr, Inhabited

inductive EccState | single | double | marked
deriving DecidableEq, Repr, Inhabited

/-- A stored word with a bit error (R144, R197, R226), by kind of storage, unit and word; `resOld` is a lane of a result register
as it stood before the current cycle's write (R121). -/
inductive EccAt
  | reg (elem key : Nat) | res (elem lane : Nat) | resOld (elem lane : Nat) | mask (elem m : Nat) | tile (cluster key : Nat)
  | slice (slice word : Nat) | hbm (granule : Nat) | sched (region byte : Nat) | wbuf (cluster line : Nat)
  | lut (elem key : Nat) | feed (cluster : Nat) | stamp (granule : Nat) | point (launch w : Nat)
  | handle (region h : Nat) | cell (region c : Nat) | fe (slice word : Nat)
deriving DecidableEq, Repr

/-- A beat that has left the edge and not yet reached its last column (R120, R122). `pos` is the issue position of
the beat, for a fault precise at it (R307). -/
structure Flight where
  region : Nat
  slot : Nat
  launch : Nat
  gen : Nat
  row : Nat
  col : Nat
  colL : Nat
  cc0 : Nat
  edge : Nat
  beat : Nat
  word : SchedWord
  pos : Issue
  /-- The schedule line, counted from the kernel's SLOFF. -/
  line : Nat
  rb : BitVec 5
  ctr2 : BitVec 32
  ctr3 : BitVec 24
  fmt : BitVec 32
  bA : LaneWord := 0
  bB : LaneWord := 0
  taps : List (BitVec 33) := []
  base : Word := 0
  live : Bool := true
deriving DecidableEq, Repr, Inhabited

/-- What the current step acts for: the slot of a control word, or a flight and its element. -/
structure Ctx where
  region : Nat := 0
  slot : Nat := 0
  flight : Option Flight := none
  elem : Nat := 0
  row : Nat := 0
  col : Nat := 0
  /-- The beat under way raised a cause of point B. -/
  failed : Bool := false
deriving DecidableEq, Repr, Inhabited

/-- Effects that a rule places at a later cycle and that are no row of the opcode table. -/
inductive Effect
  /-- `SLOT.FRET` takes a value (R135), from a beat that left the edge on a cycle. -/
  | fret (slot edge : Nat) (v : Word)
  /-- Token line n reaches the slot's address generators (R127). -/
  | token (slot : Nat) (line : CtokLine) (unit : BitVec 24)
  | hold (region : Nat) (set : BitVec 8)
  | wake (region : Nat) (set : BitVec 8)
  /-- A sequencer access at its bank (R119, R213), until cycle `last`; a store keeps the configuration under which it
  executed (R131). -/
  | seqLoad (slot : Nat) (d : AReg) (t : LdTy) (site off last : Nat)
  | seqStore (slot : Nat) (gen site off : Nat) (v : Word) (n last : Nat) (epc : BitVec 24)
  /-- `SLOT.TVEC` takes a written value at the slot's next turn (R317). -/
  | tvec (slot : Nat) (v : Word)
  /-- A load's value is written (R119). -/
  | value (slot : Nat) (d : AReg) (v : Word)
  /-- A slip-group or windowed store performs in every copy (R223). -/
  | merge (slot elem gen site : Nat) (bytes : List (Nat × Option GTag × Byte))
  /-- `rvinit` and `rvarr` at their point (R288): `ac` is the arrival count that the slot showed, `live` holds while it
  still waits at the word. -/
  | rvInit (slot launch w : Nat) (v : Word) (live : Bool)
  | rvArrive (slot launch w : Nat) (ac : BitVec 16) (live : Bool)
  | rvSignal (launch w : Nat)
  | rvAnswer (slot : Nat)
  | hFree (slot h : Nat)
  /-- The full/empty bits of unit i of a draining handle's destination clear (R295). -/
  | drain (region h i : Nat)
  | hStat (slot : Nat) (d : AReg) (h : Nat)
  | domSet (region dom n p slot : Nat)
  | domStop (region dom : Nat)
  /-- Increments that cells emit into other domains at a cycle's end (R254): source, destination cell, input, dz. -/
  | ddaEmit (region : Nat) (incs : List (Nat × Nat × Nat × Int))
  /-- All four domains stop at a cycle's end (R255). -/
  | ddaHalt (region : Nat)
  | cellSet (region c : Nat) (v : Word)
  /-- Word j of a `dpatch` is read (R258), until cycle `last`; `got` holds the words before it. -/
  | patchWord (slot first j n site off last : Nat) (got : List Word)
  /-- The words of a `dpatch` wait for its completion cycle. -/
  | patched (slot first : Nat) (got : List Word)
  /-- The next unit of the image of a slot's `dsave` at its bank (R260). -/
  | saveUnit (slot : Nat)
  /-- Lifetimes of sites end with a cycle (R210, R302): clusters, site numbers and records. -/
  | lifeEnd (launch : Nat) (ends : List (Nat × Nat × Site))
  /-- A babble mark reaches the voters of a cluster (R329). -/
  | babbleMark (cluster : Nat)
  /-- Corrected words of an element written back through the scrub port (R144). -/
  | mend (words : List EccAt)
deriving DecidableEq, Repr

/-- One entry of the agenda: an operation or an effect, due at a cycle; `rank` orders a cycle's entries, those below 100
before the rows issue and the others after the control words; `region` names the region whose halt stops it (R320). -/
structure Due where
  at_ : Nat
  rank : Nat
  region : Option Nat
  act : Instr ⊕ Effect
deriving DecidableEq, Repr

/-- What a beat, or something done for it later, changed while an earlier beat or column of its slot can still raise a cause of
point B, for which it does not perform (R306): storage before and after, and what it placed. -/
structure Undo where
  key : Nat
  edge : Nat
  elems : List (Nat × Elem × Elem) := []
  clusters : List (Nat × Cluster × Cluster) := []
  slotWas : Slot := {}
  slotIs : Slot := {}
  /-- Bytes of memory and full/empty bits, by physical address. -/
  mem : List (Nat × Byte × Byte) := []
  fe : List (Nat × Bool × Bool) := []
  stampsWas : Map Stamp := []
  stampsIs : Map Stamp := []
  mcastWas : Map Word := []
  mcastIs : Map Word := []
  /-- The watch sets and the joint operations of the slot's launch. -/
  watchesWas : Map (List Watch) := []
  watchesIs : Map (List Watch) := []
  quadsWas : Map (Nat × Nat) := []
  quadsIs : Map (Nat × Nat) := []
  /-- Open operations, held channel beats and words in error as they stood before it changed or ended them. -/
  joinsWas : List Join := []
  beatsWas : List ChanBeat := []
  eccWas : List (EccAt × EccState) := []
  /-- The handles that its requests took, as they were. -/
  handles : List (Nat × Handle) := []
  /-- Counts added: slice, count, increment. -/
  adds : List (Nat × Nat × Nat) := []
  dues : List Due := []
  accs : List Nat := []
  beats : List Nat := []
  upds : List Nat := []
  reqs : List Nat := []
  joins : List Nat := []
deriving DecidableEq, Repr

/-- What the device has answered to a host port: the bytes of a line, an error response, "not held" to a snoop, or a
register's word. -/
inductive HostAnswer
  | data (host : HostPort) (addr : Nat) (bytes : List Byte)
  | error (host : HostPort) (addr : Nat)
  | notHeld (host : HostPort) (addr : Nat)
  | word (host : HostPort) (off : Nat) (v : Word)
deriving DecidableEq, Repr

/-- The phases of a cycle: entries due before issue, rows issue, control words execute, beats execute, entries due at
the cycle's end. -/
inductive Phase | start | issue (r : Nat) | beat | ctrl (r : Nat) | finish
deriving DecidableEq, Repr, Inhabited

/-- The machine. -/
structure State where
  cycle : Nat
  phase : Phase
  ctx : Ctx
  agenda : List Due
  /-- Entries of halted regions, stopped (R320). -/
  frozen : List Due
  flights : List Flight
  /-- Newest first: what the beats of the last cycles changed (R306). -/
  undo : List Undo
  fresh : Nat
  serial : Nat
  mem : List Host.Cell
  /-- What bytes written on a cycle held before it, and that cycle: a read on it returns them (R272, R273). -/
  memOld : Map Byte
  memOldAt : Nat
  slots : Map Slot
  elems : Map Elem
  clusters : Map Cluster
  regions : Map Region
  slices : Map Slice
  stamps : Map Stamp
  refused : List RefusedTag
  launches : Map Launch
  points : Map Point
  beats : List ChanBeat
  joins : List Join
  /-- Pages copied out under a halted launch (R322), by the cluster from which they were copied: the cluster and its 16
  elements as they were. -/
  swaps : Map (Cluster × List Elem)
  accs : List Access
  reqs : List Req
  loads : List Load
  reports : List LoadReport
  upds : List CountUpd
  ports : Map Port
  hostSem : Map (BitVec 32)
  memwin : Map Word
  hostDown : List HostPort
  xlatBase : Word
  kilnBudget : BitVec 20
  kilnBase : BitVec 20
  kilnReserved : Nat
  kilnWindow : Word
  /-- The energy of all operations counted in this firing window (R347). -/
  counted : Nat
  hot : Bool
  off : Bool
  peerStat : Map Word
  /-- By link, the peer ports and then host ports A and B at 16 and 17 (R354): the SEQ expected next, one past its ACK; the
  SEQ of the next flit to send; the flits sent and not yet acknowledged, oldest first. -/
  peerSeq : Map (BitVec 12)
  peerNext : Map (BitVec 12)
  peerSent : Map (List Flit)
  /-- Flits that have left the peer ports, newest first. -/
  flitsOut : List (Nat × Flit)
  /-- Answers to host ports, newest first. -/
  answers : List HostAnswer
  trustMeas : Map (BitVec 384)
  trustNonce : BitVec 256
  trustAttest : Word
  /-- The nonce of the latest request for a report (R358). -/
  attestNonce : BitVec 256
  trustReport : List Byte
  /-- The firmware image in its one slot (R356). -/
  fwImage : List Byte
  fwVersion : Word
  fwRunning : Bool
  log : Map (BitVec 128)
  logCnt : BitVec 32
  ecc : List (EccAt × EccState)
  /-- Writes the device has sent out: completion tokens and local-to-remote units, newest first: the 72-bit
  address and the bytes. -/
  outbox : List (Nat × List Byte)
deriving DecidableEq, Repr

/-- The heartbeats of cycle 0 (R328): those of the clusters whose number is a multiple of 128. -/
def firstBeats : List Due :=
  (List.range 11).map fun i => { at_ := 0, rank := 4, region := none, act := .inl (.heartbeat (128 * i)) }

/-- The machine right after module reset: every register at the value the spec states; what it states no value for
reads as the log's entries 1, 4 and 5 name. -/
def State.reset : State :=
  { cycle := 0, phase := .start, ctx := {}, agenda := firstBeats, frozen := [], flights := [], undo := [], fresh := 0, serial := 0,
    mem := [], memOld := [], memOldAt := 0, slots := [], elems := [], clusters := [], regions := [], slices := [], stamps := [], refused := [], launches := [],
    points := [], beats := [], joins := [], swaps := [], accs := [], reqs := [], loads := [], reports := [], upds := [], ports := [], hostSem := [],
    memwin := [], hostDown := [], xlatBase := 0, kilnBudget := 380000, kilnBase := 116000, kilnReserved := 0,
    kilnWindow := 0, counted := 0, hot := false, off := false, peerStat := [], peerSeq := [], peerNext := [], peerSent := [], flitsOut := [], answers := [], trustMeas := [],
    trustNonce := 0, trustAttest := 0, attestNonce := 0, trustReport := [], fwImage := [], fwVersion := 0, fwRunning := false, log := [], logCnt := 0,
    ecc := [], outbox := [] }

end Sys2Proof.Machine
end

