-- ==== Sys2Proof/Machine/Ops.lean ====
section
/-! DEFINITION. The named operations over the state: sparse storage, memory in its canonical form, where units stand
(01 R12 to R14), the agenda, the event log, and taking and leaving an exception (20 R306 to R316). -/

namespace Sys2Proof.Machine

/-- What a meaning answers. -/
abbrev Res := Host.Outcome State Fault Refusal

/-! ## Sparse storage -/

/-- The value at a key; `d` where none is listed. -/
def look {α : Type} (d : α) : Map α → Nat → α
  | [], _ => d
  | (j, v) :: m, k => if j = k then v else look d m k

/-- The map with key `k` at `v`; keys stay rising. -/
def put {α : Type} : Map α → Nat → α → Map α
  | [], k, v => [(k, v)]
  | (j, w) :: m, k, v =>
    if k < j then (k, v) :: (j, w) :: m
    else if k = j then (k, v) :: m
    else (j, w) :: put m k v

/-- The map without key `k`. -/
def del {α : Type} : Map α → Nat → Map α
  | [], _ => []
  | (j, w) :: m, k => if j = k then del m k else (j, w) :: del m k

/-- The map with several keys set. -/
def putAll {α : Type} (m : Map α) (l : List (Nat × α)) : Map α := l.foldl (fun m e => put m e.1 e.2) m

/-! ## Memory (R228): bytes by physical address; an unlisted byte reads 0 (log entry 4) -/

def memDefault : Byte := 0

def memByte (m : List Host.Cell) (a : Nat) : Byte := look memDefault m a

/-- One byte written; a byte equal to what an unlisted address reads as is not listed. -/
def memPut (m : List Host.Cell) (a : Nat) (b : Byte) : List Host.Cell :=
  if b = memDefault then del m a else put m a b

/-- The canonical form: addresses strictly rising, and no entry equal to the unlisted value. -/
def Memory.wf : List Host.Cell → Bool
  | [] => true
  | [(_, b)] => b != memDefault
  | (a, b) :: (a', b') :: m => decide (a < a') && b != memDefault && Memory.wf ((a', b') :: m)

def memRead (m : List Host.Cell) (a : Nat) : Nat → List Byte
  | 0 => []
  | n + 1 => memByte m a :: memRead m (a + 1) n

def memWrite (m : List Host.Cell) (a : Nat) : List Byte → List Host.Cell
  | [] => m
  | b :: bs => memWrite (memPut m a b) (a + 1) bs

/-! ## Records by key -/

def State.slot (s : State) (k : Nat) : Slot := look {} s.slots k
def State.setSlot (s : State) (k : Nat) (x : Slot) : State := { s with slots := put s.slots k x }
def State.modSlot (s : State) (k : Nat) (f : Slot → Slot) : State := s.setSlot k (f (s.slot k))
def State.elem (s : State) (k : Nat) : Elem := look {} s.elems k
def State.setElem (s : State) (k : Nat) (x : Elem) : State := { s with elems := put s.elems k x }
def State.modElem (s : State) (k : Nat) (f : Elem → Elem) : State := s.setElem k (f (s.elem k))
def State.cluster (s : State) (k : Nat) : Cluster := look {} s.clusters k
def State.setCluster (s : State) (k : Nat) (x : Cluster) : State := { s with clusters := put s.clusters k x }
def State.modCluster (s : State) (k : Nat) (f : Cluster → Cluster) : State := s.setCluster k (f (s.cluster k))
def State.region (s : State) (k : Nat) : Region := look {} s.regions k
def State.setRegion (s : State) (k : Nat) (x : Region) : State := { s with regions := put s.regions k x }
def State.modRegion (s : State) (k : Nat) (f : Region → Region) : State := s.setRegion k (f (s.region k))
def State.launch (s : State) (k : Nat) : Launch := look {} s.launches k
def State.setLaunch (s : State) (k : Nat) (x : Launch) : State := { s with launches := put s.launches k x }
def State.modLaunch (s : State) (k : Nat) (f : Launch → Launch) : State := s.setLaunch k (f (s.launch k))
def State.slice (s : State) (k : Nat) : Slice := look {} s.slices k
def State.modSlice (s : State) (k : Nat) (f : Slice → Slice) : State :=
  { s with slices := put s.slices k (f (s.slice k)) }
def State.port (s : State) (k : Nat) : Port := look {} s.ports k
def State.modPort (s : State) (k : Nat) (f : Port → Port) : State := { s with ports := put s.ports k (f (s.port k)) }
def State.handle (s : State) (r h : Nat) : Handle := look {} (s.region r).handles h
def State.setHandle (s : State) (r h : Nat) (x : Handle) : State :=
  s.modRegion r fun g => { g with handles := put g.handles h x }
def State.point (s : State) (l w : Nat) : Point := look {} s.points (24 * l + w)
def State.setPoint (s : State) (l w : Nat) (x : Point) : State := { s with points := put s.points (24 * l + w) x }

/-! ## Where units stand (R12 to R14, R228, R229) -/

def slotKey (region slot : Nat) : Nat := 8 * region + slot
def clusterAt (region cc cr : Nat) : Nat := 28 * region + 7 * cr + cc
def elemAt (region row col : Nat) : Nat := 16 * clusterAt region (col / 4) (row / 4) + 4 * (row % 4) + col % 4
/-- The region element index, 28 × row + column. -/
def elemIdx (row col : Nat) : Nat := 28 * row + col
def elemRow (elem : Nat) : Nat := 4 * (elem / 16 % 28 / 7) + elem % 16 / 4
def elemCol (elem : Nat) : Nat := 4 * (elem / 16 % 28 % 7) + elem % 4
def elemRegion (elem : Nat) : Nat := elem / 16 / 28
/-- Home slice h of a region: 24D + 8g + 4b + h. -/
def homeSlice (region h : Nat) : Nat := 4 * region + h

def hbmBytes : Nat := 0x18000000000
def sliceBase : Nat := 0x8000000000000
def sliceBytes : Nat := 0x400000
/-- The physical address of home offset x of a region. -/
def homePa (region x : Nat) : Nat := sliceBase + sliceBytes * homeSlice region (x / sliceBytes) + x % sliceBytes
def inHbm (a n : Nat) : Bool := a + n ≤ hbmBytes
def inSlices (a n : Nat) : Bool := sliceBase ≤ a && a + n ≤ sliceBase + 192 * sliceBytes
/-- The slice that holds a byte or fronts a stack line (R228). -/
def sliceOf (a : Nat) : Nat :=
  if a < sliceBase then 8 * (a / 2 ^ 36) + a / 64 % 8 else (a - sliceBase) / sliceBytes

/-- The copy of generation g in a region. -/
def State.copy (s : State) (region gen : Nat) : Copy :=
  ((s.region region).copies.find? (fun c => c.gen == gen)).getD {}
def State.copyOf (s : State) (l : Nat) : Copy := s.copy (s.launch l).region (s.launch l).gen
def kernelOf (c : Copy) (kid : Nat) : Kernel := (c.kernels[kid]?).getD {}
def State.kernelAt (s : State) (key : Nat) : Kernel :=
  kernelOf (s.copyOf (s.slot key).launch) (s.slot key).kernel
def saggarOf (l : Launch) : BitVec 12 := BitVec.ofNat 12 (field l.block 413 402)
def pagesOf (c : Copy) : Nat := c.pcol * c.prow
/-- The cluster of page p of a launch (R76). -/
def pageCluster (l : Launch) (c : Copy) (p : Nat) : Nat :=
  clusterAt l.region (l.cc0 + p % c.pcol) (l.cr0 + p / c.pcol)
/-- The clusters of a launch's pages, in page order. -/
def State.clustersOf (s : State) (l : Nat) : List Nat :=
  let c := s.copyOf l
  (List.range (pagesOf c)).map (pageCluster (s.launch l) c)
def State.slotKeys (s : State) (l : Nat) : List Nat := (s.launch l).slots.map (slotKey (s.launch l).region)

/-- Whether an element executes: its cluster is not shut by a fence (R331). -/
def State.elemRuns (s : State) (elem : Nat) : Bool := !(s.cluster (elem / 16)).shut

/-! ## The agenda -/

/-- The launch whose halt stops an operation or effect, if one does (R320). -/
def State.dueOwner (s : State) (act : Instr ⊕ Effect) : Option Nat :=
  let ofSlot (k : Nat) : Option Nat := if (s.slot k).bound then some (s.slot k).launch else none
  let ofSet (r : Nat) (set : BitVec 8) : Option Nat :=
    ((List.range 8).find? fun i => set.getLsbD i).bind fun i => ofSlot (slotKey r i)
  match act with
  | .inl (.windowClose e n) => some (look {} (s.elem e).landing n.val).launch
  | .inl (.writeBackRead e) => (s.accs.find? fun a => a.elem == e && a.kind == .wback && a.st == .queued).map (·.launch)
  | .inl (.channelBeatArrival b) | .inl (.recvHoldExpiry b) => (s.beats.find? fun x => x.id == b).map (·.launch)
  | .inl (.joinComplete j) | .inl (.joinStall j) => (s.joins.find? fun x => x.id == j).map (·.launch)
  | .inl (.milestoneCommit l) | .inl (.milestoneSwitch l) | .inl (.planeRelease l) | .inl (.csyncStall l) => some l
  | .inl (.dpatchDone k) => ofSlot k
  | .inl (.ddaStep r _) | .inr (.ddaEmit r _) | .inr (.ddaHalt r) | .inr (.domSet r ..) | .inr (.domStop r _)
  | .inr (.cellSet r ..) => (s.region r).ddaOwner
  | .inr (.hold r set) | .inr (.wake r set) => ofSet r set
  | .inr (.fret k ..) | .inr (.token k ..) | .inr (.seqLoad k ..) | .inr (.seqStore k ..) | .inr (.tvec k _)
  | .inr (.value k ..) | .inr (.merge k ..) | .inr (.hStat k ..) | .inr (.patchWord k ..) | .inr (.patched k ..)
  | .inr (.saveUnit k) => ofSlot k
  | _ => none

/-- Whether a launch is halted, and the cycle that its own time shows (R320). -/
def State.launchTime (s : State) (l : Nat) : Nat :=
  if (s.launch l).halted then (s.region (s.launch l).region).thalt else s.cycle

def State.ownerHalted (s : State) (act : Instr ⊕ Effect) : Bool :=
  match s.dueOwner act with
  | some l => (s.launch l).halted
  | none => false

/-- An operation or effect placed at a cycle: on the agenda, or among the stopped ones where its launch is halted. -/
def State.due (s : State) (at_ rank : Nat) (region : Option Nat) (act : Instr ⊕ Effect) : State :=
  let d : Due := { at_ := at_, rank := rank, region := region, act := act }
  if region.isSome && decide (s.cycle < at_) && s.ownerHalted act then { s with frozen := s.frozen ++ [d] }
  else { s with agenda := s.agenda ++ [d] }
def State.dueOp (s : State) (at_ rank : Nat) (region : Option Nat) (i : Instr) : State := s.due at_ rank region (.inl i)
def State.dueEff (s : State) (at_ rank : Nat) (region : Option Nat) (e : Effect) : State := s.due at_ rank region (.inr e)

/-- The first entry of lowest rank that is due, among those that `ok` admits. -/
def firstDue (now : Nat) (ok : Nat → Bool) : List Due → Option Due → Option Due
  | [], b => b
  | d :: ds, b =>
    if decide (d.at_ ≤ now) && ok d.rank && (match b with | none => true | some e => decide (d.rank < e.rank))
    then firstDue now ok ds (some d) else firstDue now ok ds b

/-- The agenda without its first entry equal to `d`. -/
def dropDue (d : Due) (l : List Due) : List Due := l.erase d

/-! ## The event log (R360) -/

/-- A report to the management core: cause, unit index, and the first 48 bits of the cause's record. -/
def State.report (s : State) (cause unit detail : Nat) : State :=
  let e : BitVec 128 := BitVec.ofNat 128
    (s.cycle % 2 ^ 48 * 2 ^ 80 + cause % 128 * 2 ^ 73 + unit % 2 ^ 16 * 2 ^ 48 + detail % 2 ^ 48)
  { s with log := put s.log (s.logCnt.toNat % 1024) e, logCnt := s.logCnt + 1 }

/-- The next free value (log entry 3). -/
def State.free (s : State) : Word × State := (Config.freeWord s.fresh, { s with fresh := s.fresh + 1 })
def State.nextSerial (s : State) : Nat × State := (s.serial, { s with serial := s.serial + 1 })

/-- An operation of a launch counted for its share of the firing window (R347). -/
def State.count (s : State) (l : Nat) (i : Instr) : State :=
  let s := s.modLaunch l fun x => { x with drawn := x.drawn + Config.opEnergy i }
  { s with counted := s.counted + Config.opEnergy i }

/-! ## Registers of a slot (R113) -/

/-- a0 reads as zero. -/
def Slot.areg (sl : Slot) (r : AReg) : Word := if r = 0 then 0 else sl.a.get r
/-- Writes to a0 are discarded. -/
def Slot.setA (sl : Slot) (r : AReg) (v : Word) : Slot := if r = 0 then sl else { sl with a := sl.a.set r v }
/-- k0 reads as true. -/
def Slot.kreg (sl : Slot) (r : KReg) : Bool := if r = 0 then true else sl.k.get r
/-- Writes to k0 are discarded. -/
def Slot.setK (sl : Slot) (r : KReg) (v : Bool) : Slot := if r = 0 then sl else { sl with k := sl.k.set r v }

/-- The slot of the step under way. -/
def State.key (s : State) : Nat := slotKey s.ctx.region s.ctx.slot
def State.me (s : State) : Slot := s.slot s.key
def State.setMe (s : State) (x : Slot) : State := s.setSlot s.key x
/-- The slot with its PC past the word. -/
def Slot.pcNext (sl : Slot) : Slot := { sl with pc := sl.pc + 1 }
/-- The step's result when a control word writes a[d] and goes on. -/
def State.writeA (s : State) (d : AReg) (v : Word) : State := s.setMe ((s.me.setA d v).pcNext)
def State.writeK (s : State) (d : KReg) (v : Bool) : State := s.setMe ((s.me.setK d v).pcNext)
def State.advance (s : State) : State := s.setMe s.me.pcNext

/-! ## Exceptions (R306 to R316) -/

/-- Resume classes (R311, R313). -/
inductive Class | R | H | T | X | C
deriving DecidableEq, Repr

/-- The class of a cause (R313); a reserved number has none and reads as C. -/
def causeClass (n : Nat) : Class :=
  if n ≤ 13 then .X
  else if n = 26 ∨ n = 27 ∨ n = 67 ∨ n = 97 ∨ n = 98 ∨ n = 99 ∨ n = 100 ∨ n = 112 ∨ n = 113 then .H
  else if n = 28 ∨ n = 115 ∨ n = 119 ∨ n = 120 ∨ n = 127 then .T
  else if (16 ≤ n ∧ n ≤ 25) ∨ (32 ≤ n ∧ n ≤ 38) ∨ (48 ≤ n ∧ n ≤ 55) ∨ (64 ≤ n ∧ n ≤ 66) ∨ (80 ≤ n ∧ n ≤ 87) ∨ n = 96
    ∨ n = 114 ∨ n = 116 ∨ n = 117 then .R
  else .C

/-- `SLOT.CAUSE` fields (R308). -/
def Slot.active (sl : Slot) : Bool := bitAt sl.cause 63
def Slot.pend (sl : Slot) : Bool := bitAt sl.cause 62
def Slot.pnum (sl : Slot) : Nat := field sl.cause 61 55
def Slot.cnum (sl : Slot) : Nat := field sl.cause 6 0
/-- `SLOT.TVEC` fields (R308). -/
def Slot.trapOn (sl : Slot) : Bool := bitAt sl.tvec 63
def Slot.entry (sl : Slot) : Nat := field sl.tvec 23 0

/-- Whether an effect belongs to a control word of the slot that a trap abandons (R307). -/
def abandoned (key : Nat) (e : Effect) : Bool :=
  match e with
  | .seqLoad k .. | .value k .. | .hStat k .. | .patchWord k .. | .patched k .. | .saveUnit k => k == key
  | _ => false

/-- The agenda without the effects of the slot's waiting word. -/
def dropWord (key : Nat) (l : List Due) : List Due :=
  l.filter fun d => match d.act with
    | .inr e => !abandoned key e
    | .inl (.dpatchDone k) => k != key
    | .inl _ => true

/-- A slot stopped for good: it executes no word and issues no beat. -/
def Slot.stopped (sl : Slot) : Slot :=
  { sl with ended := true, wait := .none, cur := {}, following := [], raised := [], held := false }

/-- The arrivals of a launch that are still on their way to a slice of another region: an executed `rvarr` is never abandoned
(R291, R307), and its path has no stated time. -/
def State.arrivalsAway (s : State) (l : Nat) : List Due :=
  (s.slotKeys l).filterMap fun k => match (s.slot k).wait with
    | .away w .arrive => some { at_ := s.cycle + 8, rank := 131, region := none, act := .inr (.rvArrive k l w (look 0 (s.slot k).ac w) false) }
    | _ => none

/-- Every slot of the launch stops, and the launch will retire with the cause (R312). -/
def State.terminate (s : State) (l cause slot : Nat) : State :=
  if (s.launch l).terminated then s
  else
    let s := { s with agenda := (s.slotKeys l).foldl (fun a k => dropWord k a) s.agenda ++ s.arrivalsAway l }
    let s := (s.slotKeys l).foldl (fun s k => s.modSlot k Slot.stopped) s
    s.modLaunch l fun x => { x with terminated := true, status := 3, cause := cause, cslot := slot }

/-- `SLOT.CAUSE` and `SLOT.TVAL` as a delivery sets them (R308, R309). -/
def causeWord (r : Raised) : Word :=
  BitVec.ofNat 64 (2 ^ 63 + r.kind % 8 * 2 ^ 52 + r.row % 16 * 2 ^ 48 + r.col % 32 * 2 ^ 43 + r.beat % 8 * 2 ^ 40
    + r.num % 128)
def tvalWord (r : Raised) : Word :=
  let code := if r.num = 114 ∨ (80 ≤ r.num ∧ r.num ≤ 87) then r.code else 0
  BitVec.ofNat 64 (r.line % 2 ^ 16 * 2 ^ 48 + code % 2 ^ 16 * 2 ^ 16)

/-- A launch terminated by a cause delivered to a slot whose EN is 0 (R312); the code of `trap` stands in `SLOT.TVAL` (R315). -/
def State.terminateOff (s : State) (key : Nat) (r : Raised) : State :=
  (if r.num = 114 then s.modSlot key fun sl => { sl with tval := tvalWord r } else s).terminate (s.slot key).launch r.num (key % 8)

/-- A cause is delivered to a slot (R309 to R312): it terminates the launch, is held, or enters the handler with
`epc` saved, the record set and the PC at ENTRY. -/
def State.deliver (s : State) (key : Nat) (r : Raised) (epc : BitVec 24) : State :=
  let sl := s.slot key
  if causeClass r.num = .T then s.terminate sl.launch r.num (key % 8)
  else if sl.active then
    if r.kind = 0 ∨ r.kind = 5 then s.terminate sl.launch 115 (key % 8)
    else if sl.pend then s
    else s.setSlot key { sl with cause := putField (sl.cause ||| (1 <<< 62)) 61 55 r.num }
  else if !sl.trapOn then s.terminateOff key r
  else if (s.kernelAt key).words ≤ sl.entry then s.terminate sl.launch 115 (key % 8)
  else
    let s := { s with agenda := dropWord key s.agenda }
    s.setSlot key { sl with cause := causeWord r, tval := tvalWord r, epc := epc.setWidth 64,
                            pc := BitVec.ofNat 24 sl.entry, wait := .none, busy := s.cycle + 1 }

/-- Whether a cause must wait for the outcome of a rendezvous word (R307). -/
def Slot.awaiting (sl : Slot) (now : Nat) : Bool :=
  match sl.wait with
  | .rvOut => decide (now < sl.busy)
  | .away _ .arrive => true
  | _ => false

/-- A cause of point S, D or A, or one that must wait: kept for the slot's next turn (R306, R307). -/
def State.raise (s : State) (key : Nat) (r : Raised) : State :=
  let sl := s.slot key
  if !sl.bound then s
  else if sl.ended then (if causeClass r.num = .C then s else s.terminate sl.launch r.num (key % 8))
  else s.setSlot key { sl with raised := sl.raised ++ [if r.kind = 3 ∨ r.kind = 6 then { r with at_ := s.cycle } else r] }

/-- A cause delivered at once, unless it must wait (R307). A slot that has ended has no handler: the launch ends
(R318). -/
def State.raiseNow (s : State) (key : Nat) (r : Raised) : State :=
  let sl := s.slot key
  if !sl.bound then s
  else if sl.ended then s.terminate sl.launch r.num (key % 8)
  else if sl.awaiting s.cycle then s.raise key r
  else s.deliver key r sl.pc

/-- A cause of point W at the control word under way: nothing performs and EPC is the word (R306). -/
def State.trapW (s : State) (num : Nat) (code : Nat := 0) : State :=
  s.deliver s.key { num := num, kind := 0, code := code } s.me.pc

/-- The beats of the slot from an edge cycle on no longer perform (R306, point B). -/
def killFlights (key edge : Nat) (l : List Flight) : List Flight :=
  l.filter fun f => !(slotKey f.region f.slot == key && decide (edge ≤ f.edge))

/-- Loops and runs that began after the failing beat's own, oldest first (R307). -/
def newerIssues (key : Nat) (f : Flight) (sl : Slot) (l : List Flight) : List Issue :=
  let fl := (l.filter fun g => slotKey g.region g.slot == key && decide (f.edge ≤ g.edge)
    && g.pos.serial != f.pos.serial).map (·.pos)
  let all := fl ++ (if sl.cur.kind = .idle then [] else [sl.cur]) ++ sl.following
  let serials := (all.map (·.serial)).eraseDups.filter (· != f.pos.serial)
  serials.filterMap fun n => (all.find? (fun i => i.serial == n)).map fun i =>
    { i with iter := 0, line := 0, beat := 0, started := false, startAt := 0 }

/-! ## Beats that do not perform (R306, point B) -/

/-- The value listed at a key. -/
def seek {α : Type} (m : Map α) (k : Nat) : Option α := (m.find? fun e => e.1 == k).map (·.2)

/-- A map with every key that changed from `was` to `is`, and has not changed since, set back. -/
def undoMap {α : Type} [DecidableEq α] (was is now : Map α) : Map α :=
  ((was ++ is).map (·.1)).foldl (fun m k =>
    if seek was k = seek is k ∨ seek m k ≠ seek is k then m
    else match seek was k with
      | some v => put m k v
      | none => del m k) now

/-- A value set back where it stands as it was left. -/
def undoVal {α : Type} [DecidableEq α] (was is now : α) : α := if now = is then was else now

/-- Landing entries without what a beat changed there: a window that it opened goes with the data that have come. -/
def undoLanding (was is now : Map Landing) : Map Landing :=
  ((was ++ is).map (·.1)).foldl (fun m k =>
    let w : Landing := look {} was k
    let i : Landing := look {} is k
    let n : Landing := look {} m k
    if w = i then m
    else if n = i then put m k w
    else if n.isOpen && i.isOpen && n.acc == i.acc then put m k (if w.isOpen && w.acc == i.acc then { n with beats := w.beats } else w)
    else m) now

/-- An element without what a beat changed there. -/
def Elem.undo (was is now : Elem) : Elem :=
  { now with
    regs := undoMap was.regs is.regs now.regs, masks := undoMap was.masks is.masks now.masks
    res := undoMap was.res is.res now.res, tag := undoVal was.tag is.tag now.tag
    scratch := undoMap was.scratch is.scratch now.scratch, landing := undoLanding was.landing is.landing now.landing
    siteLatch := undoMap was.siteLatch is.siteLatch now.siteLatch, tapLatch := undoMap was.tapLatch is.tapLatch now.tapLatch
    recvLatch := undoMap was.recvLatch is.recvLatch now.recvLatch, bank := undoMap was.bank is.bank now.bank
    tags := undoMap was.tags is.tags now.tags, dirty := undoMap was.dirty is.dirty now.dirty
    steps := undoMap was.steps is.steps now.steps }

/-- A list without what a beat added to it, and with what it took out or changed as it was, told apart by `same`. -/
def undoList {α : Type} [DecidableEq α] (same : α → α → Bool) (was is now : List α) : List α :=
  (was.filterMap fun w => match now.find? (same w) with
    | some x => some (if is.contains x then w else x)
    | none => if is.any (same w) then none else some w)
    ++ now.filter fun x => !was.any (same x) && !is.any (same x)

def sameStep (x y : FStep) : Bool := x.word == y.word && x.index == y.index

/-- A cluster without what a beat changed there; the array no longer stands in a step that it lacks. -/
def Cluster.undo (was is now : Cluster) : Cluster :=
  let feed := undoList sameStep was.feed is.feed now.feed
  { now with
    tiles := undoMap was.tiles is.tiles now.tiles, sums := undoMap was.sums is.sums now.sums
    wbytes := undoMap was.wbytes is.wbytes now.wbytes, wlines := undoMap was.wlines is.wlines now.wlines
    wwrote := undoMap was.wwrote is.wwrote now.wwrote, feed := feed
    fwords := undoList (fun x y => x.serial == y.serial) was.fwords is.fwords now.fwords, runs := undoMap was.runs is.runs now.runs
    taken := undoMap was.taken is.taken now.taken, zeroed := undoMap was.zeroed is.zeroed now.zeroed
    firstBeat := undoMap was.firstBeat is.firstBeat now.firstBeat, drained := undoMap was.drained is.drained now.drained
    doing := match now.doing with
      | some (.own w i, n) => if feed.any fun st => st.word == w && st.index == i then some (.own w i, n) else none
      | d => d }

/-- A slot's registers without what a beat changed there. -/
def Slot.undo (was is now : Slot) : Slot :=
  { now with
    fret := undoVal was.fret is.fret now.fret, winmiss := undoVal was.winmiss is.winmiss now.winmiss
    siteerr := undoVal was.siteerr is.siteerr now.siteerr, late := undoVal was.late is.late now.late
    paths := undoMap was.paths is.paths now.paths
    failed := now.failed.filter fun f => was.failed.contains f || !is.failed.contains f
    raised := now.raised.filter fun r => was.raised.contains r || !is.raised.contains r }

/-- The holds of a watch set: granule and member. -/
def holdsOf (l : List Watch) : List (GTag × (Nat × Nat)) := l.flatMap fun w => w.members.map fun m => (w.tag, m)

/-- A watch set without a member's hold on a granule (R222). -/
def unwatch (member : Nat × Nat) (tag : GTag) (l : List Watch) : List Watch :=
  (l.map fun w => if w.tag = tag then { w with members := w.members.filter (· != member) } else w).filter
    fun w => !w.members.isEmpty

/-- A watch set with a member's hold on a granule. -/
def rewatch (member : Nat × Nat) (tag : GTag) (l : List Watch) : List Watch :=
  if l.any fun w => w.tag == tag then
    l.map fun w => if w.tag = tag ∧ !w.members.contains member then { w with members := member :: w.members } else w
  else l ++ [{ tag := tag, members := [member] }]

/-- The watch sets of a launch without the holds that a beat took and with those that it gave up. -/
def undoWatches (was is now : Map (List Watch)) : Map (List Watch) :=
  (((was ++ is).map (·.1)).eraseDups).foldl (fun m k =>
    let a := holdsOf (look [] was k)
    let b := holdsOf (look [] is k)
    if a = b then m
    else
      let l := (b.filter fun h => !a.contains h).foldl (fun l h => unwatch h.2 h.1 l) (look [] m k)
      put m k ((a.filter fun h => !b.contains h).foldl (fun l h => rewatch h.2 h.1 l) l)) now

/-- A full/empty bit (R236), by the physical address of its word. -/
def State.feAt (s : State) (p : Nat) : Bool := look false (s.slice (sliceOf p)).fe ((p - sliceBase) % sliceBytes / 4)
def State.putFe (s : State) (p : Nat) (v : Bool) : State :=
  s.modSlice (sliceOf p) fun x =>
    let w := (p - sliceBase) % sliceBytes / 4
    { x with fe := if v then put x.fe w true else del x.fe w }

/-- A full/empty bit, and the bytes of memory, set back where they stand as a beat left them. -/
def State.undoFe (s : State) (b : Nat × Bool × Bool) : State := if s.feAt b.1 = b.2.2 then s.putFe b.1 b.2.1 else s
def undoBytes (l : List (Nat × Byte × Byte)) (m : List Host.Cell) : List Host.Cell :=
  l.foldl (fun m b => if memByte m b.1 = b.2.2 then memPut m b.1 b.2.1 else m) m
def State.undoMem (s : State) (u : Undo) : State := u.fe.foldl State.undoFe { s with mem := undoBytes u.mem s.mem }

/-- A handle that a request of the slot took as it was before, while the launch still has it. -/
def State.undoHandle (key : Nat) (s : State) (h : Nat × Handle) : State :=
  if (s.handle (key / 8) h.1).owner = (s.slot key).launch then s.setHandle (key / 8) h.1 h.2 else s

/-- A count without what was added to it. -/
def State.undoAdd (s : State) (a : Nat × Nat × Nat) : State :=
  s.modSlice a.1 fun x => { x with counters := put x.counters a.2.1 (BitVec.ofNat 64 ((look (0 : Word) x.counters a.2.1).toNat - a.2.2)) }

/-- Requests, counts, operations and channel beats without a beat's own, and those that it changed as they were. -/
def State.undoSent (s : State) (u : Undo) : State :=
  let s := u.adds.foldl State.undoAdd (u.handles.foldl (State.undoHandle u.key) s)
  { s with
    accs := s.accs.filter fun a => !u.accs.contains a.id, upds := s.upds.filter fun x => !u.upds.contains x.id
    reqs := s.reqs.filter fun q => !u.reqs.contains q.id
    beats := (s.beats.filter fun b => !u.beats.contains b.id && !u.beatsWas.any (·.id == b.id)) ++ u.beatsWas
    joins := (s.joins.filter fun j => !u.joins.contains j.id && !u.joinsWas.any (·.id == j.id)) ++ u.joinsWas
    agenda := s.agenda.filter fun d => !u.dues.contains d, frozen := s.frozen.filter fun d => !u.dues.contains d }

/-- A held channel beat that has its expiry no more is judged on the next cycle (R220). -/
def State.rehold (s : State) (b : ChanBeat) : State :=
  if s.agenda.any fun d => d.act == .inl (.recvHoldExpiry b.id) then s
  else s.dueOp (s.cycle + 1) 20 (some b.region) (.recvHoldExpiry b.id)

def State.undoElem (s : State) (e : Nat × Elem × Elem) : State := s.modElem e.1 (Elem.undo e.2.1 e.2.2)
def State.undoCluster (s : State) (c : Nat × Cluster × Cluster) : State := s.modCluster c.1 (Cluster.undo c.2.1 c.2.2)

/-- What one note holds taken back (R306). -/
def State.takeBack (s : State) (u : Undo) : State :=
  let s := u.beatsWas.foldl State.rehold ((s.undoSent u).undoMem u)
  let s := u.clusters.foldl State.undoCluster (u.elems.foldl State.undoElem s)
  let s := s.modSlot u.key (Slot.undo u.slotWas u.slotIs)
  let s := s.modRegion (u.key / 8) fun g => { g with mcast := undoMap u.mcastWas u.mcastIs g.mcast }
  let s := s.modLaunch (s.slot u.key).launch fun x =>
    { x with watches := undoWatches u.watchesWas u.watchesIs x.watches, joins := undoMap u.quadsWas u.quadsIs x.joins }
  { s with
    stamps := undoMap u.stampsWas u.stampsIs s.stamps
    ecc := (u.eccWas.filter fun e => !s.ecc.any (·.1 == e.1)) ++ s.ecc }

/-- `POISON.ORIGIN` after one poisoned lane was written to a sink (R147). -/
def sinkWord (w : Word) (x : Sink) : Word :=
  let n := stopAt 65535 (field w 63 48 + 1)
  if bitAt w 0 then putField w 63 48 n
  else BitVec.ofNat 64 (n * 2 ^ 48 + x.origin % 512 * 2 ^ 39 + x.sink % 512 * 2 ^ 30 + x.site % 256 * 2 ^ 22 + x.kind % 4 * 2 ^ 20 + 1)

/-- Sinks recorded: the first since the last clear is kept, and all are counted. Those of beats that a trap can no longer reach
are no longer listed. -/
def Slot.addSinks (sl : Slot) (now : Nat) (l : List Sink) : Slot :=
  let old := sl.sinks.takeWhile fun x => decide (x.edge + 54 < now)
  { sl with poison := l.foldl sinkWord sl.poison, sinksOn := old.foldl sinkWord sl.sinksOn,
            sinks := sl.sinks.drop old.length ++ l }

/-- The sinks of the beats from an edge cycle on are not recorded. -/
def Slot.dropSinks (sl : Slot) (edge : Nat) : Slot :=
  if sl.sinks.any fun x => decide (edge ≤ x.edge) then
    let l := sl.sinks.filter fun x => decide (x.edge < edge)
    { sl with sinks := l, poison := l.foldl sinkWord sl.sinksOn }
  else sl

/-- `POISON.ORIGIN` set to a word: nothing recorded before it is listed. -/
def Slot.setPoison (sl : Slot) (w : Word) : Slot := { sl with poison := w, sinks := [], sinksOn := w }

/-- Every note of the slot's beats from an edge cycle on taken back, newest first, but for those of the same beat at the other
elements of the cluster `keep` (R196). -/
def State.takeBackFrom (s : State) (key edge : Nat) (keep : Option Nat) : State :=
  let kept (u : Undo) : Bool := keep.isSome && u.edge == edge && u.elems.all fun e => keep == some (e.1 / 16)
  let mine (u : Undo) : Bool := u.key == key && decide (edge ≤ u.edge) && !kept u
  ((s.undo.filter mine).foldl State.takeBack { s with undo := s.undo.filter fun u => !mine u }).modSlot key fun sl => sl.dropSinks edge

/-- Notes still needed: a beat that left before the noted one, or with it, can yet raise a cause. -/
def State.keepUndo (s : State) : List Undo := s.undo.filter fun u => decide (s.cycle ≤ u.edge + 27)

/-- The bytes that were written on this cycle, before and after. -/
def wroteNow (s t : State) : List (Nat × Byte × Byte) :=
  if t.memOldAt = t.cycle then
    t.memOld.filterMap fun b => if memByte s.mem b.1 = memByte t.mem b.1 then none else some (b.1, memByte s.mem b.1, memByte t.mem b.1)
  else []

/-- What changed from `s` to `t` for a beat of a slot that left the edge on a cycle, at elements `es` and clusters `cs`. -/
def noteOf (s t : State) (key edge : Nat) (es cs : List Nat) : Undo :=
  let new (a b : List Nat) : List Nat := a.filter fun n => !b.contains n
  let g := s.region (key / 8)
  let l := (s.slot key).launch
  let reqs := t.reqs.filter fun q => !s.reqs.any (·.id == q.id)
  let words := if t.memOldAt = t.cycle then ((t.memOld.filter fun b => decide (sliceBase ≤ b.1)).map (·.1 / 4 * 4)).eraseDups else []
  { key := key, edge := edge, elems := es.map fun e => (e, s.elem e, t.elem e), clusters := cs.map fun c => (c, s.cluster c, t.cluster c)
    slotWas := s.slot key, slotIs := t.slot key, mem := wroteNow s t
    fe := words.filterMap fun p => if s.feAt p = t.feAt p then none else some (p, s.feAt p, t.feAt p)
    stampsWas := s.stamps, stampsIs := t.stamps, mcastWas := g.mcast, mcastIs := (t.region (key / 8)).mcast
    watchesWas := (s.launch l).watches, watchesIs := (t.launch l).watches, quadsWas := (s.launch l).joins, quadsIs := (t.launch l).joins
    joinsWas := s.joins.filter fun j => !t.joins.contains j, beatsWas := s.beats.filter fun b => !t.beats.any (·.id == b.id)
    eccWas := s.ecc.filter fun e => !t.ecc.any (·.1 == e.1)
    handles := reqs.map fun q => (field q.pkt 123 118, look {} g.handles (field q.pkt 123 118))
    dues := t.agenda.filter fun d => !s.agenda.contains d, accs := new (t.accs.map (·.id)) (s.accs.map (·.id))
    beats := new (t.beats.map (·.id)) (s.beats.map (·.id)), upds := new (t.upds.map (·.id)) (s.upds.map (·.id))
    reqs := reqs.map (·.id), joins := new (t.joins.map (·.id)) (s.joins.map (·.id)) }

/-- What was done for a beat from `s` noted, while a cause can still reach it. -/
def State.note (t : State) (key edge : Nat) (es cs : List Nat) (s : State) : State :=
  if t.cycle ≤ edge + 27 then { t with undo := noteOf s t key edge es cs :: t.keepUndo } else t

/-- Counts that were added for a beat noted. -/
def State.noteAdds (t : State) (key edge slice : Nat) (adds : List (Nat × Nat)) : State :=
  if t.cycle ≤ edge + 27 then { t with undo := { key := key, edge := edge, adds := adds.map fun a => (slice, a.1, a.2) } :: t.keepUndo } else t

/-- What a beat changed from `s` noted, unless it raised a cause of point B. -/
def State.noteBeat (t : State) (f : Flight) (s : State) : State :=
  if t.ctx.failed then t else t.note (slotKey f.region f.slot) f.edge [s.ctx.elem] [s.ctx.elem / 16] s

/-- The issue position set back to a flight's beat. -/
def State.rewind (s : State) (key : Nat) (f : Flight) : State :=
  let sl := s.slot key
  let nw := newerIssues key f sl s.flights
  let s := { s with flights := killFlights key f.edge s.flights }
  if sl.ended then s
  else s.setSlot key { sl with cur := f.pos, following := nw, rb := f.rb, ctr2 := f.ctr2, ctr3 := f.ctr3,
                               lineFmt := f.fmt }

/-- A stored word that the beat under way cannot correct, reported where it is found (R335): registers and tables by element,
tiles by cluster with `CLUSTER.ACCERR` (R360). -/
def State.reportStored (s : State) (num : Nat) : State :=
  let cl := s.ctx.elem / 16
  if num = 96 ∨ num = 54 then s.report num s.ctx.elem 0
  else if num = 51 ∨ num = 52 then s.report num cl (s.cluster cl).accerr.toNat
  else s

/-- A cause of point B at the beat under way (R306): the beat and every later one of the slot do not perform, at any row or
column. -/
def State.trapB (s : State) (num : Nat) (code : Nat := 0) : State :=
  match s.ctx.flight with
  | none => s
  | some f =>
    let keep := if num = 25 then some (s.ctx.elem / 16) else none
    let s := ((s.rewind s.key f).takeBackFrom s.key f.edge keep).reportStored num
    let s := { s with ctx := { s.ctx with failed := true } }
    s.raiseNow s.key { num := num, kind := 1, row := s.ctx.row, col := s.ctx.col, beat := f.beat, line := f.line,
                       code := code }

end Sys2Proof.Machine
end

