-- ==== Sys2Proof/Machine/Flags.lean ====
section
/-! DEFINITION. What FLG and `FMT` say of a word (03 R45 to R48), poison (R50, R146, R151), sinks and `POISON.ORIGIN`
(R147), and the memory protection of stored words (R144). -/

namespace Sys2Proof.Machine

/-- `FMT` fields (R46). -/
def fmtSpare (f : BitVec 32) : Nat := field f 15 8
def fmtSinkTrap (f : BitVec 32) : Bool := bitAt f 2
def fmtFlush (f : BitVec 32) : Bool := bitAt f 1

/-- The arithmetic controls of a word under its slot's `FMT`. -/
def arith (o : SOp) (fmt : BitVec 32) : Arith :=
  { rnd := o.rnd, sat := o.sat, pchk := o.pchk, flush := fmtFlush fmt, spare := fmtSpare fmt }

/-- The origin a result keeps: that of the first poisoned lane it reads, in ascending lane order (R146). -/
def originOf (ls : List Lane) : Option (BitVec 9) := (ls.find? (·.p)).map (·.o)

/-- A result lane: poisoned when a lane it reads is, else by its own new poison with this element as origin (R151). -/
def mkLane (v : LaneWord) (reads : List Lane) (fresh : Bool) (me : Nat) : Lane :=
  match originOf reads with
  | some o => { v := v, p := true, o := o }
  | none => if fresh then { v := v, p := true, o := BitVec.ofNat 9 me } else { v := v, p := false, o := 0 }

/-- Every poisoned lane of a sink recorded, in ascending lane order (R147). -/
def State.recordSinks (s : State) (key : Nat) (lanes : List Lane) (sink site kind : Nat) : State :=
  let edge := match s.ctx.flight with | some f => f.edge | none => s.cycle
  s.modSlot key fun sl => sl.addSinks s.cycle ((lanes.filter (·.p)).map fun l =>
    { origin := l.o.toNat, sink := sink, site := site, kind := kind, edge := edge })

/-! ## Check bits (R144): the condition of stored words -/

def State.eccAt (s : State) (a : EccAt) : Option EccState := (s.ecc.find? (fun e => e.1 == a)).map (·.2)
/-- A word whose read finds a double-bit error, or that a scrubber has marked. -/
def State.eccBad (s : State) (a : EccAt) : Bool :=
  match s.eccAt a with
  | some .double | some .marked => true
  | _ => false
/-- A word corrected or written: it holds valid check bits again. -/
def State.eccClear (s : State) (as : List EccAt) : State :=
  if s.ecc.isEmpty then s else { s with ecc := s.ecc.filter fun e => !as.contains e.1 }
/-- Lanes of a result register are written: a reader of this cycle still meets the errors that they had (R121, R144). -/
def State.eccAge (s : State) (elem : Nat) (lanes : List Nat) : State :=
  if s.ecc.isEmpty then s
  else { s with ecc := s.ecc.map fun e => match e.1 with
    | .res x i => if x = elem ∧ lanes.contains i then (.resOld x i, e.2) else e
    | _ => e }
/-- No reader meets them from the next cycle on. -/
def State.eccForget (s : State) : State :=
  if s.ecc.isEmpty then s else { s with ecc := s.ecc.filter fun e => match e.1 with | .resOld .. => false | _ => true }
def State.eccPut (s : State) (a : EccAt) (c : EccState) : State := { s.eccClear [a] with ecc := (a, c) :: (s.eccClear [a]).ecc }

end Sys2Proof.Machine
end

