-- ==== Sys2Proof/Machine/Operands.lean ====
section
/-! DEFINITION. What one beat reads and writes at one element (08 R132 to R139, 06 R93 to R97): every source, every
destination, the mask, and the checks that are precise at the beat. -/

namespace Sys2Proof.Machine

/-! ## Register lanes (R136, R137, R303) -/

def regKey (slot code lane : Nat) : Nat := (48 * slot + code) * 64 + lane

/-- The physical register behind q(n): (RB + n) mod Q (R136). -/
def physQ (rb q n : Nat) : Nat := if q = 0 then 16 + n else 16 + (rb + n) % q

/-- What a lane nothing has written since arming `epoch` reads: 0 before the first arming, then a free value. -/
def unwritten (epoch key : Nat) : Lane := if epoch = 0 then {} else Lane.clean (Config.freeLane epoch key)

def State.regLane (s : State) (elem slotk code lane : Nat) : Lane :=
  let k := regKey (slotk % 8) code lane
  look (unwritten (s.elem elem).epoch k) (s.elem elem).regs k

/-- The result register and its tag as a reader on cycle `now` sees them (R121). -/
def Elem.resView (e : Elem) (now : Nat) : Map Lane × Option (Nat × Nat) :=
  if e.resAt = some now then (e.resOld, e.tagOld) else (e.res, e.tag)

def resLane (e : Elem) (m : Map Lane) (lane : Nat) : Lane :=
  look (unwritten e.epoch (2 ^ 40 + lane)) m lane

/-- A mask; m0 reads as all ones (R96). -/
def State.maskOf (s : State) (elem m : Nat) : BitVec 64 :=
  if m = 0 then BitVec.allOnes 64
  else
    let e := s.elem elem
    look (if e.epoch = 0 then 0 else Config.freeMask e.epoch m) e.masks m

/-- The element in a direction, inside the region's grid (R95). -/
def neighbour (region row col : Nat) (d : Dir) : Option Nat :=
  match d with
  | .north => if row = 0 then none else some (elemAt region (row - 1) col)
  | .south => if 15 ≤ row then none else some (elemAt region (row + 1) col)
  | .east => if 27 ≤ col then none else some (elemAt region row (col + 1))
  | .west => if col = 0 then none else some (elemAt region row (col - 1))

/-! ## The beat under way -/

/-- The identity of one issue of a word: its loop or run, iteration and line. -/
def Flight.wordId (f : Flight) : Nat := (f.pos.serial * 2 ^ 34 + f.pos.iter) * 2 ^ 18 + f.pos.line

def State.fl (s : State) : Flight := s.ctx.flight.getD default
def State.el (s : State) : Elem := s.elem s.ctx.elem
def State.modEl (s : State) (f : Elem → Elem) : State := s.modElem s.ctx.elem f
/-- This element's region element index. -/
def State.idx (s : State) : Nat := elemIdx s.ctx.row s.ctx.col
def State.arith (s : State) (o : SOp) : Arith := Machine.arith o s.fl.fmt
def State.flCopy (s : State) : Copy := s.copy s.fl.region s.fl.gen
/-- Whether the beat belongs to the plane before the last milestone switch (R131). -/
def State.oldPlane (s : State) : Bool := s.fl.gen != (s.launch s.fl.launch).gen
def State.qcnt (s : State) : Nat := (kernelOf s.flCopy (s.slot s.key).kernel).qcnt

/-- The physical register code of an own register (R94, R136). -/
def State.physG (s : State) (q : Nat) : Nat := physQ s.fl.rb.toNat s.qcnt q

/-- The register code that a destination names at this beat; none for the others. -/
def State.dstCode (s : State) : Dst → Option Nat
  | .g n => some n.val
  | .q n => some (s.physG n.val)
  | _ => none

/-- The code of the register after a register, by name (R138). -/
def State.dstNext (s : State) : Dst → Option Nat
  | .g n => some (n.val + 1)
  | .q n => some (s.physG (n.val + 1))
  | _ => none

def srcNextOf (s : State) : Src → Option Nat
  | .g n => some (n.val + 1)
  | .q n => some (s.physG (n.val + 1))
  | _ => none

/-- One lane of a source (R95); `imm` is the immediate as the form's type reads it and `bv` the broadcast value that
travels with the beat (R122). -/
def State.srcLane (s : State) (src : Src) (imm bv : LaneWord) (lane : Nat) : Lane :=
  match src with
  | .g n => s.regLane s.ctx.elem s.key n.val lane
  | .q n => s.regLane s.ctx.elem s.key (s.physG n.val) lane
  | .nbr d _ => match neighbour s.ctx.region s.ctx.row s.ctx.col d with
    | some e => resLane (s.elem e) ((s.elem e).resView s.cycle).1 lane
    | none => {}
  | .imm => Lane.clean imm
  | .lb n => look {} (look {} s.el.landing n.val).kept lane
  | .siteP => Lane.clean (look 0 s.el.siteLatch lane)
  | .recvP => look {} s.el.recvLatch (lane % 8)
  | .ddaP => Lane.clean (look 0 s.el.tapLatch lane)
  | .bcast _ => Lane.clean bv

def State.laneA (s : State) (o : SOp) (imm : LaneWord) (lane : Nat) : Lane := s.srcLane o.a imm s.fl.bA lane
def State.laneB (s : State) (o : SOp) (imm : LaneWord) (lane : Nat) : Lane := s.srcLane o.b imm s.fl.bB lane
/-- The destination read as a third operand (R98). -/
def State.laneD (s : State) (o : SOp) (lane : Nat) : Lane :=
  match s.dstCode o.dst with
  | some c => s.regLane s.ctx.elem s.key c lane
  | none => {}

/-- Whether a neighbour source's tag names the slot and the code (R133). -/
def State.tagOk (s : State) (src : Src) : Bool :=
  match src with
  | .nbr d c => match neighbour s.ctx.region s.ctx.row s.ctx.col d with
    | some e => ((s.elem e).resView s.cycle).2 == some (s.ctx.slot, c.toNat)
    | none => false
  | _ => true

/-- The mask word of the beat (R96, R139). -/
def State.predMask (s : State) (o : SOp) : BitVec 64 :=
  let m := s.maskOf s.ctx.elem o.predMask.val
  if o.predNeg then ~~~m else m

/-- The lanes that a beat covers (R93). -/
def beatLanes (b : Nat) : List Nat := (List.range 8).map (8 * b + ·)
/-- W: the lanes of the whole word (R148). -/
def width (o : SOp) : Nat := 8 * (o.fold.val + 1)
/-- The enabled lanes of the beat under way, ascending. -/
def State.enabled (s : State) (o : SOp) : List Nat := (beatLanes s.fl.beat).filter fun i => (s.predMask o).getLsbD i
def State.lastBeat (s : State) (o : SOp) : Bool := s.fl.beat == o.fold.val

/-! ## Protection of what a beat reads (R144) -/

/-- The stored words that a source reads in some lanes. -/
def State.srcEcc (s : State) (src : Src) (lanes : List Nat) : List EccAt :=
  match src with
  | .g n => lanes.map fun i => .reg s.ctx.elem (regKey s.ctx.slot n.val i)
  | .q n => lanes.map fun i => .reg s.ctx.elem (regKey s.ctx.slot (s.physG n.val) i)
  | .nbr d _ => match neighbour s.ctx.region s.ctx.row s.ctx.col d with
    | some e => lanes.flatMap fun i => [.res e i, .resOld e i]
    | none => []
  | _ => []

def State.dstEcc (s : State) (d : Dst) (lanes : List Nat) : List EccAt :=
  match s.dstCode d with
  | some c => lanes.map fun i => .reg s.ctx.elem (regKey s.ctx.slot c i)
  | none => []

/-- The 32-bit words of a mask that hold the bits of some lanes; m0 is no stored word (R96). -/
def maskEcc (elem m : Nat) (lanes : List Nat) : List EccAt :=
  if m = 0 then [] else ((lanes.map (· / 32)).eraseDups).map fun h => .mask elem (2 * m + h)

/-- What one beat reads at its element: lanes of its sources, of its destination and of the PRED mask, and words that the
form names besides. -/
structure Reads where
  a : List Nat := []
  b : List Nat := []
  d : List Nat := []
  pred : List Nat := []
  more : List EccAt := []
  /-- Whether the beat reads its sources; a lane operation reads them on its first beat alone (R169). -/
  tagged : Bool := true
deriving DecidableEq, Repr, Inhabited

/-- The stored words that a beat reads. -/
def State.readsAt (s : State) (o : SOp) (r : Reads) : List EccAt :=
  s.srcEcc o.a r.a ++ s.srcEcc o.b r.b ++ s.dstEcc o.dst r.d ++ maskEcc s.ctx.elem o.predMask.val r.pred ++ r.more

/-- Whether the tag of a neighbour source refuses the beat (R133). -/
def State.tagFault (s : State) (o : SOp) (r : Reads) : Bool := r.tagged && (!s.tagOk o.a || !s.tagOk o.b)

/-- What stops a beat before any lane performs (R133, R144): `NEIGH_TAG`, then `REG_ECC`. -/
def State.readFault (s : State) (o : SOp) (r : Reads) : Option Nat :=
  if s.tagFault o r then some 17
  else if s.ecc.isEmpty then none
  else if (s.readsAt o r).any s.eccBad then some 96
  else none

/-- A beat that reads lane i of source A for each enabled lane i, and of B and of the destination where the form does. -/
def State.laneReads (s : State) (o : SOp) (b d : Bool) : Reads :=
  let en := s.enabled o
  { a := en, b := if b then en else [], d := if d then en else [], pred := beatLanes s.fl.beat }

/-- A beat that reads no source. -/
def State.maskReads (s : State) : Reads := { pred := beatLanes s.fl.beat }

/-- Words whose single-bit errors a beat corrects: written back through the scrub port on the next cycle (R144). -/
def State.mendReads (s : State) (o : SOp) (r : Reads) : State :=
  if s.ecc.isEmpty || s.tagFault o r then s
  else match (s.readsAt o r).filter fun e => s.eccAt e == some .single with
    | [] => s
    | es => s.dueEff (s.cycle + 1) 90 none (.mend es)

/-! ## Writing results (R132, R135, R139, R152) -/

/-- The element with the result register's present contents kept for readers of this cycle. -/
def Elem.keepRes (e : Elem) (now : Nat) : Elem :=
  if e.resAt = some now then e else { e with resOld := e.res, tagOld := e.tag, resAt := some now }

def laneMask (lanes : List Nat) : BitVec 64 := BitVec.ofNat 64 (sumNat (lanes.map (2 ^ ·)))

/-- Lanes written to the result register, with the tag (R132). -/
def Elem.putRes (e : Elem) (now slot code : Nat) (ls : List (Nat × Lane)) : Elem :=
  let e := e.keepRes now
  { e with res := putAll e.res ls, tag := some (slot, code) }

/-- Lanes written to a register. -/
def Elem.putReg (e : Elem) (now slot code : Nat) (ls : List (Nat × Lane)) : Elem :=
  { e with regs := putAll e.regs (ls.map fun x => (regKey slot code x.1, x.2)),
           wrote := (regKey slot code 0, laneMask (ls.map (·.1)), now) :: e.wrote.filter (·.2.2 == now) }

/-- Mask bits written from bit 0 of each lane (R152). -/
def Elem.putMask (e : Elem) (m : Nat) (old : BitVec 64) (ls : List (Nat × Lane)) : Elem :=
  let v := ls.foldl (fun w x => if x.2.v.getLsbD 0 then w ||| ((1 : BitVec 64) <<< x.1) else w &&& ~~~((1 : BitVec 64) <<< x.1)) old
  { e with masks := put e.masks m v }

/-- Whether a destination writes the result register (R132). -/
def writesRes : Dst → Bool
  | .g _ | .q _ | .mask | .res | .seq => true
  | _ => false

/-- The enabled result lanes of a beat written to the destination. -/
def State.writeDst (s : State) (o : SOp) (ls : List (Nat × Lane)) : State :=
  let now := s.cycle
  let slot := s.ctx.slot
  let s := (s.eccClear (s.dstEcc o.dst (ls.map (·.1)))).eccAge s.ctx.elem (if writesRes o.dst then ls.map (·.1) else [])
  let s := match o.dst with
    | .mask => s.modEl fun e => e.putMask (field o.imm 2 0) (s.maskOf s.ctx.elem (field o.imm 2 0)) ls
    | d => match s.dstCode d with
      | some c => s.modEl fun e => e.putReg now slot c ls
      | none => s
  let s := if writesRes o.dst then s.modEl fun e => e.putRes now slot o.dst.code ls else s
  match o.dst, ls with
  | .seq, (_, l) :: _ => s.dueEff (now + 16) 20 (some s.ctx.region) (.fret s.key s.fl.edge (l.v.setWidth 64))
  | _, _ => s

/-- Lanes written to the register after the destination, which do not reach the result register (R165, R173). -/
def State.writeNext (s : State) (o : SOp) (ls : List (Nat × Lane)) : State :=
  match s.dstNext o.dst with
  | none => s
  | some c =>
    let s1 := s.eccClear (ls.map fun x => EccAt.reg s.ctx.elem (regKey s.ctx.slot c x.1))
    s1.modEl fun e => e.putReg s.cycle s.ctx.slot c ls

/-- Results of a beat: a poisoned lane for the sequencer is a sink (R135, R147). -/
def State.finishBeat (s : State) (o : SOp) (ls : List (Nat × Lane)) : State :=
  if o.dst = .seq then
    if fmtSinkTrap s.fl.fmt && ls.any (·.2.p) then s.trapB 48
    else (s.recordSinks s.key (ls.map (·.2)) s.idx 0 2).writeDst o ls
  else s.writeDst o ls

/-- A form that computes each enabled lane from the same lane of its sources (R149). `f` gives the value and whether
forming it is a new source of poison; `pass` says whether the sources' poison goes on (R151, R155, R178). Of lanes of the
same number a's origin is kept, then b's, then d's: log entry 63. -/
def State.lanewise (s : State) (o : SOp) (imm : LaneWord) (pass readB readD : Bool)
    (f : LaneWord → LaneWord → LaneWord → LaneWord × Bool) : State :=
  match s.readFault o (s.laneReads o readB readD) with
  | some c => s.trapB c
  | none =>
    s.finishBeat o ((s.enabled o).map fun i =>
      let a := s.laneA o imm i
      let b := s.laneB o imm i
      let d := s.laneD o i
      let r := f a.v b.v d.v
      let reads := a :: ((if readB then [b] else []) ++ (if readD then [d] else []))
      (i, mkLane r.1 (if pass then reads else []) r.2 s.idx))

/-! ## Parts of a lane (R148) and immediates (R97) -/

/-- Part p of width w of a lane. -/
def part (v : LaneWord) (w p : Nat) : Nat := v.toNat / 2 ^ (w * p) % 2 ^ w

/-- A lane from its parts, part 0 first. -/
def ofParts (w : Nat) (ps : List Nat) : LaneWord :=
  BitVec.ofNat 32 ((ps.foldr (fun p acc => p % 2 ^ w + acc * 2 ^ w) 0))

/-- A 16-bit or 8-bit code in every part. -/
def repl (w c : Nat) : LaneWord := ofParts w (List.replicate (32 / w) c)

def immInt (t : IntTy) (imm : BitVec 16) : LaneWord :=
  match t with
  | .i32 => imm.signExtend 32
  | .n32 => imm.setWidth 32
  | .i16 | .n16 => repl 16 imm.toNat
  | .i8 | .n8 => repl 8 (imm.toNat % 256)

def immFlt (t : FltTy) (imm : BitVec 16) : LaneWord :=
  match t with
  | .f32 => (imm.setWidth 32) <<< 16
  | .f16 | .bf16 => repl 16 imm.toNat

def FltTy.ff : FltTy → FF
  | .f32 => .f32 | .f16 => .f16 | .bf16 => .bf16

/-- A form that computes each part of a lane by itself (R148). -/
def onParts (w : Nat) (f : Nat → Nat → Nat → Coded) (a b d : LaneWord) : LaneWord × Bool :=
  let rs := (List.range (32 / w)).map fun p => f (part a w p) (part b w p) (part d w p)
  (ofParts w (rs.map (·.c)), rs.any (·.p))

end Sys2Proof.Machine
end

