-- ==== Sys2Proof/Machine/FabInt.lean ====
section
/-! DEFINITION. Majors 0 to 3: `nop`, `pass`, `ptest`, integer arithmetic, compares, `sel` and the bitwise forms (09 R154
to R158, R176 to R178). -/

namespace Sys2Proof.Machine

/-- `nop` takes its turn and writes nothing (R176). -/
def execNop (_ : SOp) (s : State) : Res := .next s

/-- `pass d, a` copies lanes with their poison (R177). -/
def execPass (o : SOp) (s : State) : Res :=
  .next (s.lanewise o (immInt .i32 o.imm) true false false fun a _ _ => (a, false))

/-- `ptest mN, a` sets each mask bit from all 32 bits of the lane; masks carry no poison (R178). -/
def execPtest (o : SOp) (s : State) : Res :=
  .next (s.lanewise o (immInt .i32 o.imm) false false false fun a _ _ => (if a = 0 then 0 else 1, false))

/-- An integer form on parts (R154); `pass` as in `State.lanewise`. -/
def State.intForm (s : State) (t : IntTy) (o : SOp) (readB readD : Bool) (f : Int → Int → Int → Int)
    (pass : Bool := true) : State :=
  let w := IntTy.bits t
  s.lanewise o (immInt t o.imm) pass readB readD
    (onParts w fun a b d => ⟨wrapNat (f (intVal t a) (intVal t b) (intVal t d)) w, false⟩)

/-- `fit` of a form's word (R148). -/
def fitTo (t : IntTy) (o : SOp) (x : Int) : Int := (fit t o.sat x : Nat)

def execAdd (t : IntTy) (o : SOp) (s : State) : Res :=
  .next (s.intForm t o true false fun x y _ => fitTo t o (x + y))
def execSub (t : IntTy) (o : SOp) (s : State) : Res :=
  .next (s.intForm t o true false fun x y _ => fitTo t o (x - y))
def execMul (t : IntTy) (o : SOp) (s : State) : Res :=
  .next (s.intForm t o true false fun x y _ => fitTo t o (x * y))
/-- The high half: a floor shift of the exact product (R154). -/
def execMulh (t : IntTy) (o : SOp) (s : State) : Res :=
  .next (s.intForm t o true false fun x y _ => (x * y) / ((2 ^ IntTy.bits t : Nat) : Int))
/-- One `fit` of the exact sum (R154). -/
def execMad (t : IntTy) (o : SOp) (s : State) : Res :=
  .next (s.intForm t o true true fun x y d => fitTo t o (d + x * y))
def execMin (t : IntTy) (o : SOp) (s : State) : Res :=
  .next (s.intForm t o true false fun x y _ => if x ≤ y then x else y)
def execMax (t : IntTy) (o : SOp) (s : State) : Res :=
  .next (s.intForm t o true false fun x y _ => if y ≤ x then x else y)
def execAbs (t : IntTy) (o : SOp) (s : State) : Res :=
  .next (s.intForm t o false false fun x _ _ => fitTo t o x.natAbs)
def execNeg (t : IntTy) (o : SOp) (s : State) : Res :=
  .next (s.intForm t o false false fun x _ _ => fitTo t o (-x))

def Cond.holds : Cond → Int → Int → Bool
  | .eq, x, y => x == y
  | .ne, x, y => x != y
  | .lt, x, y => decide (x < y)
  | .le, x, y => decide (x ≤ y)
  | .gt, x, y => decide (y < x)
  | .ge, x, y => decide (y ≤ x)

/-- All ones in the part when the comparison holds; one into a mask passes no poison on (R155). -/
def execCmp (c : Cond) (t : IntTy) (o : SOp) (s : State) : Res :=
  .next (s.intForm t o true false (fun x y _ => if Cond.holds c x y then -1 else 0) (o.dst != .mask))

/-- `sel` also reads its condition mask (R156). -/
def State.selReads (s : State) (o : SOp) : Reads :=
  { s.laneReads o true false with more := maskEcc s.ctx.elem (field o.imm 2 0) (s.enabled o) }

/-- `sel` moves whole lanes by the condition mask in IMM[2:0]; both sources are read (R156). -/
def execSel (_ : IntTy) (o : SOp) (s : State) : Res :=
  match s.readFault o (s.selReads o) with
  | some c => .next (s.trapB c)
  | none =>
    let m := s.maskOf s.ctx.elem (field o.imm 2 0)
    .next (s.finishBeat o ((s.enabled o).map fun i =>
      let a := s.laneA o 0 i
      let b := s.laneB o 0 i
      (i, mkLane (if m.getLsbD i then a.v else b.v) [a, b] false s.idx)))

/-- A bitwise form on whole lanes (R157). -/
def State.bitForm (s : State) (o : SOp) (t : IntTy) (readB readD : Bool) (f : LaneWord → LaneWord → LaneWord → LaneWord) :
    State := s.lanewise o (immInt t o.imm) true readB readD fun a b d => (f a b d, false)

def execAnd (o : SOp) (s : State) : Res := .next (s.bitForm o .n32 true false fun a b _ => a &&& b)
def execOr (o : SOp) (s : State) : Res := .next (s.bitForm o .n32 true false fun a b _ => a ||| b)
def execXor (o : SOp) (s : State) : Res := .next (s.bitForm o .n32 true false fun a b _ => a ^^^ b)
def execAndn (o : SOp) (s : State) : Res := .next (s.bitForm o .n32 true false fun a b _ => a &&& ~~~b)

/-- A count is y[4:0] (R157). -/
def shiftBy (y : LaneWord) : Nat := field y 4 0

def execShl (o : SOp) (s : State) : Res := .next (s.bitForm o .n32 true false fun a b _ => a <<< shiftBy b)
def execShr (o : SOp) (s : State) : Res := .next (s.bitForm o .n32 true false fun a b _ => a >>> shiftBy b)
def execSra (o : SOp) (s : State) : Res := .next (s.bitForm o .i32 true false fun a b _ => a.sshiftRight (shiftBy b))
def execRot (o : SOp) (s : State) : Res := .next (s.bitForm o .n32 true false fun a b _ => a.rotateLeft (shiftBy b))

/-- Leading zero bits, 32 for zero (R157). -/
def clz32 (x : LaneWord) : Nat := if x = 0 then 32 else 31 - Nat.log2 x.toNat

def execClz (o : SOp) (s : State) : Res :=
  .next (s.bitForm o .n32 false false fun a _ _ => BitVec.ofNat 32 (clz32 a))
def execPopc (o : SOp) (s : State) : Res :=
  .next (s.bitForm o .n32 false false fun a _ _ => BitVec.ofNat 32 (popCount a.toNat 32))

/-- pos := y[4:0] and wd := y[12:8] + 1 (R158). -/
def bfPos (y : LaneWord) : Nat := field y 4 0
def bfWidth (y : LaneWord) : Nat := field y 12 8 + 1

def bfxN (x y : LaneWord) : LaneWord := BitVec.ofNat 32 (x.toNat / 2 ^ bfPos y % 2 ^ bfWidth y)
/-- Bits past 31 copy bit 31 (R158). -/
def bfxI (x y : LaneWord) : LaneWord :=
  let v : Int := x.toInt / ((2 ^ bfPos y : Nat) : Int)
  BitVec.ofInt 32 (sextNat (wrapNat v (bfWidth y)) (bfWidth y))
def bfiV (x y d : LaneWord) : LaneWord :=
  let top := Nat.min (bfPos y + bfWidth y) 32 - 1
  putField d top (bfPos y) (field x (top - bfPos y) 0)

def execBfxN32 (o : SOp) (s : State) : Res := .next (s.bitForm o .n32 true false fun a b _ => bfxN a b)
def execBfxI32 (o : SOp) (s : State) : Res := .next (s.bitForm o .i32 true false fun a b _ => bfxI a b)
def execBfi (o : SOp) (s : State) : Res := .next (s.bitForm o .n32 true true fun a b d => bfiV a b d)

end Sys2Proof.Machine
end

