-- ==== Sys2Proof/Machine/FabFloat.lean ====
section
/-! DEFINITION. Majors 4, 5, 8, 9 and 13: float arithmetic and compares, conversion, narrow formats and tables (09 R159 to
R168, R174, R175). -/

namespace Sys2Proof.Machine

/-- A float part read with FLUSH applied (R45). -/
def fread (ar : Arith) (t : FltTy) (c : Nat) : Val := (FltTy.ff t).val ((FltTy.ff t).flushed ar.flush c)

/-- A float form on parts: its exact value and whether that is a new NaN (R159, R160), rounded once. -/
def State.fltForm (s : State) (t : FltTy) (o : SOp) (readB readD : Bool) (f : Val → Val → Val → Val × Bool) : State :=
  let ar := s.arith o
  s.lanewise o (immFlt t o.imm) true readB readD (onParts (FltTy.ff t).width fun a b d =>
    let r := f (fread ar t a) (fread ar t b) (fread ar t d)
    let c := fround ar (FltTy.ff t) r.1
    ⟨c.c, c.p || r.2⟩)

def execFadd (t : FltTy) (o : SOp) (s : State) : Res := .next (s.fltForm t o true false fun x y _ => addVal x y)
def execFsub (t : FltTy) (o : SOp) (s : State) : Res := .next (s.fltForm t o true false fun x y _ => addVal x (negVal y))
def execFmul (t : FltTy) (o : SOp) (s : State) : Res := .next (s.fltForm t o true false fun x y _ => mulVal x y)
def execFma (t : FltTy) (o : SOp) (s : State) : Res := .next (s.fltForm t o true true fun x y z => fmaVal x y z)

/-- The smaller, −0 below +0; any NaN gives NaN (R160). -/
def minVal (x y : Val) : Val := if isNan x || isNan y then .nan else if ltVal true y x then y else x
def maxVal (x y : Val) : Val := if isNan x || isNan y then .nan else if ltVal true x y then y else x

def execFmin (t : FltTy) (o : SOp) (s : State) : Res := .next (s.fltForm t o true false fun x y _ => (minVal x y, false))
def execFmax (t : FltTy) (o : SOp) (s : State) : Res := .next (s.fltForm t o true false fun x y _ => (maxVal x y, false))
def execFabs (t : FltTy) (o : SOp) (s : State) : Res := .next (s.fltForm t o false false fun x _ _ => (absVal x, false))
def execFneg (t : FltTy) (o : SOp) (s : State) : Res := .next (s.fltForm t o false false fun x _ _ => (negVal x, false))

def FCond.holds : FCond → Val → Val → Bool
  | .eq, x, y => eqVal x y
  | .ne, x, y => !eqVal x y
  | .lt, x, y => ltVal false x y
  | .le, x, y => ltVal false x y || eqVal x y
  | .un, x, y => isNan x || isNan y

/-- All ones in the part when the comparison holds; the poison of its sources is passed on (R151, R162). -/
def execFcmp (c : FCond) (t : FltTy) (o : SOp) (s : State) : Res :=
  let ar := s.arith o
  let w := (FltTy.ff t).width
  .next (s.lanewise o (immFlt t o.imm) true true false (onParts w fun a b _ =>
    ⟨if FCond.holds c (fread ar t a) (fread ar t b) then 2 ^ w - 1 else 0, false⟩))

/-- The class bit of a raw code (R162). -/
def classOf (f : FF) (c : Nat) : Nat :=
  let neg := f.sign c
  match f.val c with
  | .nan => 256
  | .inf n => if n then 1 else 128
  | .fin _ m _ =>
    if m = 0 then (if neg then 8 else 16)
    else if f.efield c = 0 then (if neg then 4 else 32)
    else (if neg then 2 else 64)

/-- `fclass` reads codes unflushed (R162). -/
def execFclass (t : FltTy) (o : SOp) (s : State) : Res :=
  .next (s.lanewise o (immFlt t o.imm) true false false
    (onParts (FltTy.ff t).width fun a _ _ => ⟨classOf (FltTy.ff t) a, false⟩))

/-- x × 2^y with y an integer of the part's width (R161); an infinity stays infinite. An immediate reads as for the
integer form when it stands in source B (R161). -/
def execFscale (t : FltTy) (o : SOp) (s : State) : Res :=
  let ar := s.arith o
  let w := (FltTy.ff t).width
  let it : IntTy := if t = .f32 then .i32 else .i16
  let imm := if o.b = .imm then immInt it o.imm else immFlt t o.imm
  .next (s.lanewise o imm true true false (onParts w fun a b _ =>
    fround ar (FltTy.ff t) (scaleVal (sextNat b w) (fread ar t a))))

def execFround (t : FltTy) (o : SOp) (s : State) : Res :=
  .next (s.fltForm t o false false fun x _ _ => (integral o.rnd x, false))

/-! ## Conversion (R163) -/

/-- The kind of a format. -/
def Fmt.int? : Fmt → Option IntTy
  | .i8 => some .i8 | .i16 => some .i16 | .i32 => some .i32 | .n8 => some .n8 | .n16 => some .n16 | .n32 => some .n32
  | _ => none
def Fmt.ff : Fmt → FF
  | .f16 => .f16 | .bf16 => .bf16 | .e4m3 => .e4m3 | .e5m2 => .e5m2 | .e2m1 => .e2m1 | _ => .f32

/-- The immediate as format S reads it (R97, R163). -/
def immFmt (f : Fmt) (imm : BitVec 16) : LaneWord :=
  match f with
  | .i8 | .n8 | .e4m3 | .e5m2 | .e2m1 => BitVec.ofNat 32 (imm.toNat % 256)
  | .i16 | .n16 | .f16 | .bf16 | .n32 => imm.setWidth 32
  | .i32 => imm.signExtend 32
  | .f32 => (imm.setWidth 32) <<< 16

/-- The value of a lane as format S, and whether decoding it is a new source of poison (R47). -/
def cvtRead (ar : Arith) (f : Fmt) (v : LaneWord) : Val × Bool :=
  match Fmt.int? f with
  | some t => (ofInt (intVal t v.toNat) 0 false, false)
  | none => match f with
    | .e2m1 => e2m1Val ar.spare (v.toNat % 16)
    | _ =>
      let ff := Fmt.ff f
      (ff.val (ff.flushed ar.flush (v.toNat % 2 ^ ff.width)), false)

/-- The value written as format D (R49, R163). -/
def cvtWrite (ar : Arith) (d s : Fmt) (x : Val) : LaneWord × Bool :=
  match Fmt.int? d with
  | some t =>
    let ext (y : Int) : LaneWord := BitVec.ofInt 32 (intVal t (wrapNat y (IntTy.bits t)))
    match x with
    | .nan => (0, true)
    | .inf n => (ext (if n then IntTy.lo t else IntTy.hi t), true)
    | .fin n m e =>
      if (Fmt.int? s).isSome then (ext (fit t ar.sat (toInt .rtz n m e) : Nat), false)
      else
        let v := toInt ar.rnd n m e
        let c := clampInt (IntTy.lo t) (IntTy.hi t) v
        (ext c, c != v && ar.rnd == .rne && !ar.sat)
  | none =>
    let c := fround ar (Fmt.ff d) x
    (BitVec.ofNat 32 c.c, c.p)

def execCvt (d f : Fmt) (o : SOp) (s : State) : Res :=
  let ar := s.arith o
  .next (s.lanewise o (immFmt f o.imm) true false false fun a _ _ =>
    let x := cvtRead ar f a
    let r := cvtWrite ar d f x.1
    (r.1, r.2 || x.2))

/-! ## Narrow formats (R164 to R168) -/

/-- The element codes of a block placed into its lanes (R165): `w` bits an element. -/
def packElems (w : Nat) (es : List Nat) : List LaneWord :=
  let n := 32 / w
  (List.range (ceilDiv es.length n)).map fun m => ofParts w (slice es (n * m) n)

def MxTy.width : MxTy → Nat
  | .mxf4 => 4
  | _ => 8
/-- Lanes of elements a block takes (R165). -/
def MxTy.lanes : MxTy → Nat
  | .mxf4 => 4
  | _ => 8

/-- The lanes of `mxq`'s source at a beat: the block that the beat ends (R165). -/
def blockLanes (b : Nat) : List Nat := if b % 4 = 3 then (List.range 32).map (32 * (b / 4) + ·) else []

def State.mxqReads (s : State) : Reads := { s.maskReads with a := blockLanes s.fl.beat }

/-- `mxq` writes block j when the beat that covers lane 32j + 31 executes (R165). An immediate reads as for f32: log entry
63. -/
def execMxq (f : MxTy) (o : SOp) (s : State) : Res :=
  let j := s.fl.beat / 4
  match s.readFault o s.mxqReads with
  | some c => .next (s.trapB c)
  | none =>
    if s.fl.beat % 4 ≠ 3 then .next (s.writeDst o [])
    else
      let ar := s.arith o
      let ls := (blockLanes s.fl.beat).map (s.laneA o (immFlt .f32 o.imm))
      let q := mxQuant f o.rnd (ls.map fun l => fread ar .f32 l.v.toNat)
      let n := MxTy.lanes f
      let out := (packElems (MxTy.width f) q.2.1).mapIdx fun m v => (n * j + m, mkLane v ls q.2.2 s.idx)
      .next ((s.writeDst o out).writeNext o [(j, mkLane (BitVec.ofNat 32 q.1) ls q.2.2 s.idx)])

/-- The lane of a that holds element i mod 32 of block i / 32 (R165, R166). -/
def elemLane (f : MxTy) (i : Nat) : Nat := MxTy.lanes f * (i / 32) + (i % 32) / (32 / MxTy.width f)

/-- `mxdq` reads the lanes that hold its elements, and the scale in lane j of a + 1 (R166). -/
def State.mxdqReads (s : State) (f : MxTy) (o : SOp) : Reads :=
  let en := s.enabled o
  { s.maskReads with
    a := (en.map (elemLane f)).eraseDups
    more := if en.isEmpty then [] else ((srcNextOf s o.a).map fun c =>
      EccAt.reg s.ctx.elem (regKey s.ctx.slot c (s.fl.beat / 4))).toList }

/-- `mxdq`: element i of block j times 2^(code − 127) (R166). -/
def execMxdq (f : MxTy) (o : SOp) (s : State) : Res :=
  let en := s.enabled o
  let j := s.fl.beat / 4
  let n := 32 / MxTy.width f
  match s.readFault o (s.mxdqReads f o) with
  | some c => .next (s.trapB c)
  | none =>
    let ar := s.arith o
    let sc : Lane := match srcNextOf s o.a with
      | some c => s.regLane s.ctx.elem s.key c j
      | none => {}
    let code := field sc.v 7 0
    .next (s.finishBeat o (en.map fun i =>
      let m := elemLane f i
      let l := s.laneA o 0 m
      let reads := if j < m then [sc, l] else [l, sc]
      let x := mxElemVal f ar.spare (part l.v (MxTy.width f) ((i % 32) % n))
      if code = 255 then (i, mkLane (BitVec.ofNat 32 FF.f32.nan) reads true s.idx)
      else
        let c := fround ar .f32 (scaleVal ((code : Int) - 127) x.1)
        (i, mkLane (BitVec.ofNat 32 c.c) reads (c.p || x.2) s.idx)))

/-- Bit i of every weight's bit `j`, as one plane word (R56). -/
def planeOf (ws : List Nat) (j : Nat) : Nat := sumNat (ws.mapIdx fun i w => (w / 2 ^ j % 2) * 2 ^ i)

/-- The bytes of a beat's eight lanes, weight 4m + n in byte n of lane m. -/
def bytesOfLanes (ls : List Lane) : List Nat := ls.flatMap fun l => (List.range 4).map (part l.v 8)

/-- A beat that reads every lane of source A that it covers, or the first k of them. -/
def State.coverReads (s : State) (k : Nat) : Reads := { s.maskReads with a := (beatLanes s.fl.beat).take k }

/-- `bpsplit` (R167). An immediate reads as for i32: log entry 63. -/
def execBpsplit (o : SOp) (s : State) : Res :=
  let lanes := beatLanes s.fl.beat
  match s.readFault o (s.coverReads 8) with
  | some c => .next (s.trapB c)
  | none =>
    let ls := lanes.map (s.laneA o (immInt .i32 o.imm))
    let ws := bytesOfLanes ls
    .next (s.finishBeat o (lanes.mapIdx fun m i =>
      (i, mkLane (BitVec.ofNat 32 (planeOf ws (7 - m))) ls false s.idx)))

/-- `bpjoin` (R167). -/
def execBpjoin (o : SOp) (s : State) : Res :=
  let k := field o.imm 2 0 + 2
  let lanes := beatLanes s.fl.beat
  let src := lanes.take k
  match s.readFault o (s.coverReads k) with
  | some c => .next (s.trapB c)
  | none =>
    let ls := src.map (s.laneA o 0)
    let w (i : Nat) : Nat := sumNat (ls.mapIdx fun t l => (l.v.toNat / 2 ^ i % 2) * 2 ^ (7 - t))
    let vals := (List.range 32).map fun i => wrapNat (bprecon (w i) k) 8
    .next (s.finishBeat o (lanes.mapIdx fun m i => (i, mkLane (ofParts 8 (slice vals (4 * m) 4)) ls false s.idx)))

/-- `pack` (R168): whole lanes narrowed into parts. -/
def packLane (t : PackTy) (ar : Arith) (a b : LaneWord) : LaneWord × Bool :=
  let int2 (d s : IntTy) : LaneWord × Bool :=
    (ofParts 16 [fit d ar.sat (intVal s a.toNat), fit d ar.sat (intVal s b.toNat)], false)
  let int4 (d s : IntTy) : LaneWord × Bool :=
    (ofParts 8 ([part a 16 0, part a 16 1, part b 16 0, part b 16 1].map fun x => fit d ar.sat (intVal s x)), false)
  let flt (f : FF) : LaneWord × Bool :=
    let x := fround ar f (fread ar .f32 a.toNat)
    let y := fround ar f (fread ar .f32 b.toNat)
    (ofParts 16 [x.c, y.c], x.p || y.p)
  match t with
  | .i16 => int2 .i16 .i32
  | .n16 => int2 .n16 .n32
  | .i8 => int4 .i8 .i16
  | .n8 => int4 .n8 .n16
  | .f16 => flt .f16
  | .bf16 => flt .bf16

/-- The immediate of `pack` reads as the form's source type (R97, R168): log entry 63. -/
def immPack (t : PackTy) (imm : BitVec 16) : LaneWord :=
  match t with
  | .i16 => immInt .i32 imm
  | .n16 => immInt .n32 imm
  | .i8 | .n8 => immInt .i16 imm
  | .f16 | .bf16 => immFlt .f32 imm

def execPack (t : PackTy) (o : SOp) (s : State) : Res :=
  let ar := s.arith o
  .next (s.lanewise o (immPack t o.imm) true true false fun a b _ => packLane t ar a b)

/-- `unpack` (R168): a part widened exactly, h = IMM[0]. -/
def unpackLane (t : PackTy) (ar : Arith) (h : Nat) (a : LaneWord) : LaneWord :=
  let flt (u : FltTy) : LaneWord := BitVec.ofNat 32 (fround ar .f32 (fread ar u (part a 16 h))).c
  let wide (u : IntTy) : LaneWord := ofParts 16 ((List.range 2).map fun p => wrapNat (intVal u (part a 8 (2 * h + p))) 16)
  match t with
  | .i16 => BitVec.ofInt 32 (intVal .i16 (part a 16 h))
  | .n16 => BitVec.ofNat 32 (part a 16 h)
  | .i8 => wide .i8
  | .n8 => wide .n8
  | .f16 => flt .f16
  | .bf16 => flt .bf16

def execUnpack (t : PackTy) (o : SOp) (s : State) : Res :=
  let ar := s.arith o
  .next (s.lanewise o 0 true false false fun a _ _ => (unpackLane t ar (field o.imm 0 0) a, false))

/-! ## Tables (R174, R175) -/

/-- Whether the element under way is a LUT element: element 15 of its cluster. -/
def State.isLut (s : State) : Bool := s.ctx.elem % 16 == 15

/-- s × x + c of an entry, rounded once (R175): c exactly when s is a zero. -/
def lutValue (ar : Arith) (entry : BitVec 64) (x : Val) : Coded :=
  let sc := field entry 31 0
  let cc := field entry 63 32
  if isNan x then ⟨FF.f32.nan, false⟩
  else if sc % 2 ^ 31 = 0 then fround ar .f32 (FF.f32.val cc)
  else
    let r := fmaVal (FF.f32.val sc) x (FF.f32.val cc)
    let c := fround ar .f32 r.1
    ⟨c.c, c.p || r.2⟩

/-- The segment of `lut`: clamp(floor(32 × x) + 128, 0, 255) (R175). -/
def lutSegment (x : Val) : Nat :=
  match x with
  | .nan => 0
  | .inf n => if n then 0 else 255
  | .fin n m e => (clampInt 0 255 (floorInt n m (e + 5) + 128)).toNat

/-- A table form: `index` gives the entry from the flushed code of x and from b. -/
def State.tableForm (s : State) (o : SOp) (readB : Bool) (index : Nat → LaneWord → Nat) (arg : Val → Val) : State :=
  if !s.isLut then s
  else
    let en := s.enabled o
    let ar := s.arith o
    let table := if s.oldPlane then s.el.oldLut else s.el.lut
    let code (i : Nat) : Nat := FF.f32.flushed ar.flush (s.laneA o 0 i).v.toNat
    let entryOf (i : Nat) : Nat := 256 * field o.imm 1 0 + index (code i) (s.laneB o 0 i).v
    match s.readFault o (s.laneReads o readB false) with
    | some c => s.trapB c
    | none =>
      if en.any fun i => s.eccBad (.lut s.ctx.elem (entryOf i)) then s.trapB 54
      else s.finishBeat o (en.map fun i =>
        let a := s.laneA o 0 i
        let b := s.laneB o 0 i
        let r := lutValue ar (look 0 table (entryOf i)) (arg (FF.f32.val (code i)))
        (i, mkLane (BitVec.ofNat 32 r.c) (if readB then [a, b] else [a]) r.p s.idx))

def execLut (o : SOp) (s : State) : Res :=
  .next (s.tableForm o false (fun c _ => lutSegment (FF.f32.val c)) id)
def execLutr (o : SOp) (s : State) : Res :=
  .next (s.tableForm o false (fun c _ => FF.f32.efield c) absVal)
def execLutc (o : SOp) (s : State) : Res :=
  .next (s.tableForm o true (fun _ b => field b 7 0) id)

end Sys2Proof.Machine
end

