-- ==== Sys2Proof/Machine/FabLane.lean ====
section
/-! DEFINITION. Major 12: lane operations (09 R169 to R173), and the counter updates that leave an element (12 R249). -/

namespace Sys2Proof.Machine

/-- Every lane that a lane operation may need, read when its first beat executes and kept for the later ones (R169). -/
def State.snapshot (s : State) (o : SOp) (imm : LaneWord) : Scratch :=
  if s.fl.beat = 0 then
    let ls := List.range (width o)
    { a := ls.map fun i => (i, s.laneA o imm i), b := ls.map fun i => (i, s.laneB o imm i), t0 := s.cycle }
  else look {} s.el.scratch s.ctx.slot

/-- What a lane operation reads (R133, R144, R169): lanes of its sources at the first beat, and masks at every beat. -/
def State.firstReads (s : State) (a b : List Nat) (more : List EccAt) : Reads :=
  if s.fl.beat = 0 then { s.maskReads with a := a, b := b, more := more } else { s.maskReads with tagged := false, more := more }

/-- The snapshot kept, with this beat's mask bits and head bits added (R171, R172). -/
def State.keepScratch (s : State) (o : SOp) (c : Scratch) (head : BitVec 64) : Scratch × State :=
  let lanes := laneMask (beatLanes s.fl.beat)
  let c := { c with en := c.en ||| (s.predMask o &&& lanes), head := c.head ||| (head &&& lanes) }
  (c, s.modEl fun e => { e with scratch := put e.scratch s.ctx.slot c })

/-- A form that writes lanes 8b to 8b + 7 at beat b from the snapshot (R169). -/
def State.laneMove (s : State) (o : SOp) (imm : LaneWord) (r : Reads) (f : Scratch → Nat → LaneWord × List Lane) : State :=
  match s.readFault o r with
  | some c => s.trapB c
  | none =>
    let en := s.enabled o
    let c := s.snapshot o imm
    let (c, s) := s.keepScratch o c 0
    s.finishBeat o (en.map fun i =>
      let r := f c i
      (i, mkLane r.1 r.2 false s.idx))

/-- `perm` reads every index, and the lanes of a that they name (R170). -/
def State.permReads (s : State) (o : SOp) : Reads :=
  let js := (List.range (width o)).map fun i => field (s.laneB o (immInt .n32 o.imm) i).v 5 0
  s.firstReads (js.filter fun j => decide (j < width o)) (List.range (width o)) []

/-- `perm` (R170): lane j := b[i][5:0] when j < W, else 0; an immediate index carries no poison. Of a[j] and b[i], the
lower lane's origin is kept (R146), and a's where i = j: log entry 63. -/
def execPerm (o : SOp) (s : State) : Res :=
  .next (s.laneMove o (immInt .n32 o.imm) (s.permReads o) fun c i =>
    let x := look {} c.b i
    let j := field x.v 5 0
    let a := look {} c.a j
    if j < width o then (a.v, if j ≤ i then [a, x] else [x, a]) else (0, [x]))

def State.bcastReads (s : State) (o : SOp) : Reads := s.firstReads [field o.imm 5 0] [] []

/-- `bcast` (R170): lane IMM[5:0] to every lane. -/
def execBcast (o : SOp) (s : State) : Res :=
  .next (s.laneMove o 0 (s.bcastReads o) fun c _ => let x := look {} c.a (field o.imm 5 0); (x.v, [x]))

/-- The lane of a that lane i of `lsh` takes, if it lies in the word (R170). -/
def lshFrom (o : SOp) (i : Nat) : Option Nat :=
  let j : Int := (i : Int) - sextNat (field o.imm 6 0) 7
  if 0 ≤ j ∧ j < (width o : Int) then some j.toNat else none

def State.lshReads (s : State) (o : SOp) : Reads :=
  let is := List.range (width o)
  s.firstReads (is.filterMap (lshFrom o)) (is.filter fun i => (lshFrom o i).isNone) []

/-- `lsh` (R170): a[i − s] where it lies in the word, else b[i]. -/
def execLsh (o : SOp) (s : State) : Res :=
  .next (s.laneMove o 0 (s.lshReads o) fun c i =>
    let x := match lshFrom o i with | some j => look {} c.a j | none => look {} c.b i
    (x.v, [x]))

/-- A form that writes every result lane at the end of the word's last beat (R169). `f` gives, from the enabled lanes
and the head bits, the result lanes. -/
def State.laneReduce (s : State) (o : SOp) (r : Reads) (head : BitVec 64) (f : Scratch → List Nat → List (Nat × Lane)) : State :=
  match s.readFault o r with
  | some c => s.trapB c
  | none =>
    let c := s.snapshot o 0
    let (c, s) := s.keepScratch o c head
    if s.lastBeat o then
      s.finishBeat o (f c ((List.range (width o)).filter fun i => c.en.getLsbD i))
    else s

/-- One f32 addition of a reduction: the code and whether it formed a new poison (R50, R171). -/
def addF32 (ar : Arith) (x y : Nat) : Coded :=
  let r := addVal (fread ar .f32 x) (fread ar .f32 y)
  let c := fround ar .f32 r.1
  ⟨c.c, c.p || r.2⟩

def sumF32 (ar : Arith) (s : Coded) (l : Lane) : Coded :=
  let r := addF32 ar s.c l.v.toNat
  ⟨r.c, s.p || r.p⟩

/-- A reduction reads every lane of a (R169, R171). -/
def State.allReads (s : State) (o : SOp) : Reads := s.firstReads (List.range (width o)) [] []

/-- `rsum` (R171): the exact sum, or additions in lane order with one rounding each. -/
def execRsum (t : RedTy) (o : SOp) (s : State) : Res :=
  let ar := s.arith o
  .next (s.laneReduce o (s.allReads o) 0 fun c en =>
    let ls := en.map (look {} c.a)
    let r : Coded := match t with
      | .i32 => ⟨fit .i32 o.sat (ls.foldl (fun a l => a + l.v.toInt) 0), false⟩
      | .f32 => match ls with
        | [] => ⟨0, false⟩
        | l :: ls => ls.foldl (sumF32 ar) ⟨(fround ar .f32 (fread ar .f32 l.v.toNat)).c, false⟩
    en.map fun i => (i, mkLane (BitVec.ofNat 32 r.c) ls r.p s.idx))

/-- `rmax` (R171). -/
def execRmax (t : MaxTy) (o : SOp) (s : State) : Res :=
  let ar := s.arith o
  .next (s.laneReduce o (s.allReads o) 0 fun c en =>
    let ls := en.map (look {} c.a)
    let v : LaneWord := match ls with
      | [] => 0
      | l :: ls => match t with
        | .i32 => ls.foldl (fun a x => if a.slt x.v then x.v else a) l.v
        | .n32 => ls.foldl (fun a x => if a.ult x.v then x.v else a) l.v
        | .f32 => BitVec.ofNat 32
          (fround ar .f32 (ls.foldl (fun a x => maxVal a (fread ar .f32 x.v.toNat)) (fread ar .f32 l.v.toNat))).c
    en.map fun i => (i, mkLane v ls false s.idx))

/-- One lane of a scan (R172): the running sum, its new poison, the lanes of the segment so far, and the results. -/
def scanStep (t : RedTy) (ar : Arith) (sat excl : Bool) (me : Nat) (head : BitVec 64) (a : Map Lane)
    (acc : Coded × List Lane × Bool × List (Nat × Lane)) (e : Nat) : Coded × List Lane × Bool × List (Nat × Lane) :=
  let (sum, seg, first, out) := acc
  let begins := first || head.getLsbD e
  let sum : Coded := if begins then ⟨0, false⟩ else sum
  let seg := if begins then [] else seg
  let x := look {} a e
  let next : Coded := match t with
    | .i32 => ⟨fit .i32 sat ((BitVec.ofNat 32 sum.c).toInt + x.v.toInt), false⟩
    | .f32 => sumF32 ar sum x
  let res := if excl then mkLane (BitVec.ofNat 32 sum.c) seg sum.p me
             else mkLane (BitVec.ofNat 32 next.c) (seg ++ [x]) next.p me
  (next, seg ++ [x], false, out ++ [(e, res)])

/-- `segscan` reads its head mask beside the PRED mask (R172). -/
def State.scanReads (s : State) (o : SOp) : Reads :=
  s.firstReads (List.range (width o)) [] (maskEcc s.ctx.elem (field o.imm 2 0) (beatLanes s.fl.beat))

/-- `segscan` (R172): IMM[2:0] the head mask, IMM[3] the exclusive scan. -/
def execSegscan (t : RedTy) (o : SOp) (s : State) : Res :=
  let ar := s.arith o
  let h := s.maskOf s.ctx.elem (field o.imm 2 0)
  .next (s.laneReduce o (s.scanReads o) h fun c en =>
    (en.foldl (scanStep t ar o.sat (bitAt o.imm 3) s.idx c.head c.a) (⟨0, false⟩, [], true, [])).2.2.2)

/-- A stable insertion by unsigned key. -/
def insertKey (p : Lane × Lane) : List (Lane × Lane) → List (Lane × Lane)
  | [] => [p]
  | q :: qs => if p.1.v.ult q.1.v then p :: q :: qs else q :: insertKey p qs

/-- The pairs sorted stably by key (R173). -/
def sortKeys (ps : List (Lane × Lane)) : List (Lane × Lane) := ps.foldl (fun acc p => insertKey p acc) []

/-- A counter update sent to a home slice's counter unit (R249): (count word, increment) pairs. -/
def State.sendUpdate (s : State) (region launch slice at_ : Nat) (adds : List (Nat × Nat)) : State :=
  let (id, s) := s.nextSerial
  let u : CountUpd := { id := id, launch := launch, region := region, slot := s.key, slice := slice, adds := adds, due := at_, edge := s.fl.edge }
  ({ s with upds := s.upds ++ [u] } : State).dueOp at_ 112 none (.counterUpdate id)

/-- Counts of each key below 512 among unpoisoned keys, as word 0 of its expert block (R173, R248). -/
def tokenCounts (keys : List Lane) : List (Nat × Nat) :=
  let vs := (keys.filter fun l => !l.p && decide (l.v.toNat < 512)).map (·.v.toNat)
  vs.eraseDups.map fun v => (8 * v, vs.count v)

def State.grpReads (s : State) (o : SOp) : Reads := s.firstReads (List.range (width o)) (List.range (width o)) []

/-- `grp` (R173): payloads to d and keys to d + 1, sorted stably; with `cnt` the tokens are counted. -/
def execGrp (o : SOp) (s : State) : Res :=
  match s.readFault o (s.grpReads o) with
  | some c => .next (s.trapB c)
  | none =>
    let c := s.snapshot o 0
    let (c, s) := s.keepScratch o c 0
    if !s.lastBeat o then .next s
    else
      let en := (List.range (width o)).filter fun i => c.en.getLsbD i
      let keys := en.map (look {} c.a)
      let bad := keys.filter (·.p)
      let cnt := bitAt o.imm 0
      if cnt && !bad.isEmpty && fmtSinkTrap s.fl.fmt then .next (s.trapB 48)
      else
        let ps := sortKeys (en.map fun i => (look {} c.a i, look {} c.b i))
        let pick (i : Nat) : Lane × Lane := (ps[i]?).getD ({}, {})
        let out := en.mapIdx fun j i => (i, mkLane (pick j).2.v [(pick j).1, (pick j).2] false s.idx)
        let outK := en.mapIdx fun j i => (i, mkLane (pick j).1.v [(pick j).1, (pick j).2] false s.idx)
        let s := (s.writeDst o out).writeNext o outK
        if cnt then
          let s := s.recordSinks s.key bad s.idx 0 0
          let slice := homeSlice s.ctx.region (field o.imm 2 1)
          .next (s.sendUpdate s.ctx.region s.fl.launch slice (s.cycle + Config.counterDelay s.idx slice) (tokenCounts keys))
        else .next s

end Sys2Proof.Machine
end

