-- ==== Sys2Proof/Machine/Packet.lean ====
section
/-! DEFINITION. The fields of transfer request packets and their extensions (06 R104, R105). -/

namespace Sys2Proof.Machine

def pktOp (p : BitVec 128) : Nat := field p 127 124
def pktHandle (p : BitVec 128) : Nat := field p 123 118
def pktRvp (p : BitVec 128) : Nat := field p 117 113
def pktDir (p : BitVec 128) : Bool := bitAt p 112
def pktSite (p : BitVec 128) : Bool := bitAt p 111
def pktLoff (p : BitVec 128) : Nat := field p 110 87
def pktLen (p : BitVec 128) : Nat := field p 86 72 + 1
def pktSpace (p : BitVec 128) : Nat := field p 71 64
def pktVa (p : BitVec 128) : Nat := field p 63 0
def extStride (x : BitVec 128) : Int := sextNat (field x 123 100) 24
def extCount (x : BitVec 128) : Nat := field x 99 84 + 1
def extExpert (x : BitVec 128) : Nat := field x 83 75
def extPlanes (x : BitVec 128) : Nat := field x 74 72
def extDeadline (x : BitVec 128) : Nat := field x 71 60

end Sys2Proof.Machine
end

