-- ==== Sys2Proof/Machine/Sites.lean ====
section
/-! DEFINITION. Site buffers (11 R208 to R213, R221 to R225): shares and cursors, bank time, line tags, dirty bytes, watch
sets, stores that merge into every copy of a slip group, and the site fault record. -/

namespace Sys2Proof.Machine

/-- The quantities of R208 for a site at an element. -/
structure Share where
  nb : Nat
  pos : Nat
  lw : Nat
  le : Nat
  se : Nat
  off : Nat
deriving DecidableEq, Repr

def shareOf (x : Site) (elem : Nat) : Share :=
  let nb := popCount x.banks.toNat 16
  let pos := popCount (x.banks.toNat % 2 ^ (elem % 16)) 16
  let lw := (x.lrows + 1) * (x.lcols + 1)
  let le := if x.lines ≤ pos then 0 else ceilDiv (x.lines - pos) nb
  { nb := nb, pos := pos, lw := lw, le := le, se := le * lw, off := x.boff * 256 }

def siteBytes (x : Site) : Nat := (x.lrows + 1) * (x.lcols + 1) * 4 * x.lines

/-- The cursor C (R209): a word offset in the share. -/
def cursor (x : Site) (h : Share) (ctr2 : BitVec 32) (ctr3 : BitVec 24) : Nat :=
  if h.se = 0 then 0
  else if x.fill = 1 then ((((ctr3.toNat : Int) * x.stride + (ctr2.toNat * h.lw : Nat)) % (h.se : Int)).toNat)
  else ctr2.toNat * h.lw % h.se

/-- The element of the cluster and the share byte that a byte offset into the whole buffer names (R208). -/
def siteAt (x : Site) (cluster off : Nat) : Nat × Nat :=
  let lb := 4 * (x.lrows + 1) * (x.lcols + 1)
  let n := off / lb
  let es := (List.range 16).filter fun e => x.banks.getLsbD e
  let nb := es.length
  (16 * cluster + (es[n % nb]?).getD 0, n / nb * lb + off % lb)

def bankByte (e : Elem) (a : Nat) : Byte := look 0 e.bank a
def bankWord (e : Elem) (a n : Nat) : Nat := natOfBytes ((List.range n).map fun i => bankByte e (a + i))
def Elem.putBank (e : Elem) (a : Nat) (b : Byte) : Elem := { e with bank := put e.bank a b }

/-- Key of a site line, of a granule of it, and of a dirty share byte. -/
def lineKey (site j : Nat) : Nat := 4096 * site + j
def granKey (site j g : Nat) : Nat := 256 * lineKey site j + g
def dirtyKey (site b : Nat) : Nat := 65536 * site + b

/-- The tag of the granule that holds share byte b (R221). -/
def Elem.tagAt (e : Elem) (site lw b : Nat) : Option GTag :=
  (e.tags.find? (fun x => x.1 == granKey site (b / (4 * lw)) (b % (4 * lw) / 64))).map (·.2)

/-! ## Drops at a fenced cluster -/

/-- A drop counted at a seam of a fenced cluster (R332, R333). -/
def dropWordAt (w : Word) (seam : Nat) : Word :=
  let lo := 48 - 16 * (seam % 4)
  putField w (lo + 15) lo (stopAt 65535 (field w (lo + 15) lo + 1))

def State.countDrop (s : State) (cl seam : Nat) : State := s.modCluster cl fun c => { c with fence1 := dropWordAt c.fence1 seam }

/-! ## Bank time (R211 to R213) -/

/-- The bank's element, and the byte of the bank, that a byte of a site's buffer stands at, for a slot's launch. -/
def State.seqPlace (s : State) (key gen site off : Nat) : Nat × Nat :=
  let l := s.launch (s.slot key).launch
  let c := s.copy l.region gen
  let x : Site := look {} c.sites site
  let (e, b) := siteAt x (pageCluster l c x.page) off
  (e, 256 * x.boff + b)

/-- The generation of a slot's active plane. -/
def State.genOf (s : State) (key : Nat) : Nat := (s.launch (s.slot key).launch).gen

/-- A sequencer access that reached a bank by this cycle, before those that `last` bounds, still waits there (R213). -/
def State.seqOlder (s : State) (elem last : Nat) : Bool :=
  s.agenda.any fun d => decide (d.at_ ≤ s.cycle) && match d.act with
    | .inr (.seqLoad k _ _ n o l) => decide (l < last) && (s.seqPlace k (s.genOf k) n o).1 == elem
    | .inr (.seqStore k g n o _ _ l _) => decide (l < last) && (s.seqPlace k g n o).1 == elem
    | .inr (.patchWord k _ j _ n o l _) => decide (l < last) && (s.seqPlace k (s.genOf k) n (o + 8 * j)).1 == elem
    | _ => false

/-- A sequencer access waits at a bank. -/
def State.seqWaits (s : State) (elem : Nat) : Bool := s.seqOlder elem (s.cycle + 16)

/-- The site of a request, and the element and the share byte of unit u of it (R208, R243). -/
def State.reqSite (s : State) (q : Req) : Site := look {} (s.copy q.region q.gen).sites (field q.pkt 110 103)
def State.siteUnit (s : State) (q : Req) (u : Nat) : Nat × Nat :=
  let x := s.reqSite q
  siteAt x (pageCluster (s.launch q.launch) (s.copy q.region q.gen) x.page) (64 * (field q.pkt 102 87 + u))

/-- A transfer unit waits at a bank for this cycle's entry (R211). -/
def State.unitWaits (s : State) (elem : Nat) : Bool :=
  s.agenda.any fun d => decide (d.at_ ≤ s.cycle) && match d.act with
    | .inl (.transferUnitLand id u _) =>
      s.reqs.any fun q => q.id == id && q.st == .running && pktSite q.pkt && !q.done.contains u && (s.siteUnit q u).1 == elem
    | _ => false

/-- The slot table by which a word of a plane meets its bank: the old plane's own until its release (R131, R212). -/
def Elem.tableOf (e : Elem) (old : Bool) : Map Nat := if old then e.oldTable else e.slotTable

/-- The physical entry and its class at a bank on a cycle (R211). -/
def State.bankEntry (s : State) (elem now : Nat) (old : Bool) : Nat × Nat :=
  let k := elemCol elem
  let slot := ((now : Int) - k) % 8 |>.toNat
  let sl := s.slot (slotKey (elemRegion elem) slot)
  let start := sl.start.getD now
  let h := ((now : Int) - k - start) / 8 % 2 |>.toNat
  let phys := 8 * h + slot
  if sl.bound && (s.cluster (elem / 16)).launch == some sl.launch then (phys, look 1 ((s.elem elem).tableOf old) (8 * h + sl.rank))
  else (phys, 4)

/-- Whether background traffic of a kind may use the bank now (R211): `copy` for copy traffic, else the address
generator, which goes behind copy traffic that waits for a SPARE entry. A LANE or FEED entry serves it as SPARE when no lane
word used the bank on this cycle. -/
def State.bankFree (s : State) (elem : Nat) (copy : Bool) : Bool :=
  let e := s.elem elem
  let c := (s.bankEntry elem s.cycle false).2
  e.otherUse != some s.cycle && e.laneUse != some s.cycle &&
    (if copy then c == 3 || c == 4 || c ≤ 1 else c == 2 || ((c == 4 || c ≤ 1) && !s.seqWaits elem && !s.unitWaits elem))

/-- `SLOT.SITEERR` after a fault: the first since the last clear (R225). -/
def siteErrWord (old : Word) (sitea siteb elem kind entry cls req chan slice : Nat) : Word :=
  if bitAt old 0 then old
  else BitVec.ofNat 64 (sitea % 256 * 2 ^ 56 + siteb % 256 * 2 ^ 48 + elem % 512 * 2 ^ 39 + kind % 8 * 2 ^ 36
    + entry % 16 * 2 ^ 32 + cls % 8 * 2 ^ 29 + req % 8 * 2 ^ 26 + chan % 256 * 2 ^ 18 + slice % 256 * 2 ^ 10 + 1)

def State.siteErr (s : State) (key sitea siteb elem kind entry cls req chan slice : Nat) : State :=
  s.modSlot key fun sl => { sl with siteerr := siteErrWord sl.siteerr sitea siteb elem kind entry cls req chan slice }

/-! ## Tags, watch sets and stamps (R210, R222, R224) -/

/-- The granules of the line of site `n` at line j, with their tags. -/
def Elem.lineTags (e : Elem) (site j : Nat) : List (Nat × GTag) :=
  e.tags.filter fun x => x.1 / 256 == lineKey site j

/-- The stamps of a granule freed when they name the launch and the site (R210, R224). -/
def unstamp (launch site : Nat) (tag : GTag) (m : Map Stamp) : Map Stamp :=
  if tag.space ≠ 0 then m
  else m.filter fun x => !(x.1 == tag.off / 64 && x.2.launch == launch && x.2.site == site)

/-- A line's tag cleared, with its watch and stamp entries (R210, R235). -/
def State.clearTag (s : State) (launch elem site j slip : Nat) : State :=
  let ts := ((s.elem elem).lineTags site j).map (·.2)
  let s := s.modElem elem fun e => { e with tags := e.tags.filter fun x => x.1 / 256 != lineKey site j }
  let s := s.modLaunch launch fun l =>
    { l with watches := put l.watches slip (ts.foldl (fun w t => unwatch (elem * 256 + site, j) t w) (look [] l.watches slip)) }
  { s with stamps := ts.foldl (fun m t => unstamp launch site t m) s.stamps }

/-- The granules entered in a watch set (R222); none when a granule has no entry and all 32 are taken. -/
def watchAll (member : Nat × Nat) : List GTag → List Watch → Option (List Watch)
  | [], l => some l
  | t :: ts, l =>
    if l.any (·.tag = t) then
      watchAll member ts (l.map fun w => if w.tag = t ∧ !w.members.contains member then { w with members := member :: w.members } else w)
    else if 32 ≤ l.length then none
    else watchAll member ts (l ++ [{ tag := t, members := [member] }])

/-- The dirty bytes of a line: (offset in the line, byte). -/
def Elem.dirtyOf (e : Elem) (x : Share) (site j : Nat) : Map Byte :=
  (List.range (4 * x.lw)).filterMap fun i =>
    if look false e.dirty (dirtyKey site (4 * x.lw * j + i)) then some (i, bankByte e (x.off + 4 * x.lw * j + i)) else none

/-- The line's dirty mask cleared, on the bytes of the list. -/
def Elem.cleanLine (e : Elem) (x : Share) (site j : Nat) : Elem :=
  { e with dirty := e.dirty.filter fun d => !(d.1 / 65536 == site && d.1 % 65536 / (4 * x.lw) == j) }

/-- The tags of a site's lines released when a lifetime ends (R210): unread dirty bytes of FILL 2, 3 and 4 sites are
lost to memory. -/
def State.endLife (s : State) (launch page n : Nat) (x : Site) : State :=
  let es := ((List.range 16).filter fun e => x.banks.getLsbD e).map (16 * page + ·)
  es.foldl (fun s e =>
    let js := (((s.elem e).tags.filter fun t => t.1 / 256 / 4096 == n).map fun t => t.1 / 256 % 4096).eraseDups
    let s := js.foldl (fun s j => s.clearTag launch e n j x.slip) s
    if 2 ≤ x.fill then s.modElem e fun el => { el with dirty := el.dirty.filter fun d => d.1 / 65536 != n } else s) s

/-! ## Stores (R215, R223) -/

/-- Bytes stored at an element in the storing site's copy, dirty there when the site fills from memory (R223, R269). -/
def Elem.storeBytes (e : Elem) (site fill off : Nat) (bs : List (Nat × Byte)) : Elem :=
  let e := { e with bank := putAll e.bank (bs.map fun b => (off + b.1, b.2)) }
  if 2 ≤ fill then { e with dirty := putAll e.dirty (bs.map fun b => (dirtyKey site b.1, true)) } else e

/-- The merge of a slip-group or windowed store at the end of t + 8 (R223): the storer's own copy, and every member
copy whose line holds the granule. -/
def State.merge (s : State) (elem gen site : Nat) (bs : List (Nat × Option GTag × Byte)) : State :=
  let c := s.copy (elemRegion elem) gen
  let x := look {} c.sites site
  let h := shareOf x elem
  let s := s.modElem elem fun e => e.storeBytes site x.fill h.off (bs.map fun b => (b.1, b.2.2))
  if x.slip = 0 then s
  else
    let ms := c.sites.filter fun m => m.2.slip == x.slip
    ms.foldl (fun s m =>
      let es := ((List.range 16).filter fun e => m.2.banks.getLsbD e).map (16 * (elem / 16) + ·)
      es.foldl (fun s e => s.modElem e fun el =>
        let hm := shareOf m.2 e
        bs.foldl (fun el b => match b.2.1 with
          | none => el
          | some t => (el.tags.filter fun g => g.2 == t && g.1 / 256 / 4096 == m.1).foldl
              (fun el g => el.putBank (hm.off + g.1 / 256 % 4096 * 4 * hm.lw + g.1 % 256 * 64 + b.1 % 64) b.2.2) el) el) s) s

end Sys2Proof.Machine
end

