-- ==== Sys2Proof/Machine/FabMem.lean ====
section
/-! DEFINITION. Major 16, the timed forms: loads and stores in the bank and the channels (11 R214 to R220). -/

namespace Sys2Proof.Machine

def siteNo (o : SOp) : Nat := field o.imm 7 0
def lineOff (o : SOp) : Nat := field o.imm 15 8

/-- The operands of a word that names a site. -/
def siteOperand : Instr → Option SOp
  | .lds o | .sts _ o | .ldx o | .stx o | .ldt _ o | .ldw o | .stw o | .ldsy o | .mcast o => some o
  | .atomAdd _ o | .atomMin _ o | .atomMax _ o | .atomAnd o | .atomOr o | .atomXor o | .atomXchg o | .atomCas o
  | .atomInc o => some o
  | _ => none

def State.siteRec (s : State) (o : SOp) : Site := look {} s.flCopy.sites (siteNo o)
def State.share (s : State) (o : SOp) : Share := shareOf (s.siteRec o) s.ctx.elem
/-- base := C + o × LW (R215), in words of the share. -/
def State.base (s : State) (o : SOp) : Nat :=
  cursor (s.siteRec o) (s.share o) s.fl.ctr2 s.fl.ctr3 + lineOff o * (s.share o).lw

/-- The bank admits a lane word on this cycle (R213); `fed` for `ldt`, which needs FEED. -/
def State.bankOk (s : State) (fed : Bool) : Bool :=
  let c := (s.bankEntry s.ctx.elem s.cycle s.oldPlane).2
  c == 1 || (c == 0 && !fed)

/-- `BANK_CONFLICT` at the beat, with its record (R213, R225). -/
def State.bankConflict (s : State) (o : SOp) (req : Nat) : State :=
  let e := s.bankEntry s.ctx.elem s.cycle s.oldPlane
  (s.siteErr s.key (siteNo o) 0 s.idx 1 e.1 e.2 req 0 0).trapB 18

/-- A load or store word executes at the bank: a LANE or FEED entry is used by it (R211), and it takes nothing of another
entry. -/
def State.useBank (s : State) : State :=
  if (s.bankEntry s.ctx.elem s.cycle s.oldPlane).2 ≤ 1 then s.modEl fun e => { e with laneUse := some s.cycle } else s

/-- The result register that an indexed access reads carries the executing slot's tag (R215). -/
def State.indexOk (s : State) : Bool :=
  match s.el.tag with
  | some (sl, _) => sl == s.ctx.slot
  | none => false
/-- x := sext(res[i], 32), as the result register stands at the start of the cycle (R215). -/
def State.indexLane (s : State) (i : Nat) : Lane := resLane s.el s.el.res i

/-- Lanes loaded: they write d, the result register and the site latch, without poison (R214, R218). -/
def State.loaded (s : State) (o : SOp) (ls : List (Nat × LaneWord)) : State :=
  let s := s.writeDst o (ls.map fun x => (x.1, Lane.clean x.2))
  s.modEl fun e => { e with siteLatch := putAll e.siteLatch ls }

/-- Counters 0 and 1 once an `ldt` beat has gone through its words (R209): the word and the row of the next lane. -/
def State.stepLine (s : State) (x : Site) (t : LdtTy) : State :=
  let nr := x.lrows + 1
  let parts := match t with | .n32 => 1 | .n16 => 2
  let u := parts * 8 * (s.fl.beat + 1) % (parts * nr * (x.lcols + 1))
  s.modEl fun e => { e with steps := put e.steps s.ctx.slot (u / nr / parts, u % nr) }

/-- The stored words of the result register that an indexed access reads. -/
def State.indexEcc (s : State) (o : SOp) (indexed : Bool) : List EccAt :=
  if indexed then (s.enabled o).map (EccAt.res s.ctx.elem) else []

/-- A load reads no source, a store source A; an indexed one also the result register (R214, R215). -/
def State.bankReads (s : State) (o : SOp) (store indexed : Bool) : Reads :=
  { s.maskReads with a := if store then s.enabled o else [], more := s.indexEcc o indexed }

/-- A load through the bank: `at_` gives the lane's value from the element, and `fed` is the type of an `ldt`. -/
def State.bankLoad (s : State) (o : SOp) (req : Nat) (fed : Option LdtTy) (indexed : Bool) (at_ : Elem → Nat → LaneWord) : State :=
  let en := s.enabled o
  if indexed && !s.indexOk then s.trapB 17
  else match s.readFault o (s.bankReads o false indexed) with
    | some c => s.trapB c
    | none =>
      let sinks := if indexed then en.map s.indexLane else []
      if fmtSinkTrap s.fl.fmt && sinks.any (·.p) then s.trapB 48
      else
        let s := s.useBank
        if !s.bankOk fed.isSome then s.bankConflict o req
        else
          let e := s.el
          let s := match fed with | some t => s.stepLine (s.siteRec o) t | none => s
          (s.recordSinks s.key sinks s.idx (siteNo o) 0).loaded o (en.map fun i => (i, at_ e i))

def modBy (a n : Nat) : Nat := if n = 0 then 0 else a % n

def shareWord (h : Share) (e : Elem) (w : Nat) : LaneWord := BitVec.ofNat 32 (bankWord e (h.off + 4 * w) 4)
def shareHalf (h : Share) (e : Elem) (y : Nat) : Nat := bankWord e (h.off + 2 * y) 2

/-- Share word (base + x) mod Se, x signed (R215). -/
def indexWord (h : Share) (base : Nat) (x : LaneWord) : Nat :=
  if h.se = 0 then 0 else (((base : Int) + x.toInt) % (h.se : Int)).toNat

def execLds (o : SOp) (s : State) : Res :=
  let h := s.share o
  let b := s.base o
  .next (s.bankLoad o 0 none false fun e i => shareWord h e (modBy (b + i) h.se))

def execLdx (o : SOp) (s : State) : Res :=
  let h := s.share o
  let b := s.base o
  let ix := s.indexLane
  .next (s.bankLoad o 0 none true fun e i => shareWord h e (indexWord h b (ix i).v))

/-- Lines transposed (R216). -/
def execLdt (t : LdtTy) (o : SOp) (s : State) : Res :=
  let h := s.share o
  let x := s.siteRec o
  let nr := x.lrows + 1
  let nc := x.lcols + 1
  let b := s.base o
  let half (e : Elem) (v : Nat) : Nat :=
    shareHalf h e (modBy (2 * b + v / (2 * nr * nc) * 2 * h.lw + v % (2 * nr * nc) % nr * 2 * nc + v % (2 * nr * nc) / nr) (2 * h.se))
  .next (s.bankLoad o 1 (some t) false fun e i => match t with
    | .n32 => shareWord h e (modBy (b + i / (nr * nc) * h.lw + i % (nr * nc) % nr * nc + i % (nr * nc) / nr) h.se)
    | .n16 => ofParts 16 [half e (2 * i), half e (2 * i + 1)])

/-- A store's bytes performed: at once in the bank, or at t + 8 in every copy of the slip group (R214, R223). -/
def State.storeShare (s : State) (o : SOp) (bs : List (Nat × Byte)) : State :=
  let x := s.siteRec o
  let h := s.share o
  if x.slip = 0 then s.modEl fun e => e.storeBytes (siteNo o) x.fill h.off bs
  else
    let e := s.el
    s.dueEff (s.cycle + 8) 110 (some s.ctx.region)
      (.merge s.key s.ctx.elem s.fl.gen (siteNo o) (bs.map fun b => (b.1, e.tagAt (siteNo o) h.lw b.1, b.2)))

/-- A store through the bank; each enabled lane is a sink (R214, R147). `at_` gives the share byte and the count of
bytes of a lane. -/
def State.bankStore (s : State) (o : SOp) (indexed : Bool) (at_ : Nat → Nat × Nat) : State :=
  let en := s.enabled o
  if indexed && !s.indexOk then s.trapB 17
  else match s.readFault o (s.bankReads o true indexed) with
    | some c => s.trapB c
    | none =>
      let ls := en.map fun i => s.laneA o 0 i
      let ix := if indexed then en.map s.indexLane else []
      if fmtSinkTrap s.fl.fmt && (ls ++ ix).any (·.p) then s.trapB 48
      else
        let s := s.useBank
        if !s.bankOk false then s.bankConflict o 0
        else
          let sinks := if indexed then (ls.zip ix).map fun x => if x.1.p then x.1 else x.2 else ls
          let bs := (en.zip ls).flatMap fun x =>
            ((bytesOf x.2.v.toNat (at_ x.1).2).mapIdx fun j b => ((at_ x.1).1 + j, b))
          (s.recordSinks s.key sinks s.idx (siteNo o) 0).storeShare o bs

def execSts (t : StsTy) (o : SOp) (s : State) : Res :=
  let h := s.share o
  let b := s.base o
  .next (s.bankStore o false fun i => match t with
    | .n32 => (4 * modBy (b + i) h.se, 4)
    | .n16 => (2 * modBy (2 * b + i) (2 * h.se), 2)
    | .n8 => (modBy (4 * b + i) (4 * h.se), 1))

/-- The higher lane wins a word that two lanes name (R215). -/
def execStx (o : SOp) (s : State) : Res :=
  let h := s.share o
  let b := s.base o
  let ix := s.indexLane
  .next (s.bankStore o true fun i => (4 * indexWord h b (ix i).v, 4))

/-! ## Channels (R219, R220) -/

/-- The delay D of a channel: its tracks, and one cycle for each stitched seam (R82, R219). -/
def chanDelay (key chan : Nat) : Nat := 1 + Config.channelTracks key chan + (Config.channelRoute key chan).length

/-- The first seam port on a channel's route that is not stitched to a page of the page set, and how many seams come before
it (R82, R85). -/
def State.wallOnRoute (s : State) (l gen chan : Nat) : Option (Config.Hop × Nat) :=
  let x := s.launch l
  let c := s.copy x.region gen
  (Config.channelRoute (gen * 48 + x.region) chan).zipIdx.find? fun h =>
    !(s.cluster (pageCluster x c h.1.page)).seams.getLsbD h.1.port.val

/-- Cycles from a `send` to its arrival, or to the drop at a seam port: one after the token reaches the port (R82, R86). -/
def wallDelay (key chan : Nat) (wall : Option (Config.Hop × Nat)) : Nat :=
  match wall with
  | some (h, n) => h.cycles + n + 1
  | none => chanDelay key chan

/-- The element at a place of a launch's page set: 28 × row + column from its origin. -/
def State.chanElem (s : State) (l place : Nat) : Nat :=
  let x := s.launch l
  elemAt x.region (4 * x.cr0 + place / 28) (4 * x.cc0 + place % 28)

/-- `send`: the beat's lanes leave for the receiver and arrive at the end of t + D (R220), or at a wall or a closed seam of
their route (R85, R86). -/
def execSend (o : SOp) (s : State) : Res :=
  let en := s.enabled o
  match s.readFault o (s.laneReads o false false) with
  | some c => .next (s.trapB c)
  | none =>
    let chan := field o.imm 7 0
    let key := s.fl.gen * 48 + s.ctx.region
    let wall := s.wallOnRoute s.fl.launch s.fl.gen chan
    let ls := (beatLanes s.fl.beat).map fun i => if en.contains i then some (s.laneA o 0 i) else none
    let (id, s) := s.nextSerial
    let at_ := s.cycle + wallDelay key chan wall
    let b : ChanBeat := { id := id, region := s.ctx.region, chan := chan, slot := s.ctx.slot, launch := s.fl.launch, gen := s.fl.gen,
                          src := s.ctx.elem, dst := s.chanElem s.fl.launch (Config.channelReceiver key chan), lanes := ls,
                          arrive := at_, edge := s.fl.edge, wall := wall.map (·.1) }
    .next (({ s with beats := s.beats ++ [b] } : State).dueOp at_ 108 (some s.ctx.region) (.channelBeatArrival id))

/-- A `recv` beat takes the held beat of its channel, or raises `TIMING_RECV`; `ORPHAN` when the channel's sender lies
in a fenced cluster (R220, R332). -/
def execRecv (o : SOp) (s : State) : Res :=
  let en := s.enabled o
  match s.readFault o s.maskReads with
  | some c => .next (s.trapB c)
  | none =>
    let chan := field o.imm 7 0
    match s.beats.find? (fun b => b.region == s.ctx.region && b.launch == s.fl.launch && b.chan == chan && b.held) with
    | none =>
      let key := s.fl.gen * 48 + s.ctx.region
      let src := s.chanElem s.fl.launch (Config.channelSender key chan)
      if (s.cluster (src / 16)).shut then .next (s.trapB 98)
      else .next ((s.siteErr s.key 0 0 s.idx 2 0 0 4 chan 0).trapB 19)
    | some b =>
      let s := { s with beats := s.beats.filter (·.id != b.id) }
      let got (i : Nat) : Option Lane := ((b.lanes[i % 8]?).getD none)
      let ls := en.filterMap fun i => (got i).map fun l => (i, l)
      let s := s.writeDst o ls
      .next (s.modEl fun e => { e with recvLatch := (List.range 8).filterMap fun i => (got i).map fun l => (i, l) })

end Sys2Proof.Machine
end

