-- ==== Sys2Proof/Machine/Node.lean ====
section
/-! DEFINITION. Memory nodes (12 R226, R228, 16 R272, R283): bytes, their protection, and full/empty bits. -/

namespace Sys2Proof.Machine

/-- The protected words of a run of memory: 64 bits of slice SRAM, or 64 bytes of a stack. -/
def memWords (a n : Nat) : List EccAt :=
  if a < sliceBase then (List.range ((a + n + 63) / 64 - a / 64)).map fun i => .hbm (a / 64 + i)
  else (List.range ((a + n + 7) / 8 - a / 8)).map fun i => .slice (sliceOf (a + 8 * i)) ((a / 8 + i) % (sliceBytes / 8))

/-- Whether a read of n bytes meets an uncorrectable error. -/
def State.memBad (s : State) (a n : Nat) : Bool := !s.ecc.isEmpty && (memWords a n).any s.eccBad

/-- A byte as a read of this cycle returns it (R272): the last write of an earlier cycle. -/
def State.nodeByte (s : State) (a : Nat) : Byte :=
  if s.memOldAt = s.cycle then look (memByte s.mem a) s.memOld a else memByte s.mem a
def State.nodeRead (s : State) (a : Nat) : Nat → List Byte
  | 0 => []
  | n + 1 => s.nodeByte a :: s.nodeRead (a + 1) n

/-- What bytes about to be written hold, kept for the reads of this cycle. -/
def State.keepOld (s : State) (as : List Nat) : State :=
  let m := if s.memOldAt = s.cycle then s.memOld else []
  let keep (m : Map Byte) (a : Nat) : Map Byte := if m.any (·.1 == a) then m else put m a (memByte s.mem a)
  { s with memOld := as.foldl keep m, memOldAt := s.cycle }

/-- Bytes performed at a node (R273); a protected word written whole holds valid check bits again. -/
def State.memStore (s : State) (a : Nat) (bs : List Byte) : State :=
  let s := s.keepOld ((List.range bs.length).map (a + ·))
  let s := { s with mem := memWrite s.mem a bs }
  let w := if a < sliceBase then 64 else 8
  if s.ecc.isEmpty then s
  else if a % w = 0 ∧ bs.length % w = 0 then s.eccClear (memWords a bs.length) else s

/-- Scattered bytes performed at a node: (physical address, byte). -/
def State.memScatter (s : State) (bs : List (Nat × Byte)) : State :=
  let s := s.keepOld (bs.map (·.1))
  { s with mem := bs.foldl (fun m b => memPut m b.1 b.2) s.mem }

/-- Full/empty bits of the 32-bit words of a run of home-slice bytes (R283). -/
def State.setFe (s : State) (a n : Nat) (v : Bool) : State :=
  (List.range (n / 4)).foldl (fun s i => s.putFe (a + 4 * i) v) s

/-! ## Flits to peers (R354) -/

/-- A flit leaves a port, with the next SEQ and the last SEQ that came in order; it is kept until it is acknowledged. -/
def State.sendFlit (s : State) (k : Nat) (type : BitVec 4) (payload : BitVec 1920) : State :=
  let q := look 0 s.peerNext k
  let f : Flit := { seq := q, type := type, ack := look 0 s.peerSeq k - 1, payload := payload }
  { s with peerNext := put s.peerNext k (q + 1), peerSent := put s.peerSent k (look [] s.peerSent k ++ [f])
           flitsOut := (k, f) :: s.flitsOut }

/-! ## The banks of a slice (R226, R227) -/

/-- The slices, and the banks of each, that serve the 64-byte granules of an access: bank f[9:6] of the slice, or of the
slice that fronts the granule's stack. -/
def bankNodes (gs : List Nat) : List (Nat × List Nat) :=
  ((gs.map fun g => sliceOf (64 * g)).eraseDups).map fun sl =>
    (sl, ((gs.filter fun g => sliceOf (64 * g) == sl).map (· % 16)).eraseDups)

/-- The 64-byte granules that an access has still to read or write. -/
def Access.lines (a : Access) : List Nat :=
  if a.kind = .atom then ((a.ops.map fun o => (a.addr + 4 * o.1) / 64).eraseDups)
  else if a.bytes.isEmpty then
    (((List.range (ceilDiv a.len 4)).filter fun i => !a.reply.any (·.1 == i)).map fun i => a.addr / 64 + i / 16).eraseDups
  else (a.bytes.map (·.1 / 64)).eraseDups

/-- The slices at the end of an access's paths (R278). -/
def Access.slices (a : Access) : List Nat := (bankNodes a.lines).map (·.1)

/-- The class of an access (R227): STACK for the lines of a stack, else WIN. -/
def Access.cls (a : Access) : Nat := if a.addr < sliceBase then 2 else 0

/-- Whether a waiting request still stands. -/
def State.stillWaits (s : State) (w : BankWait) : Bool :=
  match w.who with
  | .acc id g => s.accs.any fun a => a.id == id && a.st == .sent && a.lines.contains g
  | .unit id u => s.reqs.any fun r => r.id == id && r.st == .running && !r.done.contains u
  | .save key => match (s.slot key).wait with | .save _ _ => true | _ => false

/-- Whether the banks of a slice serve a request on this cycle (R227): none has served yet, the entry of the cycle is of its
class or SPARE, and no request that goes before it waits at those banks. -/
def State.serves (s : State) (slice : Nat) (w : BankWait) : Bool :=
  let x := s.slice slice
  let j := s.cycle % 16
  let e := field x.slots (2 * j + 1) (2 * j)
  let others := x.waits.filter fun v => s.stillWaits v && v.banks.any w.banks.contains
  let earlier := others.takeWhile fun v => v.who != w.who
  w.banks.all (fun b => look (s.cycle + 1) x.bankAt b != s.cycle) && !earlier.any (fun v => v.cls == w.cls)
    && (e == w.cls || (e == 3 && !others.any fun v => decide (v.cls < w.cls)))

/-- A request that begins to wait: behind all earlier ones, and of those of its cycle behind the ones of lower order. -/
def BankWait.queue (w : BankWait) (l : List BankWait) : List BankWait :=
  let after (v : BankWait) : Bool := v.since == w.since && decide (w.order < v.order)
  l.filter (!after ·) ++ w :: l.filter after

/-- A request at its banks on this cycle: whether they all serve it; if not, it waits there in arrival order. -/
def State.atBanks (s : State) (cls : Nat) (who : BankUser) (order : Nat) (nodes : List (Nat × List Nat)) : Bool × State :=
  let w (n : Nat × List Nat) : BankWait := { cls := cls, who := who, banks := n.2, since := s.cycle, order := order }
  if nodes.all fun n => s.serves n.1 (w n) then
    (true, nodes.foldl (fun s n => s.modSlice n.1 fun x =>
      { x with bankAt := n.2.foldl (fun m b => put m b s.cycle) x.bankAt, waits := x.waits.filter fun v => v.who != who }) s)
  else
    (false, nodes.foldl (fun s n => s.modSlice n.1 fun x =>
      if x.waits.any fun v => v.who == who then x else { x with waits := (w n).queue (x.waits.filter s.stillWaits) }) s)

/-- The place of an access among those that reach a bank on one cycle (R239). -/
def Access.order (a : Access) : Nat := 512 * elemRegion a.elem + elemIdx (elemRow a.elem) (elemCol a.elem)

/-- The granules of an access that their banks serve on this cycle: each performs at its own node (R228, R272), and the others
wait. -/
def State.partsAt (s : State) (a : Access) (gs : List Nat) : List Nat × State :=
  gs.foldl (fun x g =>
    let y := x.2.atBanks a.cls (.acc a.id g) a.order (bankNodes [g])
    (if y.1 then x.1 ++ [g] else x.1, y.2)) ([], s)

end Sys2Proof.Machine
end

