-- ==== Sys2Proof/Machine/FabWin.lean ====
section
/-! DEFINITION. Windowed words: window fills, synchronising loads, stores with write-back, multicast and atomics (08 R140,
12 R233 to R239, 16 R275 to R278). -/

namespace Sys2Proof.Machine

/-- Where a windowed word acts (R234): the line's physical address and its local line. -/
def State.winAddr (s : State) (o : SOp) : Nat × Nat :=
  let h := s.share o
  let n := s.fl.ctr2.toNat + lineOff o
  (field s.fl.base 51 6 * 64 + 4 * h.lw * (n * h.nb + h.pos), modBy n h.le)

/-- Whether a region holds a page of a saggar. -/
def State.holdsSaggar (s : State) (region : Nat) (g : BitVec 12) : Bool :=
  (List.range 28).any fun i => (s.cluster (28 * region + i)).saggar == g && (s.cluster (28 * region + i)).launch.isSome

/-- The span check (R234): home slices of a region of the launch's saggar for FILL 3, one pinned range for FILL 4, with
W for a store or an atomic. -/
def State.spanOk (s : State) (x : Site) (a n : Nat) (store : Bool) : Bool :=
  if x.fill = 3 then
    inSlices a n && sliceOf a / 4 == sliceOf (a + n - 1) / 4
      && s.holdsSaggar (sliceOf a / 4) (saggarOf (s.launch s.fl.launch))
  else s.flCopy.pins.any fun p => decide (p.1 ≤ a ∧ a + n ≤ p.1 + p.2.1) && (!store || p.2.2)

/-- Whether a class of requester has an entry in a slice's table, or SPARE has (R227). -/
def slotsAdmit (w : Word) (cls : Nat) : Bool :=
  (List.range 16).any fun j => field w (2 * j + 1) (2 * j) == cls || field w (2 * j + 1) (2 * j) == 3

/-- The lowest-numbered free landing entry (R141). -/
def Elem.freeEntry (e : Elem) : Option Nat := (List.range 4).find? fun j => !(look {} e.landing j).isOpen

/-- Whether a fence's waymarks go down a path, keyed 256 × element + slice (R279, R280): scope 6 is `fence.way`. -/
def fencePath (region scope key : Nat) : Bool :=
  if scope ≤ 1 then false
  else if scope = 2 then key % 256 / 4 == region
  else if scope = 3 then key % 256 / 8 == region / 2
  else true

/-- The path of an access is used (R278), and a waiting fence that covers its beat sends a waymark down it (R279). -/
def Slot.usePath (sl : Slot) (region elem slice edge : Nat) : Slot :=
  let k := 256 * elem + slice
  let sl := { sl with paths := put sl.paths k edge }
  match sl.wait with
  | .fence scope since =>
    if edge < since ∧ fencePath region scope k ∧ !sl.waymarks.contains k then { sl with waymarks := k :: sl.waymarks } else sl
  | _ => sl

/-- An access sent from the element under way, in stream s[3:0] of the slot (R234, R275). -/
def State.sendAcc (s : State) (o : SOp) (f : Access → Access) : Nat × State :=
  let (id, s) := s.nextSerial
  let a := f { id := id, kind := .read, region := s.ctx.region, slot := s.key, launch := s.fl.launch, gen := s.fl.gen, elem := s.ctx.elem,
               win := id, stream := siteNo o % 16, site := siteNo o, edge := s.fl.edge, store := (s.siteRec o).store }
  let s := { s with accs := s.accs ++ [a] }
  (id, s.modSlot s.key fun sl => a.slices.foldl (fun sl n => sl.usePath s.ctx.region s.ctx.elem n s.fl.edge) sl)

/-- A line's dirty bytes captured into a write-back under its old tag, and cleared (R235, R237, R300); under no tag
nothing is written (R301). -/
def State.captureDirty (s : State) (o : SOp) (j : Nat) : State :=
  let h := s.share o
  let n := siteNo o
  let e := s.el
  let bs := (e.dirtyOf h n j).filterMap fun b => (e.tagAt n h.lw (4 * h.lw * j + b.1)).map fun t => (t.off + b.1 % 64, b.2)
  let s := s.modEl fun e => e.cleanLine h n j
  match bs with
  | [] => s
  | (p, _) :: _ => (s.sendAcc o fun a => { a with kind := .wback, addr := p, line := j, bytes := bs }).2

/-- The granule tags of a line at physical address a. -/
def lineTagsAt (h : Share) (a : Nat) : List GTag := (List.range (h.lw / 16)).map fun g => { space := 0, off := a + 64 * g }

/-- The tag of line j set to a, its granules entered in the watch set (R222, R235); none when the watch set is full. -/
def State.setTag (s : State) (o : SOp) (j a : Nat) : Option State :=
  let x := s.siteRec o
  let h := s.share o
  let n := siteNo o
  let ts := lineTagsAt h a
  let old := (s.el.lineTags n j).map (·.2)
  let s1 := if old = ts then s else s.clearTag s.fl.launch s.ctx.elem n j x.slip
  let w := look [] (s1.launch s.fl.launch).watches x.slip
  match (if x.slip = 0 then some w else watchAll (s.ctx.elem * 256 + n, j) ts w) with
  | none => none
  | some w =>
    let s1 := s1.modEl fun e => { e with tags := putAll e.tags (ts.mapIdx fun g t => (granKey n j g, t)) }
    some (if x.slip = 0 then s1 else s1.modLaunch s.fl.launch fun l => { l with watches := put l.watches x.slip w })

/-- `SLOT.WINMISS` after a miss: the first since the last clear (R142). -/
def winMissWord (old : Word) (elem wid reason pend short : Nat) : Word :=
  if bitAt old 0 then old
  else BitVec.ofNat 64 (elem % 512 * 2 ^ 30 + wid % 64 * 2 ^ 24 + reason % 2 * 2 ^ 23 + pend % 2 * 2 ^ 22
    + short % 4096 * 2 ^ 10 + 1)

def State.winMiss (s : State) (key elem wid reason pend short : Nat) : State :=
  s.modSlot key fun sl => { sl with winmiss := winMissWord sl.winmiss elem wid reason pend short }

/-- The window of a word (R140): LEN and KIND of its descriptor. -/
def State.window (s : State) (o : SOp) : Nat × Nat := look (1, 0) s.flCopy.windows o.win.toNat

/-- The beat that opens a window reads the whole word's mask (R137, R141). -/
def State.openMask (s : State) (o : SOp) : List Nat := if s.fl.beat = 0 then List.range (width o) else beatLanes s.fl.beat

/-- A window fill reads no source (R235). -/
def State.fillReads (s : State) (o : SOp) : Reads := { pred := if s.fl.beat = 0 then List.range (width o) else [] }
/-- An atomic reads source A, and `cas` source B (R239). -/
def State.atomReads (s : State) (o : SOp) (op : Nat) : Reads :=
  { s.laneReads o (op == 10) false with pred := s.openMask o }

/-- The 64-byte granules of the word's line. -/
def State.winGrans (s : State) (o : SOp) : List Nat :=
  (List.range (ceilDiv (4 * (s.share o).lw) 64)).map ((s.winAddr o).1 / 64 + ·)

/-- The first slice of the word's line whose table has no entry for its class and no SPARE entry (R227). -/
def State.shutSlice (s : State) (o : SOp) : Option Nat :=
  (s.winGrans o).findSome? fun g =>
    if slotsAdmit (s.slice (sliceOf (64 * g))).slots (if (s.siteRec o).fill = 3 then 0 else 2) then none else some (sliceOf (64 * g))

/-- What stops a windowed beat before anything is issued: the faults of what it reads, a poisoned sink, the span, the
slice's table. -/
def State.winFault (s : State) (o : SOp) (r : Reads) (store : Bool) (sinks : List Lane) : Option Nat :=
  match s.readFault o r with
  | some c => some c
  | none =>
    if fmtSinkTrap s.fl.fmt && sinks.any (·.p) then some 48
    else if s.fl.beat ≠ 0 then none
    else if !s.spanOk (s.siteRec o) (s.winAddr o).1 (4 * (s.share o).lw) store then some 33
    else if (s.shutSlice o).isSome then some 18
    else none

/-- A windowed beat stopped, with the records of its cause (R225): for `BANK_CONFLICT`, the slice table's entry of the cycle
and its class; `req` is 5 for a fill and 0 for a store or an atomic. -/
def State.winTrap (s : State) (o : SOp) (req c : Nat) : State :=
  if c = 18 then
    let j := s.cycle % 16
    let w := (s.slice ((s.shutSlice o).getD 0)).slots
    (s.siteErr s.key (siteNo o) 0 s.idx 1 j (field w (2 * j + 1) (2 * j)) req 0 0).trapB 18
  else s.trapB c

/-- A window opened on a free landing entry (R140, R141). -/
def State.openWindow (s : State) (o : SOp) (j acc entry : Nat) (atomic : Bool) : State :=
  let w := s.window o
  let close := s.cycle + 8 * (w.1 + (s.region s.ctx.region).winstretch.toNat)
  let e : Landing := { isOpen := true, wid := o.win.toNat, slot := s.key, launch := s.fl.launch, gen := s.fl.gen, close := close,
                       reg := (s.dstCode o.dst).getD 0, code := o.dst.code, mask := s.predMask o, width := width o, acc := acc,
                       atomic := atomic, sline := s.fl.line, site := siteNo o, line := j, kept := (look {} s.el.landing entry).kept,
                       word := s.fl.wordId, edge := s.fl.edge, beats := 1 }
  let s := s.modEl fun el => { el with landing := put el.landing entry e }
  s.dueOp close 105 (some s.ctx.region) (.windowClose s.ctx.elem ⟨entry % 4, Nat.mod_lt _ (by decide)⟩)

/-- A window fill or synchronising load (R235, R236). -/
def State.fillWord (s : State) (o : SOp) (kind : AccKind) : State :=
  match s.winFault o (s.fillReads o) false [] with
  | some c => s.winTrap o 5 c
  | none =>
    if s.fl.beat ≠ 0 then s
    else match s.el.freeEntry with
      | none => (s.winMiss s.key s.idx o.win.toNat 1 0 0).trapB 16
      | some entry =>
        let (a, j) := s.winAddr o
        let s1 := s.captureDirty o j
        match s1.setTag o j a with
        | none => (s.siteErr s.key (siteNo o) 0 s.idx 4 0 0 5 0 0).trapB 35
        | some s2 =>
          let (id, s3) := s2.sendAcc o fun x => { x with kind := kind, addr := a, len := 4 * (s.share o).lw, entry := entry, line := j }
          s3.openWindow o j id entry false

def execLdw (o : SOp) (s : State) : Res := .next (s.fillWord o .read)
def execLdsy (o : SOp) (s : State) : Res := .next (s.fillWord o .sync)

/-- A store beat with write-back; `note` marks what the beat does besides (R237): retag where needed, with the stamp check in the stream, bytes merged at t + 8
and a write-back queued for t + 9 at the earliest (R300). -/
def State.storeWord (s : State) (o : SOp) (reps : List Nat) (note : State → State) : State :=
  let en := s.enabled o
  let ls := en.map fun i => s.laneA o 0 i
  match s.winFault o (s.laneReads o false false) true ls with
  | some c => s.winTrap o 0 c
  | none =>
    let (a, j) := s.winAddr o
    let h := s.share o
    let n := siteNo o
    let tagged : Option State :=
      if (s.el.lineTags n j).map (·.2) = lineTagsAt h a then some s
      else match (s.captureDirty o j).setTag o j a with
        | none => none
        | some s1 => some (s1.sendAcc o fun x => { x with kind := .check, addr := a, len := 4 * h.lw, line := j, store := true }).2
    match tagged with
    | none => (s.siteErr s.key n 0 s.idx 4 0 0 6 0 0).trapB 35
    | some s1 =>
      let s1 := (note s1).recordSinks s.key ls s.idx n 0
      let bs := (en.zip ls).flatMap fun x => (bytesOf x.2.v.toNat 4).mapIdx fun i b => (4 * x.1 + i, b)
      let ts := bs.map fun b => (4 * h.lw * j + b.1, some ({ space := 0, off := a + b.1 / 64 * 64 } : GTag), b.2)
      let s1 := s1.dueEff (s.cycle + 8) 110 (some s.ctx.region) (.merge s.key s.ctx.elem s.fl.gen n ts)
      let s1 := (s1.sendAcc o fun x => { x with kind := .wback, st := .queued, addr := a, len := 4 * h.lw, line := j,
                                                notBefore := s.cycle + 9 }).2
      let s1 := s1.dueOp (s.cycle + 9) 101 (some s.ctx.region) (.writeBackRead s.ctx.elem)
      reps.foldl (fun s2 sl =>
        let pa := sliceBase + sliceBytes * sl + (a - sliceBase) % sliceBytes
        (s2.sendAcc o fun x => { x with kind := .replica, addr := pa, bytes := bs.map fun b => (pa + b.1, b.2) }).2) s1

def execStw (o : SOp) (s : State) : Res := .next (s.storeWord o [] id)

/-- The list that MLIST of `SITE.BASE` names, and its valid entries (R238). -/
def State.mcastEntries (s : State) : Nat × List Nat :=
  let m := field s.fl.base 63 60
  let w := look 0 (s.region s.ctx.region).mcast m
  (m, if m = 0 then [] else ((List.range 4).filter fun e => bitAt w (44 + e)).map fun e => field w (8 * e + 7) (8 * e))

/-- `mcast` (R238): a store that also writes replicas; a replica outside the saggar's home slices is skipped and
counted once the beat performs. -/
def execMcast (o : SOp) (s : State) : Res :=
  let (m, es) := s.mcastEntries
  let g := saggarOf (s.launch s.fl.launch)
  let ok := es.filter fun sl => decide (sl < 192) && s.holdsSaggar (sl / 4) g
  let skip := es.length - ok.length
  .next (s.storeWord o ok fun s => if skip = 0 then s else s.modRegion s.ctx.region fun r =>
    let w := look 0 r.mcast m
    { r with mcast := put r.mcast m (putField w 63 48 (stopAt 65535 (field w 63 48 + skip))) })

/-- Atomic operations (R239), by number: add.i32, add.f32, min and max of i32 and n32, and, or, xor, xchg, cas, inc. -/
def atomValue (op : Nat) (ar : Arith) (x v c : LaneWord) : LaneWord :=
  match op with
  | 0 => BitVec.ofNat 32 (fit .i32 ar.sat (x.toInt + v.toInt))
  | 1 =>
    let r := addVal (FF.f32.val x.toNat) (FF.f32.val v.toNat)
    BitVec.ofNat 32 (fround { ar with flush := false } .f32 r.1).c
  | 2 => if v.slt x then v else x
  | 3 => if x.slt v then v else x
  | 4 => if v.ult x then v else x
  | 5 => if x.ult v then v else x
  | 6 => x &&& v
  | 7 => x ||| v
  | 8 => x ^^^ v
  | 9 => v
  | 10 => if x = c then v else x
  | _ => if v.ule x then 0 else x + 1

/-- The sinks of an atomic: each operand lane, of `cas` the poisoned one of the two, a before b (R147, R239). -/
def State.atomSinks (s : State) (o : SOp) (op : Nat) : List Lane :=
  (s.enabled o).map fun i =>
    let a := s.laneA o 0 i
    let b := s.laneB o 0 i
    if op = 10 ∧ a.p = false ∧ b.p = true then b else a

/-- The entry that the word under way opened last and that still waits (R141). -/
def State.openEntry (s : State) : Option Nat :=
  let at_ (e : Nat) : Landing := look {} s.el.landing e
  ((List.range 4).filter fun e => (at_ e).isOpen && (at_ e).slot == s.key && (at_ e).word == s.fl.wordId).foldl
    (fun b e => match b with
      | some x => if (at_ x).acc < (at_ e).acc then some e else b
      | none => some e) none

/-- An atomic beat: its enabled lanes go to the slice through the window (R239). Each operand lane is a sink. A beat whose
window has closed still performs, and its answer is dropped. -/
def State.atomWord (s : State) (o : SOp) (op : Nat) : State :=
  let en := s.enabled o
  let ls := s.atomSinks o op
  match s.winFault o (s.atomReads o op) true ls with
  | some c => s.winTrap o 0 c
  | none =>
    let (a, j) := s.winAddr o
    let ops := en.map fun i => (i, (s.laneA o 0 i).v, (s.laneB o 0 i).v)
    let send (s : State) (entry : Nat) : Nat × State :=
      (s.recordSinks s.key ls s.idx (siteNo o) 1).sendAcc o fun x =>
        { x with kind := .atom, addr := a, len := 4 * (s.share o).lw, entry := entry, line := j, ops := ops, op := op,
                 sat := o.sat, rnd := o.rnd, store := true }
    if s.fl.beat = 0 then
      match s.el.freeEntry with
      | none => (s.winMiss s.key s.idx o.win.toNat 1 0 0).trapB 16
      | some entry =>
        let (id, s1) := send s entry
        s1.openWindow o j id entry true
    else match s.openEntry with
      | none =>
        let (id, s1) := send s 0
        (match (s.slot s.key).late with
          | some w =>
            if w.elem = s.ctx.elem ∧ w.word = s.fl.wordId then
              let s2 := s1.modSlot s.key fun sl => { sl with late := some { w with left := w.left - 1 } }
              { s2 with accs := s2.accs.map fun (a : Access) => if a.id = id then { a with win := w.win } else a }
            else s1
          | none => s1)
      | some entry =>
        let w : Landing := look {} s.el.landing entry
        let (id, s1) := send s entry
        let s2 := s1.modEl fun e => { e with landing := put e.landing entry { w with beats := w.beats + 1 } }
        { s2 with accs := s2.accs.map fun (a : Access) => if a.id = id then { a with win := w.acc } else a }

def execAtomAdd (t : RedTy) (o : SOp) (s : State) : Res := .next (s.atomWord o (match t with | .i32 => 0 | .f32 => 1))
def execAtomMin (t : AtomTy) (o : SOp) (s : State) : Res := .next (s.atomWord o (match t with | .i32 => 2 | .n32 => 4))
def execAtomMax (t : AtomTy) (o : SOp) (s : State) : Res := .next (s.atomWord o (match t with | .i32 => 3 | .n32 => 5))
def execAtomAnd (o : SOp) (s : State) : Res := .next (s.atomWord o 6)
def execAtomOr (o : SOp) (s : State) : Res := .next (s.atomWord o 7)
def execAtomXor (o : SOp) (s : State) : Res := .next (s.atomWord o 8)
def execAtomXchg (o : SOp) (s : State) : Res := .next (s.atomWord o 9)
def execAtomCas (o : SOp) (s : State) : Res := .next (s.atomWord o 10)
def execAtomInc (o : SOp) (s : State) : Res := .next (s.atomWord o 11)

/-- The operands of a windowed word. -/
def windowed : Instr → Option SOp
  | .ldw o | .ldsy o | .stw o | .mcast o => some o
  | .atomAdd _ o | .atomMin _ o | .atomMax _ o | .atomAnd o | .atomOr o | .atomXor o | .atomXchg o | .atomCas o
  | .atomInc o => some o
  | _ => none

/-- The stream of a beat of a windowed word (R275). -/
def Flight.stream (f : Flight) : Option Nat :=
  match decodeSched f.word with
  | .ok i => (windowed i).map fun o => siteNo o % 16
  | .error _ => none

end Sys2Proof.Machine
end

