-- ==== Sys2Proof/Machine/Array.lean ====
section
/-! DEFINITION. The matrix array (10 R180 to R193, R202 to R206): values of A and B, the weight buffer's layouts, runs and
scales, and one interval of a cluster's array. -/

namespace Sys2Proof.Machine

/-- The matrix cluster of the element under way. -/
def State.clu (s : State) : Nat := s.ctx.elem / 16
def tileKey (z i j : Nat) : Nat := 4096 * z + 64 * i + j

/-- A tile word; nothing written since arming holds a free value (R303). -/
def Cluster.word (c : Cluster) (z i j : Nat) : TileWord :=
  look { v := if c.epoch = 0 then 0 else Config.freeTile c.epoch (tileKey z i j) } c.tiles (tileKey z i j)

def Cluster.run (c : Cluster) (z : Nat) : Run := look {} c.runs z
def Cluster.wline (c : Cluster) (l : Nat) : WLine := look {} c.wlines l

/-- A byte of a weight-buffer line, now or as it stood one interval earlier (R187, R202). -/
def Cluster.wbyte (c : Cluster) (old : Option Nat) (l b : Nat) : Byte :=
  let dflt : Byte := if c.epoch = 0 then 0 else Config.freeByte c.epoch (64 * l + b)
  let cur := look dflt c.wbytes (64 * l + b)
  if old = some c.wOldAt then look cur c.wOld (64 * l + b) else cur
def Cluster.wlineAt (c : Cluster) (old : Option Nat) (l : Nat) : WLine :=
  if old = some c.wOldAt then look (c.wline l) c.wOldLines l else c.wline l

/-- P of a pack code (R184). -/
def packOf (code : Nat) : Nat := 2 ^ code

/-- Stored planes of a bit-plane form. -/
def BForm.planes : BForm → Nat
  | .bp k => k.val + 2
  | .ty _ => 8

/-- Forms with a scale line (R190). -/
def BForm.scaled : BForm → Bool
  | .ty .mxf8 | .ty .mxi8 | .ty .mxf4 | .bp _ => true
  | _ => false

/-- Lines a step of a form takes (R189). -/
def BForm.lines : BForm → Nat
  | .ty .f16 | .ty .bf16 => 2
  | _ => 1

/-- P of a stored form when it is read at k planes (R189, R190). -/
def BForm.pack : BForm → Nat
  | .ty .e2m1 | .ty .mxf4 => 2
  | .bp k => if k.val = 0 then 4 else if k.val ≤ 2 then 2 else 1
  | _ => 1

/-- The 8-bit class of A types (R190). -/
def MTy.wide : MTy → Bool
  | .e4m3 | .e5m2 | .i8 | .n8 | .mxf8 | .mxi8 => true
  | _ => false

/-- Whether A's type and P pair with a stored form (R190). -/
def pairs (a : MTy) (p : Nat) (b : BForm) : Bool :=
  p == (BForm.pack b) && (match a with
    | .f16 => b == .ty .f16
    | .bf16 => b == .ty .bf16
    | .e2m1 | .mxf4 => b == .ty .e2m1 || b == .ty .mxf4
    | _ => b != .ty .f16 && b != .ty .bf16)

/-- The code of column j of row u of a step at line l (R189). -/
def bcode (f : BForm) (byte : Nat → Nat → Byte) (l u j : Nat) : Nat :=
  match f with
  | .ty .f16 | .ty .bf16 =>
    let ln := l + j / 32
    (byte ln (2 * (j % 32))).toNat + 256 * (byte ln (2 * (j % 32) + 1)).toNat
  | .ty .e2m1 | .ty .mxf4 => (byte l (32 * u + j / 2)).toNat / 2 ^ (4 * (j % 2)) % 16
  | .bp k =>
    let K := k.val + 2
    sumNat ((List.range K).map fun t =>
      (byte l (8 * (u * K + t) + 4 * (j / 32) + j % 32 / 8)).toNat / 2 ^ (j % 8) % 2 * 2 ^ (7 - t))
  | _ => (byte l j).toNat

/-- The value of a code of A, or of B's typed forms, at the array (R191). -/
def mval (t : MTy) (spare c : Nat) : Val × Bool :=
  match t with
  | .e4m3 | .mxf8 => (FF.e4m3.val c, false)
  | .e5m2 => (FF.e5m2.val c, false)
  | .i8 => (ofInt (intVal .i8 c) 0 false, false)
  | .n8 => (ofInt (intVal .n8 c) 0 false, false)
  | .f16 => (FF.f16.val c, false)
  | .bf16 => (FF.bf16.val c, false)
  | .mxi8 => (ofInt (intVal .i8 c) (-6) false, false)
  | .e2m1 | .mxf4 => e2m1Val spare c

def bval (f : BForm) (spare k c : Nat) : Val × Bool :=
  match f with
  | .ty t => mval t spare c
  | .bp _ => (ofInt (bprecon c k) (-6) false, false)

/-- One product of a step (R58): exact, but for bf16 rounded to f32. -/
def product (a : MTy) (x y : Val) : Val :=
  let p := (mulVal x y).1
  match a with
  | .bf16 => FF.f32.val (fround {} .f32 p).c
  | _ => p

/-- A word after one step (R181): `xs` the P pairs of values with their poison. -/
def stepWord (a : MTy) (z : TileWord) (xs : List ((Val × Bool) × (Val × Bool))) : TileWord :=
  let ps := xs.map fun x => product a x.1.1 x.2.1
  let term := ps.foldl (fun t p => (addVal t p).1) (.fin false 0 0)
  let zv := FF.f32.val z.v.toNat
  let sum := (addVal zv term).1
  let c := (fround {} .f32 sum).c
  let exceeds : Bool := match sum with
    | .fin .. => (match FF.f32.val c with | .inf _ => true | _ => false)
    | .nan => !isNan zv && !ps.any isNan
    | .inf _ => false
  -- a finite word that meets an infinite product of finite operands overflows with it (R58)
  let exceeds := exceeds || (match zv, sum with
    | .fin .., .inf _ => (xs.zip ps).any fun x => match x.1.1.1, x.1.2.1, x.2 with
      | .fin .., .fin .., .inf _ => true
      | _, _, _ => false
    | _, _ => false)
  { v := BitVec.ofNat 32 c, p := z.p || xs.any (fun x => x.1.2 || x.2.2) || exceeds }

/-- What the array reads for one step: A's codes row-major with poison, B's form, line, and the planes it reads. -/
structure StepIn where
  tile : Nat
  aty : MTy
  p : Nat
  vals : List (BitVec 16 × Bool)
  sa : List (BitVec 8)
  form : BForm
  byte : Nat → Nat → Byte
  line : Nat
  k : Nat
  /-- Whether the line that supplies a column carries poison (R192). -/
  bpois : Nat → Bool
  sb : List (BitVec 8)
  spare : Nat

/-- The scale codes of a run's side: 127 in every place when unscaled (R193). -/
def unit127 : List (BitVec 8) := List.replicate 64 127

/-- The run of a tile with a step's scales, fixed by its first step (R193). -/
def Cluster.runWith (c : Cluster) (x : StepIn) : Run :=
  let r := c.run x.tile
  if r.live then r else { live := true, sa := x.sa, sb := x.sb, spare := BitVec.ofNat 8 x.spare }

/-- Whether a step brings the scales of its run (R193). -/
def Cluster.scalesAgree (c : Cluster) (x : StepIn) : Bool := (c.runWith x).sa == x.sa && (c.runWith x).sb == x.sb

/-- A step added into its tile, or none when its scales differ from its run's (R193). -/
def Cluster.addStep (c : Cluster) (x : StepIn) : Option Cluster :=
  if !c.scalesAgree x then none
  else
    let r := c.runWith x
    let spare := r.spare.toNat
    let cells := (List.range 64).flatMap fun i => (List.range 64).map fun j =>
      let xs := (List.range x.p).map fun u =>
        let a := (x.vals[i * x.p + u]?).getD (0, false)
        let av := mval x.aty spare a.1.toNat
        let bv := bval x.form spare x.k (bcode x.form x.byte x.line u j)
        ((av.1, av.2 || a.2), (bv.1, bv.2 || x.bpois j))
      (tileKey x.tile i j, stepWord x.aty (c.word x.tile i j) xs)
    some { c with tiles := putAll c.tiles cells, runs := put c.runs x.tile r, drained := put c.drained x.tile false }

/-! ## The B cursor (R190) -/

/-- Where a step's B stands: the data line, its form, the scale line above it as it was read, and the scale lines that the
cursor stood on just now. -/
structure BAt where
  line : Nat
  form : BForm
  scale : Option ScaleIn
  passed : List Nat := []
deriving DecidableEq, Repr

/-- The cursor moved past the scale lines on which it stands: the line after them, and the last one as it is read. -/
def passScales (tagAt : Nat → Option (BForm × Bool)) (read : Nat → BForm → ScaleIn) : Nat → Nat → Option ScaleIn → Nat × Option ScaleIn
  | 0, cur, sc => (cur, sc)
  | fuel + 1, cur, sc =>
    match tagAt cur with
    | some (f, true) => if cur ≤ 4095 then passScales tagAt read fuel (cur + 1) (some (read cur f)) else (cur, sc)
    | _ => (cur, sc)

/-- The form whose scale line a line is, if it is one. -/
def scaleForm (tagAt : Nat → Option (BForm × Bool)) (l : Nat) : Option BForm :=
  match tagAt l with
  | some (f, true) => some f
  | _ => none

/-- The line of a step from its cursor (R190): none where the line is empty or passes 4,095, where a block's scale line is
of another form, and where a scaled form's cursor did not start on a scale line of that form. -/
def seekLine (tagAt : Nat → Option (BForm × Bool)) (read : Nat → BForm → ScaleIn) (head : Option BForm) (cur : Nat)
    (scale : Option ScaleIn) : Option BAt :=
  let (l, sc) := passScales tagAt read 4096 cur scale
  match tagAt l with
  | some (f, false) =>
    let past : Bool := decide (4095 < l + BForm.lines f - 1)
    let half : Bool := BForm.lines f == 2 && tagAt (l + 1) != some (f, false)
    let block : Bool := match sc with
      | some x => x.form == f && head == some f
      | none => !BForm.scaled f
    if past || half || !block then none
    else some { line := l, form := f, scale := sc, passed := (List.range (l - cur)).map (cur + ·) }
  | _ => none

/-- A scale line of a cluster as the array reads it. -/
def Cluster.readScale (c : Cluster) (old : Option Nat) (l : Nat) (f : BForm) : ScaleIn :=
  { form := f, codes := (List.range 64).map (c.wbyte old l), p := (c.wlineAt old l).p }

/-- The scale codes of the block, or 127 throughout. -/
def scalesOf : Option ScaleIn → List (BitVec 8)
  | none => unit127
  | some x => x.codes

/-- Whether the values of a column carry poison: their own line's, or that of the scale line above it (R192). -/
def BAt.poison (b : BAt) (line : Nat → WLine) (j : Nat) : Bool :=
  (line (if BForm.lines b.form = 2 ∧ 32 ≤ j then b.line + 1 else b.line)).p
    || (match b.scale with | some x => x.p | none => false)

/-- The lines that a step reads: its own, and the scale lines on which its cursor stands. -/
def BAt.reads (b : BAt) : List Nat := (List.range (BForm.lines b.form)).map (b.line + ·) ++ b.passed

/-- A queued step of a word has left the queue: the word's record goes with its last. -/
def Cluster.wordTaken (c : Cluster) (word : Nat) : Cluster :=
  let ws := c.fwords.map fun w => if w.serial = word then { w with taken := w.taken + 1 } else w
  { c with fwords := ws.filter fun w => decide (w.taken < w.total) }

/-- BUSY and BUBBLES after an interval (R182). -/
def Cluster.countBusy (c : Cluster) (now : Nat) : Cluster := { c with busy := c.busy + 1, stepAt := some now }
def Cluster.countBubble (c : Cluster) : Cluster :=
  { c with bubbles := putField c.bubbles 63 16 (stopAt (2 ^ 48 - 1) (field c.bubbles 63 16 + 1)) }
def Cluster.countReplay (c : Cluster) : Cluster :=
  { c with bubbles := putField c.bubbles 15 0 (stopAt 65535 (field c.bubbles 15 0 + 1)) }

/-- A weight line or queue entry that a step cannot correct, reported where it is found (R335). -/
def State.reportFeed (s : State) (cl num : Nat) : State := if num = 53 ∨ num = 55 then s.report num cl 0 else s

/-- A step, and every later step of its word, leaves the queue and adds nothing; the fault is raised at point S against
the slot that issued the word (R190). -/
def State.stepFault (s : State) (cl : Nat) (st : FStep) (num : Nat) : State :=
  let s := s.modCluster cl fun c =>
    { c with feed := c.feed.filter (·.word != st.word), doing := none,
             fwords := c.fwords.map fun w => if w.serial = st.word then { w with dead := true } else w }
  (s.reportFeed cl num).raise st.slot { num := num, kind := 3 }

/-- Tile words that a read finds with a single-bit error, and with an uncorrectable one (R197). -/
def State.tileEcc (s : State) (cl z : Nat) : List EccAt × List EccAt :=
  let mine := s.ecc.filter fun e => match e.1 with
    | .tile c k => c == cl && k / 4096 == z
    | _ => false
  ((mine.filter (·.2 == .single)).map (·.1), (mine.filter (·.2 != .single)).map (·.1))

/-- CORR of `CLUSTER.ACCERR` raised by corrections (R199). -/
def addCorr (w : Word) (n : Nat) : Word := putField w 63 48 (stopAt 65535 (field w 63 48 + n))

/-- Single-bit errors of a tile that a reading met: corrected and counted, and the next interval is a replay (R197). -/
def State.correct (s : State) (cl : Nat) (single : List EccAt) : State :=
  if single.isEmpty then s
  else (s.eccClear single).modCluster cl fun c => { c with accerr := addCorr c.accerr single.length, replayDue := true }

/-- A cluster's quad and member number (R83, R206). -/
def State.memberOf (s : State) (l cl : Nat) : Option (Nat × Nat) :=
  let c := s.copyOf l
  let p := (s.cluster cl).page
  let px := p % c.pcol
  let py := p / c.pcol
  if c.quad then some (c.pcol / 2 * (py / 2) + px / 2, px % 2 + 2 * (py % 2)) else none

/-- The cluster of a member of a quad (R83). -/
def State.memberCluster (s : State) (l q m : Nat) : Nat :=
  let c := s.copyOf l
  let w := c.pcol / 2
  pageCluster (s.launch l) c ((2 * (q / w) + m / 2) * c.pcol + 2 * (q % w) + m % 2)

/-- What a step does in an interval: a cause, one of the first three intervals of four, or the addition, with where its B
stood. -/
inductive Taken
  | fault (num : Nat)
  | wait
  | added (c : Cluster) (at_ : BAt)

/-- The intervals that a step has taken (R180): one that was queued again since has taken none. -/
def Cluster.spent (c : Cluster) (p : Pick) (st : FStep) : Nat :=
  match c.doing with
  | some (q, n) => if q = p ∧ st.queuedAt < c.doingAt then n else 0
  | none => 0

/-- A step at the array (R180, R190, R193): `bcl` holds its B and `old` is the interval in which it reads it, `acl` holds
its A. -/
def State.tryStep (s : State) (cl acl bcl : Nat) (old : Option Nat) (p : Pick) (st : FStep) (at_ : Option BAt)
    (planes : BForm → Nat) (spare : Nat) : Taken :=
  let c := s.cluster cl
  let b := s.cluster bcl
  match at_ with
  | none => .fault 49
  | some x =>
    if !pairs st.ty st.pack x.form then .fault 49
    else if x.reads.any fun l => s.eccBad (.wbuf bcl l) then .fault 53
    else if s.eccBad (.feed acl) then .fault 55
    else
      let y : StepIn :=
        { tile := st.tile, aty := st.ty, p := st.pack, vals := st.vals, sa := if st.scales.isEmpty then unit127 else st.scales,
          form := x.form, byte := b.wbyte old, line := x.line, k := planes x.form, bpois := x.poison (b.wlineAt old),
          sb := scalesOf x.scale, spare := spare }
      if !c.scalesAgree y then .fault 50
      else
        let n := c.spent p st
        if BForm.lines x.form = 2 ∧ n < 3 then .wait
        else match c.addStep y with
          | none => .fault 50
          | some c' => .added c' x

/-- An interval spent in a step of four that goes on. -/
def Cluster.goOn (c : Cluster) (now : Nat) (p : Pick) (st : FStep) : Cluster :=
  let n := c.spent p st
  { c.countBusy now with doing := some (p, n + 1), doingAt := if n = 0 then now else c.doingAt }

/-- The tile words that a step read: single-bit errors corrected in word mode, uncorrectable ones marked (R197). -/
def State.readTile (s : State) (cl z : Nat) : State :=
  if (s.cluster cl).accprot then s
  else
    let (single, bad) := s.tileEcc cl z
    (bad.foldl (fun s a => s.eccPut a .marked) s).correct cl single

/-- One ordinary step of the array (R186, R190). -/
def State.headStep (s : State) (cl : Nat) (st : FStep) : State :=
  let c := s.cluster cl
  let fw : FWord := (c.fwords.find? (·.serial == st.word)).getD { serial := st.word, cursor := st.line }
  let tagAt (l : Nat) := (c.wline l).tag
  let head := if fw.taken = 0 then scaleForm tagAt fw.cursor else fw.head
  let p := Pick.own st.word st.index
  match s.tryStep cl cl cl none p st (seekLine tagAt (c.readScale none) head fw.cursor fw.scale) BForm.planes (fmtSpare (s.slot st.slot).fmt) with
  | .fault n => s.stepFault cl st n
  | .wait => s.modCluster cl fun c => c.goOn s.cycle p st
  | .added c' x =>
    let word (w : FWord) : FWord :=
      if w.serial = st.word then { w with cursor := x.line + BForm.lines x.form, scale := x.scale, head := head } else w
    let c' : Cluster := { c'.countBusy s.cycle with
      doing := none, feed := c.feed.erase st, taken := put c.taken st.tile s.cycle, fwords := c.fwords.map word }
    (s.setCluster cl (c'.wordTaken st.word)).readTile cl st.tile

/-- Whether a queued step belongs to a joint operation at a member: it was queued once the operation was open, or the
stopped operation still drops the steps of its A half (R203). -/
def Join.claims (j : Join) (m : Nat) (st : FStep) : Bool :=
  decide (j.start ≤ st.queuedAt) && (!j.done || (j.stop && decide ((j.left[m]?).getD 0 < j.half)))

/-- The operations of a cluster's quad, with its member number. -/
def State.joinsAt (s : State) (cl : Nat) : List (Join × Nat) :=
  match (s.cluster cl).launch with
  | none => []
  | some l => match s.memberOf l cl with
    | none => []
    | some (q, m) => (s.joins.filter fun j => j.launch == l && j.quad == q).map fun j => (j, m)

/-- Joint steps of a tile queued at a member, that its operation uses (R203). -/
def State.jointAt (s : State) (cl m : Nat) (j : Join) : List FStep :=
  (s.cluster cl).feed.filter fun st => st.tile == j.tile && j.claims m st

def State.modJoin (s : State) (id : Nat) (f : Join → Join) : State :=
  { s with joins := s.joins.map fun x => if x.id = id then f x else x }

/-- A fault of a joint step (R190), raised against the slot that issued the word of its A: nothing more is taken, and the
operation completes as after a last step. -/
def State.joinFail (s : State) (cl : Nat) (j : Join) (st : FStep) (num : Nat) : State :=
  let s := (s.modCluster cl fun c => { c with doing := none }).modJoin j.id fun x => { x with stop := true }
  ((s.reportFeed cl num).dueOp (s.cycle + 4) 15 (some j.region) (.joinComplete j.id)).raise st.slot { num := num, kind := 3 }

/-- A's entry taken: it leaves its member's queue when both row members have taken it (R202). -/
def State.freeJoint (s : State) (j : Join) (am acl : Nat) : State :=
  let h := am % 2
  let t (mx : Nat) : Nat := (j.taken[mx + 2 * (am / 2)]?).getD 0
  let both := Nat.min (Nat.min (t 0) (t 1) - h * j.half) j.half
  if both ≤ (j.left[am]?).getD 0 then s
  else match s.jointAt acl am j with
    | [] => s
    | e :: _ => (s.modCluster acl fun a => (({ a with feed := a.feed.erase e } : Cluster).wordTaken e.word)).modJoin j.id
        fun x => { x with left := x.left.set am both }

/-- The A entry of a member's next step of a joint operation, if it is queued, with the cluster that holds it (R202). -/
def State.jointEntry (s : State) (j : Join) (m : Nat) : Option (Nat × FStep) :=
  let k := (j.taken[m]?).getD 0
  if j.stop || j.done || decide (2 * j.half ≤ k) then none
  else
    let am := k / j.half + 2 * (m / 2)
    let acl := s.memberCluster j.launch j.quad am
    ((s.jointAt acl am j)[k % j.half - (j.left[am]?).getD 0]?).map fun st => (acl, st)

/-- Whether a member may take its next joint step: not before tile start + 2, and a value of another member one interval
late (R202, R204). -/
def State.jointReady (s : State) (cl : Nat) (j : Join) (acl : Nat) (st : FStep) : Bool :=
  decide (j.start + 2 ≤ s.cycle) && (match st.ready with
    | none => false
    | some r => decide (r + (if acl = cl then 0 else 1) ≤ s.cycle))

/-- The next step of a joint operation at a member (R202, R204). -/
def State.jointStep (s : State) (cl : Nat) (j : Join) (m acl : Nat) (st : FStep) : State :=
  let k := (j.taken[m]?).getD 0
  let am := k / j.half + 2 * (m / 2)
  let bcl := s.memberCluster j.launch j.quad (m % 2 + 2 * (k / j.half))
  let c := s.cluster cl
  let old := if bcl = cl then none else some (s.cycle - 1)
  let tagAt (l : Nat) := ((s.cluster bcl).wlineAt old l).tag
  let (cur, sl, head) := if k % j.half = 0 then (j.base, none, scaleForm tagAt j.base)
    else (j.curs[m]?).getD (j.base, none, none)
  let p := Pick.joint j.id k
  match s.tryStep cl acl bcl old p st (seekLine tagAt ((s.cluster bcl).readScale old) head cur sl)
      (fun f => if j.on then Nat.min j.planes (BForm.planes f) else BForm.planes f) j.spare.toNat with
  | .fault n => s.joinFail cl j st n
  | .wait => s.modCluster cl fun c => c.goOn s.cycle p st
  | .added c' x =>
    let j' := { j with taken := j.taken.set m (k + 1), curs := j.curs.set m (x.line + BForm.lines x.form, x.scale, head) }
    let s := s.setCluster cl { c'.countBusy s.cycle with doing := none, taken := put c.taken j.tile s.cycle }
    let s := (((s.modJoin j.id fun _ => j').freeJoint j' am acl).readTile cl j.tile)
    if j'.taken.all (· == 2 * j.half) then s.dueOp (s.cycle + 4) 15 (some j.region) (.joinComplete j.id) else s

/-- Steps that a stopped operation's members queue as its A halves leave and add nothing (R203); the record of an
operation that has ended and dropped all of them goes too. -/
def State.dropStopped (s : State) (cl : Nat) : State :=
  let s := (s.joinsAt cl).foldl (fun s jm =>
    if !jm.1.stop then s
    else
      let es := (s.jointAt cl jm.2 jm.1).take (jm.1.half - (jm.1.left[jm.2]?).getD 0)
      let s := s.modCluster cl fun c => es.foldl (fun c e => ({ c with feed := c.feed.erase e } : Cluster).wordTaken e.word) c
      s.modJoin jm.1.id fun x => { x with left := x.left.set jm.2 ((x.left[jm.2]?).getD 0 + es.length) }) s
  { s with joins := s.joins.filter fun x => !(x.done && (!x.stop || x.left.all fun t => decide (x.half ≤ t))) }

/-! ## The order of steps (R186, R203) -/

/-- The operation that a queued step belongs to, with the member number. -/
def State.claimant (s : State) (cl : Nat) (st : FStep) : Option (Join × Nat) :=
  (s.joinsAt cl).find? fun jm => jm.1.tile == st.tile && jm.1.claims jm.2 st

/-- Whether a member has taken its own A entry, which still waits for the other row member (R202). -/
def State.hadOwn (s : State) (cl : Nat) (st : FStep) : Bool :=
  match s.claimant cl st with
  | none => false
  | some (j, m) =>
    let i := (j.left[m]?).getD 0 + ((s.jointAt cl m j).findIdx (· == st))
    decide (i < j.half ∧ m % 2 * j.half + i < (j.taken[m]?).getD 0)

/-- What the array goes to (R186): its oldest queued step not yet taken, where an operation's steps stand in the place of
the member's own A half; or an older step of an operation that draws on another member's queue (log entry 48). -/
def State.pick (s : State) (cl : Nat) : Option (FStep ⊕ (Join × Nat)) :=
  let c := s.cluster cl
  let own : Option (Nat × (FStep ⊕ (Join × Nat))) := (c.feed.find? fun st => !s.hadOwn cl st).map fun st =>
    (st.queuedAt, match s.claimant cl st with | some jm => .inr jm | none => .inl st)
  let away : List (Nat × (FStep ⊕ (Join × Nat))) := (s.joinsAt cl).filterMap fun jm =>
    match s.jointEntry jm.1 jm.2 with
    | some (acl, st) => if acl = cl then none else some (st.queuedAt, .inr jm)
    | none => none
  (away.foldl (fun b x => match b with
    | some y => if x.1 ≤ y.1 then some x else b
    | none => some x) own).map (·.2)

/-- The step under way, if it can go on; else the next one. -/
def State.nextStep (s : State) (cl : Nat) : Option (FStep ⊕ (Join × Nat)) :=
  let c := s.cluster cl
  let under : Option (FStep ⊕ (Join × Nat)) := match c.doing with
    | some (.own w i, _) => (c.feed.find? fun st => st.word == w && st.index == i).map .inl
    | some (.joint id k, _) =>
      ((s.joinsAt cl).find? fun jm => jm.1.id == id && !jm.1.stop && !jm.1.done && (jm.1.taken[jm.2]?).getD 0 == k).map .inr
    | none => none
  match under with
  | some x => some x
  | none => s.pick cl

/-- One interval of a cluster's array (R180 to R182): a replay, a step in queue order, else a bubble. A step that is not
ready holds back every later one. -/
def State.interval (s : State) (cl : Nat) : State :=
  let s := s.dropStopped cl
  let bubble : State := s.modCluster cl Cluster.countBubble
  if (s.cluster cl).replayDue then s.modCluster cl fun c => { c.countReplay with replayDue := false }
  else match s.nextStep cl with
  | none => bubble
  | some (.inl st) => if (match st.ready with | some r => decide (r ≤ s.cycle) | none => false) then (s.headStep cl st).note st.slot st.edge [] [cl] s
    else bubble
  | some (.inr (j, m)) => match s.jointEntry j m with
    | some (acl, st) =>
      if s.jointReady cl j acl st then
        ((s.jointStep cl j m acl st).note (slotKey j.region j.slot) j.edge [] [cl, acl] s).note st.slot st.edge [] [cl, acl] s
      else bubble
    | none => bubble

end Sys2Proof.Machine
end

