-- ==== Sys2Proof/Machine/FabMatrix.lean ====
section
/-! DEFINITION. Major 24: the words of the matrix array (10 R183 to R207). -/

namespace Sys2Proof.Machine

/-- Element-in-cluster of the element under way (R14). -/
def State.ec (s : State) : Nat := s.ctx.elem % 16

/-! ## Feeding A (R184 to R186) -/

/-- The block-scaled types of A. -/
def MTy.scaledA : MTy → Bool
  | .mxf8 | .mxi8 | .mxf4 => true
  | _ => false

/-- K values that a word of W lanes holds (R185). -/
def kValues (t : MTy) (w : Nat) : Nat :=
  match t with
  | .f16 | .bf16 => w / 2
  | .e2m1 => 2 * w
  | .mxf8 | .mxi8 | .mxf4 => 32
  | _ => w

/-- The lane that holds K value k for row-in-element n, and the code's width and lowest bit there (R185). -/
def codeAt (t : MTy) (k n : Nat) : Nat × Nat × Nat :=
  match t with
  | .f16 | .bf16 => (2 * k + n / 2, 16, 16 * (n % 2))
  | .e2m1 | .mxf4 => (k / 2, 4, 8 * n + 4 * (k % 2))
  | _ => (k, 8, 8 * n)

/-- The last lane that step i of a word needs (R185, R186). -/
def lastLane (t : MTy) (p i : Nat) : Nat := (codeAt t (i * p + p - 1) 3).1

/-- The scale lane of a block-scaled word (R185). -/
def scaleLane (t : MTy) : Option Nat :=
  match t with
  | .mxf8 | .mxi8 => some 32
  | .mxf4 => some 16
  | _ => none

/-- The values of step i, row-major, from the lanes of the 16 elements (R185). -/
def stepVals (t : MTy) (p i : Nat) (lanes : Map Lane) : List (BitVec 16 × Bool) :=
  (List.range 64).flatMap fun r => (List.range p).map fun u =>
    let (l, w, b) := codeAt t (i * p + u) (r % 4)
    let x := look {} lanes (64 * (r / 4) + l)
    (BitVec.ofNat 16 (x.v.toNat / 2 ^ b % 2 ^ w), x.p)

/-- The scale codes of the 64 rows (R185). -/
def rowScales (l : Nat) (lanes : Map Lane) : List (BitVec 8) :=
  (List.range 64).map fun r => BitVec.ofNat 8 ((look {} lanes (64 * (r / 4) + l)).v.toNat / 2 ^ (8 * (r % 4)))

/-- The steps that a beat completed at every element queues; a block-scaled step waits for its scale lane (R186). -/
def State.queueBeat (s : State) (t : MTy) (o : SOp) (w : FWord) : Option Cluster :=
  let c := s.cluster s.clu
  let p := packOf (field o.imm 13 12)
  let upto := 8 * (s.fl.beat + 1)
  let add := (List.range w.total).filter fun i => decide (w.pushed ≤ i ∧ lastLane t p i < upto)
  let have_ := (match scaleLane t with | some l => decide (l < upto) | none => true)
  let sc : List (BitVec 8) := match scaleLane t with
    | some l => if have_ then rowScales l w.lanes else []
    | none => []
  let steps : List FStep := if w.dead then [] else add.map fun i =>
    { ready := if have_ then some (s.cycle + 1) else none, queuedAt := s.cycle, edge := s.fl.edge, tile := field o.imm 15 14, ty := t,
      pack := p, region := s.ctx.region, slot := s.key, launch := s.fl.launch, word := w.serial, index := i,
      line := field o.imm 11 0, vals := stepVals t p i w.lanes, scales := sc }
  if 16 < c.feed.length + steps.length then none
  else
    let feed := (if have_ then c.feed.map fun st =>
      if st.word = w.serial ∧ st.ready = none then { st with ready := some (s.cycle + 1), scales := sc } else st else c.feed) ++ steps
    let w := { w with pushed := w.pushed + add.length, seen := [] }
    let ws := c.fwords.filter (·.serial != w.serial)
    some { c with feed := feed, fwords := if w.dead && s.lastBeat o then ws else ws ++ [w] }

/-- The lanes that a beat of `mfa` reads: those beyond a block's scale lane are not read (R185). -/
def State.feedLanes (s : State) (t : MTy) : List Nat :=
  (beatLanes s.fl.beat).filter fun i => match scaleLane t with | some l => decide (i ≤ l) | none => true

def State.feedReads (s : State) (t : MTy) : Reads := { s.maskReads with a := s.feedLanes t }

/-- `mfa`: the lanes join those of the cluster's other elements, and the last element's beat queues the steps, or
raises `FEED_FULL` (R184 to R186). -/
def execMfa (t : MTy) (o : SOp) (s : State) : Res :=
  let ls := s.feedLanes t
  match s.readFault o (s.feedReads t) with
  | some c => .next (s.trapB c)
  | none =>
    let c := s.cluster s.clu
    let id := s.fl.wordId
    let w : FWord := (c.fwords.find? (·.serial == id)).getD
      { serial := id, total := kValues t (width o) / packOf (field o.imm 13 12), cursor := field o.imm 11 0 }
    let w := { w with lanes := putAll w.lanes (ls.map fun i => (64 * s.ec + i, s.laneA o 0 i)),
                      seen := if w.seen.contains s.ec then w.seen else s.ec :: w.seen }
    if w.seen.length < 16 then
      .next (s.setCluster s.clu { c with fwords := c.fwords.filter (·.serial != id) ++ [w] })
    else match s.queueBeat t o w with
      | some c => .next (s.setCluster s.clu c)
      | none =>
        let s := s.setCluster s.clu { c with fwords := c.fwords.filter (·.serial != id) ++ [{ w with seen := [] }] }
        .next (s.trapB 24)

/-! ## The weight buffer (R187 to R189) -/

/-- The cluster with what this cycle's beats overwrite kept for the members of a quad (R202). -/
def Cluster.keepWeights (c : Cluster) (now line : Nat) (bytes : List Nat) : Cluster :=
  let c := if c.wOldAt = now then c else { c with wOld := [], wOldLines := [], wOldAt := now }
  let keep {α : Type} (m : Map α) (k : Nat) (v : α) : Map α := if m.any (·.1 == k) then m else put m k v
  { c with wOldLines := keep c.wOldLines line (c.wline line),
           wOld := bytes.foldl (fun m b => keep m (64 * line + b) (c.wbyte none line b)) c.wOld }

/-- `mfb` (R188): the enabled lanes of the beat written into their line, its tag and its poison. -/
def execMfb (f : BForm) (o : SOp) (s : State) : Res :=
  let en := s.enabled o
  match s.readFault o (s.laneReads o false false) with
  | some c => .next (s.trapB c)
  | none =>
    match en with
    | [] => .next s
    | i0 :: _ =>
      let n := (o.fold.val + 1) / 2
      let line := field o.imm 11 0 + s.ec * n + i0 / 16
      let ls := en.map fun i => (i, s.laneA o 0 i)
      let bytes := ls.flatMap fun x => (bytesOf x.2.v.toNat 4).mapIdx fun j b => (4 * (x.1 % 16) + j, b)
      let c := (s.cluster s.clu).keepWeights s.cycle line (bytes.map (·.1))
      let old := look (0, 0) c.wwrote line
      let done := (if old.1 = s.fl.wordId + 1 then old.2 else 0) |||
        BitVec.ofNat 16 (sumNat ((ls.filter (!·.2.p)).map fun x => 2 ^ (x.1 % 16)))
      let wl := c.wline line
      let wl : WLine := match ls.find? (·.2.p) with
        | some x => { wl with p := true, o := if wl.p then wl.o else x.2.o }
        | none => if done = 0xFFFF ∧ old ≠ (s.fl.wordId + 1, done) then { wl with p := false, o := 0 } else wl
      let c := { c with wbytes := putAll c.wbytes (bytes.map fun b => (64 * line + b.1, b.2)),
                        wlines := put c.wlines line { wl with tag := some (f, bitAt o.imm 12) },
                        wwrote := put c.wwrote line (s.fl.wordId + 1, done) }
      let s := if done = 0xFFFF then s.eccClear [.wbuf s.clu line] else s
      .next (s.setCluster s.clu c)

/-! ## The order of steps and words (R196) -/

/-- The word's first beat at the cluster noted (R196). -/
def State.noteFirst (s : State) : State :=
  if s.fl.beat = 0 ∧ s.ctx.col % 4 = 0 then
    s.modCluster s.clu fun c => { c with firstBeat := put c.firstBeat s.ctx.slot (s.fl.wordId, s.cycle) }
  else s

/-- Whether the tile is not at rest for the word under way (R196). -/
def State.tileBusy (s : State) (z : Nat) : Bool :=
  let c := s.cluster s.clu
  let t0 := (look (0, s.cycle) c.firstBeat s.ctx.slot).2
  (c.feed.any fun st => st.tile == z && decide (st.queuedAt < s.cycle))
    || (c.taken.any fun x => x.1 == z && decide (t0 ≤ x.2))
    || (s.joinsAt s.clu).any fun jm => jm.1.tile == z && !jm.1.done && jm.1.id / 8 != s.fl.wordId

/-- A word on a tile at rest; `f` is what its beat does. -/
def State.onTile (s : State) (o : SOp) (r : Reads) (f : State → State) : State :=
  match s.readFault o r with
  | some c => s.trapB c
  | none =>
    let s := s.noteFirst
    if s.tileBusy (field o.imm 1 0) then s.trapB 25 else f s

/-- `mzero` (R194): this element's four rows become +0; after all 16 elements a new run begins. -/
def execMzero (o : SOp) (s : State) : Res :=
  .next (s.onTile o s.maskReads fun s =>
    let z := field o.imm 1 0
    let cl := s.clu
    let keys := (List.range 4).flatMap fun n => (List.range 64).map fun j => tileKey z (4 * s.ec + n) j
    let s := s.eccClear (keys.map (EccAt.tile cl))
    s.modCluster cl fun c =>
      let seen := look [] c.zeroed z
      let seen := if seen.contains s.ec then seen else s.ec :: seen
      let c := { c with tiles := putAll c.tiles (keys.map fun k => (k, { v := 0 })),
                        sums := c.sums.filter fun x => !(x.1 / 128 == z && x.1 % 128 < 64 && x.1 % 128 / 4 == s.ec) }
      if seen.length < 16 then { c with zeroed := put c.zeroed z seen }
      else { c with zeroed := put c.zeroed z [], runs := put c.runs z {},
                    sums := c.sums.filter fun x => x.1 / 128 != z })

/-! ## Protection of the accumulator (R197 to R199) -/

/-- `CLUSTER.ACCERR` after an uncorrectable error: the first since the last clear. -/
def accErrWord (w : Word) (tile row col kind : Nat) : Word :=
  if bitAt w 0 then w
  else putField (putField (putField (putField (putField w 39 38 tile) 37 32 row) 31 26 col) 25 24 kind) 0 0 1

def State.accErr (s : State) (cl tile row col kind : Nat) : State :=
  s.modCluster cl fun c => { c with accerr := accErrWord c.accerr tile row col kind }

/-- The checksums of a tile checked and corrected (R198): the corrected count, or the first mismatched row and column. -/
def Cluster.checkSums (c : Cluster) (z : Nat) : Cluster × (Nat ⊕ (Nat × Nat)) :=
  let sr := (List.range 64).filterMap fun i => let v := look 0 c.sums (128 * z + i); if v = 0 then none else some (i, v)
  let sc := (List.range 64).filterMap fun j => let v := look 0 c.sums (128 * z + 64 + j); if v = 0 then none else some (j, v)
  let clear (c : Cluster) : Cluster := { c with sums := c.sums.filter fun x => x.1 / 128 != z, accerr := addCorr c.accerr 1 }
  match sr, sc with
  | [], [] => (c, .inl 0)
  | [(i, v)], [(j, w)] =>
    if v = w then
      let t := c.word z i j
      ({ clear c with tiles := put c.tiles (tileKey z i j) { t with v := t.v ^^^ v } }, .inl 1)
    else (c, .inr (i, j))
  | [_], [] => (clear c, .inl 1)
  | [], [_] => (clear c, .inl 1)
  | rs, cs => (c, .inr (((rs.head?).map (·.1)).getD 63, ((cs.head?).map (·.1)).getD 63))

/-- Tile words checked when a word reads them (R197, R198, R200): the count corrected, or the cause. -/
def State.checkTile (s : State) (z : Nat) (mine : Nat → Bool) : State × (Nat ⊕ Nat) :=
  let cl := s.clu
  if s.flCopy.accprot then
    match (s.cluster cl).checkSums z with
    | (c, .inl n) => (s.setCluster cl c, .inl n)
    | (_, .inr (i, j)) => (s.accErr cl z i j 2, .inr 52)
  else
    let (single, bad) := s.tileEcc cl z
    let at_ (e : EccAt) : Nat := match e with | .tile _ k => k % 4096 | _ => 0
    let single := single.filter fun e => mine (at_ e)
    let bad := bad.filter fun e => mine (at_ e)
    let s := (s.eccClear single).modCluster cl fun c => { c with accerr := addCorr c.accerr single.length }
    match bad with
    | [] => (s, .inl single.length)
    | e :: es =>
      let k := (es.map at_).foldl Nat.min (at_ e)
      (((e :: es).foldl (fun s a => s.eccPut a .marked) s).accErr cl z (k / 64) (k % 64) 1, .inr 51)

/-! ## Draining (R195) -/

/-- A tile word scaled by its run and rounded to the drain format (R59, R195). -/
def drainWord (ar : Arith) (t : FltTy) (z : TileWord) (sa sb : BitVec 8) : Coded :=
  let f := FltTy.ff t
  if sa = 0xFF ∨ sb = 0xFF then ⟨FF.nan f, true⟩
  else
    let v := scaleVal ((sa.toNat : Int) + sb.toNat - 254) (FF.f32.val z.v.toNat)
    let r := fround { ar with flush := false } f v
    ⟨r.c, r.p || z.p⟩

/-- The lane 16n + c of a drain (R195). -/
def State.drainLane (s : State) (t : FltTy) (o : SOp) (lane : Nat) : Lane :=
  let c := s.cluster s.clu
  let z := field o.imm 1 0
  let q := field o.imm 3 2
  let ar := s.arith o
  let r := c.run z
  let i := 4 * s.ec + lane / 16
  let word (j : Nat) : Coded :=
    let sa := if r.live then (r.sa[i]?).getD 127 else 127
    let sb := if r.live then (r.sb[j]?).getD 127 else 127
    drainWord ar t (c.word z i j) sa sb
  match t with
  | .f32 => let x := word (16 * q + lane % 16); mkLane (BitVec.ofNat 32 x.c) [] x.p s.idx
  | _ =>
    let x := word (32 * q + lane % 16)
    let y := word (32 * q + 16 + lane % 16)
    mkLane (ofParts 16 [x.c, y.c]) [] (x.p || y.p) s.idx

/-- What a drain's first beat reads: the tile's check, then the 64 lanes (R195, R197, R198). -/
def State.drainRead (s : State) (t : FltTy) (o : SOp) : State × Option Nat :=
  let z := field o.imm 1 0
  let cl := s.clu
  let q := field o.imm 3 2
  let per := match t with | .f32 => 16 | _ => 32
  let mine (k : Nat) : Bool := k / 256 == s.ec && k % 64 / per == q
  let (s, r) := if s.flCopy.accprot && look false (s.cluster cl).drained z then (s, Sum.inl 0) else s.checkTile z mine
  match r with
  | .inr n => (s, some n)
  | .inl n =>
    let s := s.modCluster cl fun c =>
      { c with drained := put c.drained z true, replayDue := c.replayDue || (!s.flCopy.accprot && n != 0) }
    let ls := (List.range 64).map fun i => (i, s.drainLane t o i)
    (s.modEl fun e => { e with scratch := put e.scratch s.ctx.slot { a := ls, t0 := s.cycle } }, none)

/-- `mdrain` (R195): the tile is read at the first beat, and every enabled lane is written at the last. -/
def execMdrain (t : FltTy) (o : SOp) (s : State) : Res :=
  .next (s.onTile o s.maskReads fun s =>
    let (s, bad) := if s.fl.beat = 0 then s.drainRead t o else (s, none)
    match bad with
    | some n => s.trapB n
    | none =>
      let c : Scratch := look {} s.el.scratch s.ctx.slot
      let (c, s) := s.keepScratch o c 0
      if s.lastBeat o then
        s.writeDst o (((List.range 64).filter fun i => c.en.getLsbD i).map fun i => (i, look {} c.a i))
      else s)

/-- `mchk` (R200): the cluster's first element checks the tile, and every element reports its count. -/
def execMchk (o : SOp) (s : State) : Res :=
  .next (s.onTile o s.maskReads fun s =>
    let z := field o.imm 1 0
    let put_ (s : State) (n : Nat) : State :=
      s.writeDst o ((beatLanes 0).map fun i => (i, Lane.clean (if i = 0 then BitVec.ofNat 32 n else 0)))
    match (s.cluster s.clu).chk with
    | some (w, t0, n) =>
      if w = s.fl.wordId ∧ t0 = (look (0, 0) (s.cluster s.clu).firstBeat s.ctx.slot).2 then put_ s n
      else match s.checkTile z fun _ => true with
        | (s, .inr c) => s.trapB c
        | (s, .inl n) => put_ (s.modCluster s.clu fun c => { c with chk := some (s.fl.wordId, s.cycle, n) }) n
    | none => match s.checkTile z fun _ => true with
      | (s, .inr c) => s.trapB c
      | (s, .inl n) => put_ (s.modCluster s.clu fun c => { c with chk := some (s.fl.wordId, s.cycle, n) }) n)

/-! ## Joint operations (R202 to R206) -/

/-- Landed whole planes that a handle reports; a free handle counts as 8 (R204, R242). -/
def State.landedPlanes (s : State) (h : Nat) : Nat :=
  let x := s.handle s.ctx.region h
  match x.st with
  | .free => 8
  | _ => x.planes

/-- The tile start of a joint operation at its leader's element 0 (R203 to R205). -/
def State.openJoin (s : State) (o : SOp) (q m : Nat) : State :=
  let d0 := (s.laneA o 0 0).v
  let d1 := (s.laneA o 0 1).v
  let od := bitAt o.imm 2
  let base := field d0 11 0
  let form := ((s.cluster s.clu).wline base).tag
  let kOf : Option Nat := match form with | some (.bp k, _) => some (k.val + 2) | _ => none
  let bad := field d0 31 24 != 0 || (od && (field d1 31 11 != 0 || kOf.isNone))
  let w := field o.imm 11 9 + 2
  let k := Nat.max 2 (Nat.min w (Nat.min (s.landedPlanes (field o.imm 8 3)) (kOf.getD 8)))
  let j : Join :=
    { id := 8 * s.fl.wordId + q, launch := s.fl.launch, quad := q, tile := field o.imm 1 0, leader := m, start := s.cycle,
      half := field d0 23 12 + 1, base := base, planes := k, spare := BitVec.ofNat 8 (fmtSpare s.fl.fmt),
      region := s.ctx.region, slot := s.ctx.slot, curs := List.replicate 4 (base, none, none), on := od, edge := s.fl.edge, stop := bad, done := bad }
  let s := { s with joins := s.joins ++ [j] }
  let s := s.modLaunch s.fl.launch fun l =>
    { l with joins := put l.joins q (s.fl.wordId + 1, (look (0, 0) l.joins q).2 + 1) }
  if bad then s.raise s.key { num := 49, kind := 3 }
  else
    let s := s.dueOp (s.cycle + 65536) 15 (some s.ctx.region) (.joinStall j.id)
    if od then
      let slice := homeSlice s.ctx.region (field d1 10 9)
      let e := 8 * field d1 8 0
      s.sendUpdate s.ctx.region s.fl.launch slice (s.cycle + 4 + Config.counterDelay s.idx slice)
        ([(e + 1, 1), (e + 2, k)] ++ if k < w then [(e + 3, 1)] else [])
    else s

/-- `mjoin` reads lanes 0 and 1 of its descriptor, lane 1 with `od` alone (R203). -/
def State.joinReads (s : State) (o : SOp) : Reads := { s.maskReads with a := if bitAt o.imm 2 then [0, 1] else [0] }

/-- `mjoin` (R203, R204): member n mod 4 leads operation n of its quad; at its element 0 the operation opens. -/
def execMjoin (o : SOp) (s : State) : Res :=
  .next (s.onTile o (s.joinReads o) fun s =>
    match s.memberOf s.fl.launch s.clu with
    | none => s
    | some (q, m) =>
      let (w, n) := look (0, 0) (s.launch s.fl.launch).joins q
      if w = s.fl.wordId + 1 ∨ m ≠ n % 4 ∨ s.ec ≠ 0 then s else s.openJoin o q m)

end Sys2Proof.Machine
end

