-- ==== Sys2Proof/Machine/FabXfer.lean ====
section
/-! DEFINITION. Transfer requests (06 R104 to R106, 12 R241 to R243) and the integrand tap (13 R262). -/

namespace Sys2Proof.Machine

/-! ## Request packets (R104, R105) -/

/-- 64-byte units that a request moves (R243, R247). -/
def reqUnits (p x : BitVec 128) : Nat := if pktOp p = 1 then extCount x * pktLen p else pktLen p

/-- Whether an extension fits its main packet (R105, R106, R241). -/
def extOk (p x : BitVec 128) : Bool :=
  pktOp x == 15 && field x 59 0 == 0
    && (if pktOp p = 1 then field x 83 60 == 0
        else field x 123 100 == 0 && extPlanes x != 7 && extDeadline x != 0 && extPlanes x != 0
          && pktLen p == extPlanes x * extCount x)

/-- Spaces that R230 defines and the launch's USED word allows (R241). -/
def spaceOk (used : BitVec 64) (sp : Nat) : Bool :=
  sp == 0 || ((sp == 1 || sp == 2) && bitAt used 7) || (decide (16 ≤ sp ∧ sp ≤ 31) && bitAt used 6)

/-- Whether a main packet and its extension are acceptable in a copy (R106, R241). OP 2 with DIR 1 is accepted: log entry 51. -/
def pktOk (c : Copy) (p x : BitVec 128) : Bool :=
  decide (pktOp p ≤ 2 ∧ pktRvp p ≤ 24) && (pktOp p == 0 || extOk p x) && spaceOk c.used (pktSpace p)
    && (pktOp p != 2 || bitAt c.used 5)
    && (if pktSite p then
          match c.sites.find? (·.1 == field p 110 103) with
          | none => false
          | some (_, r) => r.fill == 2 && decide (64 * (field p 102 87 + reqUnits p x) ≤ siteBytes r)
        else pktLoff p % 64 == 0 && decide (pktLoff p + 64 * reqUnits p x ≤ 2 ^ 24))

/-- The packets of a beat, paired with their extensions; none where they do not form requests (R106). -/
def pairPkts : List (Option (BitVec 128)) → Option (List (BitVec 128 × BitVec 128))
  | [none, none] => some []
  | [some p, none] => if pktOp p = 0 then some [(p, 0)] else none
  | [none, some p] => if pktOp p = 0 then some [(p, 0)] else none
  | [some p, some q] =>
    if pktOp p = 1 ∨ pktOp p = 2 then some [(p, q)]
    else if pktOp p = 0 ∧ pktOp q = 0 then some [(p, 0), (q, 0)] else none
  | _ => none

/-- The request moved from its port queue to the transfer unit, while the unit has room (R243): the four ports of the
slice in turn, the oldest request of a port first. -/
def State.promoteOne (s : State) (slice : Nat) : State :=
  let run := (s.reqs.filter fun r => r.slice == slice && (r.st == .running)).length
  if 16 ≤ run then s
  else
    let t := (s.slice slice).turn
    match (List.range 4).findSome? fun i => s.reqs.find? fun r => r.slice == slice && r.port == (t + i) % 4 && r.st == .queued with
    | none => s
    | some r =>
      ({ s with reqs := s.reqs.map fun x => if x.id = r.id then { x with st := .running } else x } : State).modSlice slice
        fun x => { x with turn := (r.port + 1) % 4 }

def State.promote (s : State) (slice : Nat) : State := (List.range 16).foldl (fun s _ => s.promoteOne slice) s

/-- A request accepted (R241, R242): it is queued, its handle fills, and an expert fetch has its deadline. -/
def State.acceptReq (s : State) (port slice : Nat) (px : BitVec 128 × BitVec 128) : State :=
  let (p, x) := px
  let (id, s) := s.nextSerial
  let r : Req := { id := id, slice := slice, port := port, region := s.ctx.region, slot := s.key, launch := s.fl.launch, gen := s.fl.gen,
                   saggar := saggarOf (s.launch s.fl.launch), at_ := s.cycle, edge := s.fl.edge, pkt := p, ext := x }
  let s := { s with reqs := s.reqs ++ [r] }
  let h : Handle := { st := .filling, owner := s.fl.launch, planes := if pktOp p = 2 then 2 else 8,
                      dest := if pktDir p || pktSite p then none else some (pktLoff p, 64 * reqUnits p x) }
  let s := s.setHandle s.ctx.region (pktHandle p) h
  if pktOp p = 2 then s.dueOp (s.cycle + 8 * extDeadline x) 118 none (.fetchDeadline id) else s

/-- The first packet of a beat whose handle is not free, or that an earlier packet of the beat names (R241). -/
def State.busyHandle (s : State) : List Nat → List (BitVec 128 × BitVec 128) → Option Nat
  | _, [] => none
  | seen, (p, _) :: ps =>
    let h := pktHandle p
    if (s.handle s.ctx.region h).st ≠ .free ∨ seen.contains h then some h else s.busyHandle (h :: seen) ps

/-- `treq` (R241): the packets of the beat's enabled lanes are accepted together or refused. -/
def execTreq (o : SOp) (s : State) : Res :=
  let en := s.enabled o
  match s.readFault o (s.laneReads o false false) with
  | some c => .next (s.trapB c)
  | none =>
    let lane (i : Nat) : Lane := s.laneA o 0 i
    let group (g : Nat) : Option (Option (BitVec 128)) :=
      let ls := (List.range 4).map fun i => 8 * s.fl.beat + 4 * g + i
      let on := ls.filter en.contains
      if on.isEmpty then some none
      else if on.length < 4 then none
      else some (some (BitVec.ofNat 128 (ls.foldr (fun i v => (lane i).v.toNat + 2 ^ 32 * v) 0)))
    let full (i : Nat) : Bool := (List.range 4).all fun k => en.contains (i / 4 * 4 + k)
    let pkts := (en.filter full).map lane
    if pkts.any (·.p) then
      if fmtSinkTrap s.fl.fmt then .next (s.trapB 48)
      else .next ((s.trapB 37).recordSinks s.key pkts s.idx 0 3)
    else match group 0, group 1 with
    | some g0, some g1 =>
      match pairPkts [g0, g1] with
      | none => .next (s.trapB 37)
      | some ps =>
        if !ps.all fun px => pktOk s.flCopy px.1 px.2 then .next (s.trapB 37)
        else match s.busyHandle [] ps with
          | some h => .next (s.trapB 83 h)
          | none =>
            let port := field o.imm 1 0
            let slice := homeSlice s.ctx.region (field o.imm 3 2)
            let queued := (s.reqs.filter fun r => r.slice == slice && r.port == port && r.st == .queued).length
            if 64 < queued + ps.length then .next (s.trapB 38)
            else .next ((ps.foldl (fun s px => s.acceptReq port slice px) s).promote slice)
    | _, _ => .next (s.trapB 37)

/-- `dtap` (R262): the samples that travel with the beat, and the tap latch. -/
def execDtap (o : SOp) (s : State) : Res :=
  let en := s.enabled o
  match s.readFault o s.maskReads with
  | some c => .next (s.trapB c)
  | none =>
    let val (i : Nat) : LaneWord :=
      let y : BitVec 33 := (s.fl.taps[i % 8]?).getD 0
      BitVec.ofNat 32 (fround { rnd := o.rnd } .f32 (ofInt y.toInt (-32) false)).c
    let s := s.finishBeat o (en.map fun i => (i, Lane.clean (val i)))
    .next (s.modEl fun e => { e with tapLatch := putAll e.tapLatch (en.map fun i => (i, val i)) })

end Sys2Proof.Machine
end

