-- ==== Sys2Proof/Machine/Beat.lean ====
section
/-! DEFINITION. What each beat reads (08 R144), from the same lists with which the meanings look for `REG_ECC`. -/

namespace Sys2Proof.Machine

/-- The operands of a beat and what it reads; none for a beat that reads nothing. -/
def State.beatReads (s : State) (i : Instr) : Option (SOp × Reads) :=
  match i with
  | .pass o | .ptest o | .abs _ o | .neg _ o | .clz o | .popc o | .fabs _ o | .fneg _ o | .fclass _ o | .fround _ o
  | .cvt _ _ o | .unpack _ o | .send o | .treq o | .mfb _ o | .stw o | .mcast o => some (o, s.laneReads o false false)
  | .add _ o | .sub _ o | .mul _ o | .mulh _ o | .min _ o | .max _ o | .cmp _ _ o | .and o | .or o | .xor o | .andn o
  | .shl o | .shr o | .sra o | .rot o | .bfxN32 o | .bfxI32 o | .fadd _ o | .fsub _ o | .fmul _ o | .fmin _ o
  | .fmax _ o | .fcmp _ _ o | .fscale _ o | .pack _ o => some (o, s.laneReads o true false)
  | .mad _ o | .bfi o | .fma _ o => some (o, s.laneReads o true true)
  | .sel _ o => some (o, s.selReads o)
  | .mxq _ o => some (o, s.mxqReads)
  | .mxdq f o => some (o, s.mxdqReads f o)
  | .bpsplit o => some (o, s.coverReads 8)
  | .bpjoin o => some (o, s.coverReads (field o.imm 2 0 + 2))
  | .perm o => some (o, s.permReads o)
  | .bcast o => some (o, s.bcastReads o)
  | .lsh o => some (o, s.lshReads o)
  | .rsum _ o | .rmax _ o => some (o, s.allReads o)
  | .segscan _ o => some (o, s.scanReads o)
  | .grp o => some (o, s.grpReads o)
  | .lut o | .lutr o => if s.isLut then some (o, s.laneReads o false false) else none
  | .lutc o => if s.isLut then some (o, s.laneReads o true false) else none
  | .lds o | .ldt _ o => some (o, s.bankReads o false false)
  | .ldx o => some (o, s.bankReads o false true)
  | .sts _ o => some (o, s.bankReads o true false)
  | .stx o => some (o, s.bankReads o true true)
  | .ldw o | .ldsy o => some (o, s.fillReads o)
  | .atomAdd _ o | .atomMin _ o | .atomMax _ o | .atomAnd o | .atomOr o | .atomXor o | .atomXchg o | .atomInc o =>
    some (o, s.atomReads o 0)
  | .atomCas o => some (o, s.atomReads o 10)
  | .mfa t o => some (o, s.feedReads t)
  | .recv o | .dtap o | .mzero o | .mdrain _ o | .mchk o => some (o, s.maskReads)
  | .mjoin o => some (o, s.joinReads o)
  | _ => none

/-- The single-bit errors that a beat meets are corrected (R144). -/
def State.mendBeat (s : State) (i : Instr) : State :=
  match s.beatReads i with
  | some (o, r) => s.mendReads o r
  | none => s

end Sys2Proof.Machine
end

