-- ==== Sys2Proof/Machine/SeqMilestone.lean ====
section
/-! DEFINITION. Phase images and milestones as control words see them (07 R128 to R130). -/

namespace Sys2Proof.Machine

/-- Fields of `SEQ.MSTAT` (R128). -/
def Launch.mstate (l : Launch) : Nat := field l.mstat 1 0
def Launch.mpend (l : Launch) : Bool := bitAt l.mstat 2
def Launch.setMstate (l : Launch) (v : Nat) : Launch := { l with mstat := putField l.mstat 1 0 v }
def Launch.setMpend (l : Launch) (v : Bool) : Launch := { l with mstat := putField l.mstat 2 2 (if v then 1 else 0) }
def Launch.setMlast (l : Launch) (v : Nat) : Launch := { l with mstat := putField l.mstat 4 3 v }
def Launch.setMcause (l : Launch) (v : Nat) : Launch := { l with mstat := putField l.mstat 14 8 v }

/-- A region without a copy. -/
def Region.dropCopy (g : Region) (gen : Nat) : Region := { g with copies := g.copies.filter (·.gen != gen) }

/-- The shadow image of a launch discarded, and a load of one abandoned (R130). Its copy stays loaded for reuse, and is
evictable once nothing refers to it (R343). -/
def State.dropShadow (s : State) (l : Nat) : State :=
  let x := s.launch l
  let s := match x.mload with
    | some i => { s with loads := s.loads.filter (·.id != i) }
    | none => s
  s.modLaunch l fun x => ({ x with shadow := none, mload := none } : Launch).setMstate 0

/-- A milestone named and not committed cancelled with LAST = 3, and the shadow image discarded (R130). -/
def State.cancelMilestone (s : State) (l : Nat) : State :=
  let x := s.launch l
  if x.oldGen.isSome ∨ (x.mpend ∧ x.committed) then s
  else
    let s := s.dropShadow l
    if x.mpend then s.modLaunch l fun x => (x.setMpend false).setMlast 3 else s

/-- `mload` (R129): it waits for the old plane's release, then the load starts. -/
def execMload (x : AReg) (s : State) : Res :=
  let l := s.me.launch
  let ln := s.launch l
  if ln.oldGen.isSome then .next (s.setMe { s.me with wait := .release })
  else if ln.mstate = 1 ∨ ln.mstate = 2 ∨ ln.mpend then .next (s.trapW 22)
  else
    let (id, s) := s.nextSerial
    let ld : Load := { id := id, region := s.ctx.region, va := (s.me.areg x).setWidth 72, launch := l, phase := true }
    let s := { s with loads := s.loads ++ [ld] }
    let s := s.modLaunch l fun y => ({ y with mload := some id } : Launch).setMstate 1
    .next (s.setMe { s.me.pcNext with wait := .none })

/-- `mswap` (R130): milestone M is named; its commit falls at M − 256. -/
def execMswap (x : AReg) (s : State) : Res :=
  let l := s.me.launch
  let m := s.me.areg x
  let ln := s.launch l
  if m.toNat < s.cycle + 512 then .next (s.trapW 23)
  else if ln.mpend ∨ ln.mstate = 0 ∨ ln.mstate = 3 then .next (s.trapW 22)
  else
    let s := s.modLaunch l fun y => ({ y with milestone := m, committed := false } : Launch).setMpend true
    .next (s.advance.dueOp (m.toNat - 256) 6 (some s.ctx.region) (.milestoneCommit l))

def execMcancel (s : State) : Res := .next (s.cancelMilestone s.me.launch).advance

end Sys2Proof.Machine
end

