-- ==== Sys2Proof/Machine/Dda.lean ====
section
/-! DEFINITION. The digital differential analyser (13 R250 to R263): cells, the step, domains and the save image. -/

namespace Sys2Proof.Machine

/-! ## Patch words (R252) -/

def patchDom (p : Word) : Nat := field p 63 62
/-- Source code, sign and weight of an input: 0 is dx, 1 to 3 are dy0 to dy2. -/
def patchSrc (p : Word) (i : Nat) : Nat := if i = 0 then field p 60 51 else field p (16 * i - 1) (16 * i - 10)
def patchNeg (p : Word) (i : Nat) : Bool := if i = 0 then bitAt p 61 else bitAt p (16 * i - 11)
def patchSh (p : Word) (i : Nat) : Nat := if i = 0 then 0 else field p (16 * i - 12) (16 * i - 16)

/-- Whether a patch word passes the checks of R258. -/
def patchOk (p : Word) : Bool :=
  field p 50 48 == 0 && (List.range 4).all fun i =>
    let c := patchSrc p i
    if c = 0 then !patchNeg p i && patchSh p i == 0 else c == 1 || decide (0x200 ≤ c)

/-! ## The step (R253, R254) -/

def Region.cell (g : Region) (c : Nat) : Cell := look {} g.cells c
def Region.dom (g : Region) (d : Nat) : Domain := look {} g.doms d
def Region.setDom (g : Region) (d : Nat) (x : Domain) : Region := { g with doms := put g.doms d x }

/-- The increment that an input consumes at its cell's step. -/
def Region.inc (g : Region) (c : Cell) (i : Nat) : Int :=
  let src := patchSrc c.patch i
  if src = 0 then 0
  else if src = 1 then 1
  else
    let x := g.cell (src - 0x200)
    if patchDom x.patch = patchDom c.patch then x.latch else (c.pend[i]?).getD 0

def negIf (n : Bool) (x : Int) : Int := if n then -x else x

/-- The integrand of a cell after its dy inputs. -/
def Region.newY (g : Region) (c : Cell) : Int :=
  [1, 2, 3].foldl (fun y i => y + negIf (patchNeg c.patch i) (g.inc c i) * (2 ^ patchSh c.patch i : Nat)) c.y.toInt

/-- Whether an integrand keeps R250. -/
def yOk (y : Int) : Bool := decide (-(2 ^ 32 : Int) < y ∧ y < 2 ^ 32)

/-- Inputs that a step consumes are cleared: those whose source is another domain's cell. -/
def Cell.consumed (c : Cell) : Cell := { c with pend := Vector.replicate 4 0 }

/-- A cell after one step (R253). -/
def Region.stepCell (g : Region) (c : Cell) : Cell :=
  let y := g.newY c
  let dx := negIf (patchNeg c.patch 0) (g.inc c 0)
  let c := c.consumed
  if dx = 0 then { c with y := BitVec.ofInt 33 y, latch := 0 }
  else
    let s := (c.r.toNat : Int) + dx * y
    let dz := s / 2 ^ 32
    { c with y := BitVec.ofInt 33 y, r := BitVec.ofInt 32 (s - dz * 2 ^ 32), latch := dz }

/-- Increments that a domain's cells emit into other domains (R254). -/
def emissions (g : Region) (d : Nat) : List (Nat × Nat × Nat × Int) :=
  let src := g.cells.filter fun x => patchDom x.2.patch == d && x.2.latch != 0
  src.flatMap fun a => (g.cells.filter fun b => patchDom b.2.patch != d).flatMap fun b =>
    (List.range 4).filterMap fun i => if patchSrc b.2.patch i = 0x200 + a.1 then some (a.1, b.1, i, a.2.latch) else none

/-- `DDA.ERR` (R255): the first overrun since the last clear. -/
def ddaErrWord (old : Word) (steps cell dom reason src : Nat) : Word :=
  if bitAt old 0 then old
  else BitVec.ofNat 64 (steps % 2 ^ 32 * 2 ^ 32 + cell % 512 * 2 ^ 23 + dom % 4 * 2 ^ 21 + reason % 4 * 2 ^ 19
    + src % 512 * 2 ^ 10 + 1)

/-- An overrun (R255): it is judged with the others of its cycle as the domains stop at the cycle's end. -/
def State.overrun (s : State) (r cell reason src : Nat) : State :=
  (s.modRegion r fun g => { g with overruns := g.overruns ++ [(cell, reason, src)] }).dueEff s.cycle 13 (some r) (.ddaHalt r)

/-- The overrun of the lowest cell, the first where one cell has several (R336). -/
def lowestCell : List (Nat × Nat × Nat) → Option (Nat × Nat × Nat)
  | [] => none
  | x :: xs => match lowestCell xs with
    | none => some x
    | some y => if y.1 < x.1 then some y else some x

/-- The slot against which an overrun is raised (R255): the one that started the cell's domain, or else the source's. -/
def Region.overrunSlot (g : Region) (cell reason src : Nat) : Option Nat :=
  match (g.dom (patchDom (g.cell cell).patch)).starter with
  | some k => some k
  | none => if reason = 2 then none else (g.dom (patchDom (g.cell src).patch)).starter

/-- The overruns of a cycle judged (R255, R336): one is recorded, and the cause is deferred once; it is raised at the cycle's
end, so a word of this cycle still executes. -/
def State.judgeOverruns (s : State) (r : Nat) : State :=
  let g := s.region r
  match lowestCell g.overruns with
  | none => s
  | some (cell, reason, src) =>
    let d := patchDom (g.cell cell).patch
    let s := s.setRegion r { g with overruns := [], ddaErr := ddaErrWord g.ddaErr (g.dom d).steps cell d reason src }
    match g.overrunSlot cell reason src with
    | some k => s.raise k { num := 64, kind := 4, at_ := s.cycle }
    | none => s

/-- An uncorrectable cell at a step (R313, cause 67). -/
def State.cellEcc (s : State) (r d : Nat) : State :=
  let s := (s.report 67 r 0).dueEff s.cycle 13 (some r) (.ddaHalt r)
  match ((s.region r).dom d).starter with
  | some k => s.raise k { num := 67, kind := 4, at_ := s.cycle }
  | none => s

/-- One step of a domain (R253 to R256). -/
def State.domainStep (s : State) (r d : Nat) : State :=
  let g := s.region r
  let x := g.dom d
  let mine := g.cells.filter fun c => patchDom c.2.patch == d
  if mine.any fun c => s.eccBad (.cell r c.1) then s.cellEcc r d
  else match mine.find? fun c => !yOk (g.newY c.2) with
  | some c => s.overrun r c.1 2 0
  | none =>
    let g' := { g with cells := putAll g.cells (mine.map fun c => (c.1, g.stepCell c.2)) }
    let left := x.left - 1
    let x' : Domain := { x with
      left := left, steps := (x.steps + 1) % 2 ^ 32, next := s.cycle + x.period, running := left != 0
      steppedAt := some s.cycle }
    let s := s.setRegion r (g'.setDom d x')
    let s := match emissions g' d with
      | [] => s
      | es => s.dueEff s.cycle 11 (some r) (.ddaEmit r es)
    if left = 0 then s else s.dueOp (s.cycle + x.period) 10 (some r) (.ddaStep r ⟨d % 4, Nat.mod_lt _ (by decide)⟩)

/-- One increment at its counter (R254). -/
def State.emitOne (s : State) (r : Nat) (e : Nat × Nat × Nat × Int) : State :=
  let (src, dst, i, dz) := e
  let c := (s.region r).cell dst
  let v := (c.pend[i]?).getD 0
  if i = 0 ∧ v ≠ 0 then s.overrun r dst 1 src
  else if v + dz = 2 ∨ v + dz = -2 then s.overrun r dst 0 src
  else s.modRegion r fun g => { g with cells := put g.cells dst { c with pend := c.pend.set! i (v + dz) } }

/-- The increments of a cycle, in ascending source cell (R254): those of every domain that steps on it. -/
def State.runEmit (s : State) (r : Nat) (es : List (Nat × Nat × Nat × Int)) : State :=
  let mine (d : Due) : Bool := match d.act with
    | .inr (.ddaEmit r' _) => r' == r && decide (d.at_ ≤ s.cycle)
    | _ => false
  let all := es ++ (s.agenda.filter mine).flatMap fun d => match d.act with
    | .inr (.ddaEmit _ l) => l
    | _ => []
  let s := { s with agenda := s.agenda.filter fun d => !mine d }
  let srcs := (List.range 512).filter fun n => all.any (·.1 == n)
  (srcs.flatMap fun n => all.filter (·.1 == n)).foldl (fun s e => s.emitOne r e) s

/-! ## Domains (R256) -/

def State.runDomSet (s : State) (r d n p key : Nat) : State :=
  if n = 0 then s.modRegion r fun g => g.setDom d { g.dom d with running := false, left := 0, period := p, steps := 0 }
  else
    let s := s.modRegion r fun g =>
      g.setDom d { running := true, period := p, left := n, next := s.cycle, steps := 0, starter := some key }
    s.dueOp s.cycle 10 (some r) (.ddaStep r ⟨d % 4, Nat.mod_lt _ (by decide)⟩)

def State.runDomStop (s : State) (r d : Nat) : State :=
  s.modRegion r fun g => g.setDom d { g.dom d with running := false }

/-- The domains stop, and the overruns of the cycle are judged (R255). -/
def State.runDdaHalt (s : State) (r : Nat) : State := (List.range 4).foldl (fun s d => s.runDomStop r d) (s.judgeOverruns r)

/-- `DDA.DOMd` as `csrr` reads it (R256), with PHASE counted from a cycle. -/
def domWord (x : Domain) (from_ : Nat) : Word :=
  BitVec.ofNat 64 ((if x.running then 2 ^ 63 else 0) + x.period % 2 ^ 16 * 2 ^ 47
    + (if x.running then (x.next - from_) % 2 ^ 16 * 2 ^ 31 else 0) + x.left % 2 ^ 31)

/-! ## The save image (R260) -/

def twoBit (x : Int) : Nat := wrapNat x 2
def imageBytes : Nat := 12352

/-- The 128-bit domain records, then the 192-bit cell records. -/
def ddaImage (g : Region) (from_ : Nat) : List Byte :=
  ((List.range 4).flatMap fun d => List.replicate 8 (0 : Byte) ++ bytesOf (domWord (g.dom d) from_).toNat 8)
    ++ (List.range 512).flatMap fun n =>
      let c := g.cell n
      let p (i : Nat) : Nat := twoBit ((c.pend[i]?).getD 0)
      bytesOf (c.patch.toNat * 2 ^ 128 + c.y.toNat * 2 ^ 95 + c.r.toNat * 2 ^ 63 + twoBit c.latch * 2 ^ 61
        + p 0 * 2 ^ 59 + p 1 * 2 ^ 57 + p 2 * 2 ^ 55 + p 3 * 2 ^ 53) 24

def imgDom (b : List Byte) (d : Nat) : BitVec 128 := BitVec.ofNat 128 (natOfBytes (slice b (16 * d) 16))
def imgCell (b : List Byte) (n : Nat) : BitVec 192 := BitVec.ofNat 192 (natOfBytes (slice b (64 + 24 * n) 24))

/-- Whether an image passes the checks of `drest` (R260). -/
def imageOk (b : List Byte) : Bool :=
  (List.range 4).all (fun d =>
    let w := imgDom b d
    field w 63 0 == 0 && (!bitAt w 127 || decide (1 ≤ field w 126 111 ∧ 1 ≤ field w 110 95 ∧ field w 110 95 ≤ field w 126 111)))
  && (List.range 512).all fun n =>
    let w := imgCell b n
    patchOk (BitVec.ofNat 64 (field w 191 128)) && field w 52 0 == 0 && yOk (sextNat (field w 127 95) 33)
      && [61, 59, 57, 55, 53].all fun i => field w (i + 1) i != 2

/-- A region's cells and domains from an image, on cycle tc (R260). -/
def Region.fromImage (g : Region) (b : List Byte) (tc key : Nat) : Region :=
  let cells := (List.range 512).filterMap fun n =>
    let w := imgCell b n
    if w = 0 then none
    else
      let t (i : Nat) : Int := sextNat (field w (i + 1) i) 2
      some (n, ({ y := BitVec.ofNat 33 (field w 127 95), r := BitVec.ofNat 32 (field w 94 63),
                  patch := BitVec.ofNat 64 (field w 191 128), latch := t 61, pend := #v[t 59, t 57, t 55, t 53] } : Cell))
  let doms := (List.range 4).map fun d =>
    let w := imgDom b d
    let run := bitAt w 127
    (d, ({ running := run, period := field w 126 111, left := field w 94 64, next := tc + field w 110 95,
           steps := 0, starter := if run then some key else (g.dom d).starter } : Domain))
  { g with cells := cells, doms := doms }

/-- Whether a domain runs on a cycle: its last step stops it at that cycle's end. -/
def Domain.runsOn (x : Domain) (now : Nat) : Bool := x.running || x.steppedAt == some now

/-- Whether a step or an emission of a region is still to come on this cycle (R263). -/
def State.stepsDue (s : State) (r : Nat) : Bool :=
  s.agenda.any fun d => decide (d.at_ ≤ s.cycle) && match d.act with
    | .inl (.ddaStep q _) | .inr (.ddaEmit q _) => q == r
    | _ => false

/-- The steps of the running domains of a region put on the agenda. -/
def State.scheduleDoms (s : State) (r : Nat) : State :=
  (List.range 4).foldl (fun s d =>
    let x := (s.region r).dom d
    if x.running && x.left != 0 then s.dueOp x.next 10 (some r) (.ddaStep r ⟨d % 4, Nat.mod_lt _ (by decide)⟩) else s) s

end Sys2Proof.Machine
end

