-- ==== Sys2Proof/Machine/Points.lean ====
section
/-! DEFINITION. Rendezvous points (17 R285 to R293): the check, signals, bindings, and drops. -/

namespace Sys2Proof.Machine

/-- One round of the check (R288). -/
def Point.flip (x : Point) : Point :=
  if x.init && decide (x.count.toNat ≤ x.arr.toNat) then { x with ph := x.ph + 1, arr := x.next, next := 0 } else x

/-- `check(x)`: ARR then NEXT can each complete a phase, and no third can (R288). -/
def Point.check (x : Point) : Point := x.flip.flip.flip

/-- The point that a launch's wN stands for: its own, or the shared point it is bound to (R291). -/
def State.target (s : State) (l w : Nat) : Nat × Nat :=
  match (s.point l w).link with
  | some t => t
  | none => (l, w)

/-- The slice that holds a launch's points (R285). -/
def State.pointSlice (s : State) (l : Nat) : Nat := homeSlice (s.launch l).region 0

/-- `SLICE.ORPHANS` after a dropped signal (R293). -/
def orphanWord (old : Word) (saggar point kind : Nat) : Word :=
  let n := stopAt (2 ^ 32 - 1) (field old 63 32 + 1)
  if bitAt old 0 then putField old 63 32 n
  else BitVec.ofNat 64 (n * 2 ^ 32 + saggar % 4096 * 2 ^ 20 + point % 32 * 2 ^ 15 + kind % 2 * 2 ^ 14 + 1)

/-- A signal at a point whose owner is gone is dropped, counted and reported (R293). -/
def State.orphan (s : State) (l w kind : Nat) : State :=
  let sl := s.pointSlice l
  let s := s.modSlice sl fun x => { x with orphans := orphanWord x.orphans (saggarOf (s.launch l)).toNat w kind }
  s.report 88 sl (s.slice sl).orphans.toNat

/-- Whether a point can take a signal. -/
def State.pointLives (s : State) (t : Nat × Nat) : Bool :=
  !(s.point t.1 t.2).gone && (s.launch t.1).stage == .running

/-- A request signal: an arrival for phase PH (R290). -/
def State.signalPoint (s : State) (l w : Nat) : State :=
  let t := s.target l w
  if !s.pointLives t then s.orphan t.1 t.2 0
  else
    let x := s.point t.1 t.2
    s.setPoint t.1 t.2 ({ x with arr := x.arr + 1 } : Point).check

/-- A point with the arrival of a slot that shows the count AC: in the open phase, or in the next (R288). -/
def Point.arrive (x : Point) (ac : BitVec 16) : Option Point :=
  let d := ac - x.ph
  if d = 0 then some (Point.check { x with arr := x.arr + 1 })
  else if d = 1 then some (Point.check { x with next := x.next + 1 })
  else none

/-- The outcome of a slot's arrival at its point (R288): the cause, or the state with the arrival counted. -/
def State.arrivePoint (s : State) (key w : Nat) : State × Option Nat :=
  let sl := s.slot key
  let t := s.target sl.launch w
  let ac := look 0 sl.ac w
  if !s.pointLives t then (s.orphan t.1 t.2 1, none)
  else match (s.point t.1 t.2).arrive ac with
    | some x => ((s.setPoint t.1 t.2 x).modSlot key fun sl => { sl with ac := put sl.ac w (ac + 1) }, none)
    | none => (s, some 80)

/-- The arrival of a slot whose launch has stopped or gone: counted where the point's owner runs on, else dropped (R291, R293). -/
def State.arriveAfter (s : State) (l w : Nat) (ac : BitVec 16) : State :=
  let t := s.target l w
  if !s.pointLives t then s.orphan t.1 t.2 1
  else match (s.point t.1 t.2).arrive ac with
    | some x => s.setPoint t.1 t.2 x
    | none => s

/-- Fields of the register of `rvinit` (R287). -/
def rvLink (v : Word) : Bool := bitAt v 63
def rvSlice (v : Word) : Nat := field v 62 55
def rvKey (v : Word) : BitVec 16 := BitVec.ofNat 16 (field v 47 32)
def rvCount (v : Word) : BitVec 16 := BitVec.ofNat 16 (field v 15 0)

/-- The shared point of a saggar and key that a slice holds (R291). -/
def State.findShared (s : State) (slice : Nat) (g : BitVec 12) (k : BitVec 16) : Option (Nat × Nat) :=
  s.launches.findSome? fun e =>
    if e.2.stage == .running && saggarOf e.2 == g && homeSlice e.2.region 0 == slice then
      ((List.range 24).find? fun w =>
        let x := s.point e.1 w
        x.init && x.key == k && x.link.isNone && !x.gone).map fun w => (e.1, w)
    else none

/-- Whether the register of `rvinit` breaks no rule of its fields (R287). -/
def rvInitOk (v : Word) : Bool :=
  field v 54 48 == 0 && field v 31 16 == 0
    && (if rvLink v then rvCount v == 0 && decide (rvSlice v < 192) else rvSlice v == 0 && rvCount v != 0)

/-- The outcome of `rvinit` at its point (R287, R291). -/
def State.initPoint (s : State) (key w : Nat) (v : Word) : State × Option Nat :=
  let l := (s.slot key).launch
  let x := s.point l w
  let g := saggarOf (s.launch l)
  if x.init || x.link.isSome || !rvInitOk v then (s, some 81)
  else if rvLink v then
    match s.findShared (rvSlice v) g (rvKey v) with
    | some (l', w') => if l' = l ∨ rvKey v = 0 then (s, some 81)
                       else (s.setPoint l w { x with link := some (l', w'), key := rvKey v }, none)
    | none => (s, some 81)
  else if rvKey v ≠ 0 ∧ (s.findShared (s.pointSlice l) g (rvKey v)).isSome then (s, some 81)
  else (s.setPoint l w (Point.check { x with init := true, count := rvCount v, key := rvKey v }), none)

/-- Whether a wait for the end of phase WC is satisfied (R289). -/
def waitDone (ph wc : BitVec 16) : Bool := decide (1 ≤ (ph - wc).toNat ∧ (ph - wc).toNat ≤ 32767)

/-- The word that `csrr` reads of a point (R292). -/
def State.pointWord (s : State) (l w : Nat) : Word :=
  let own := s.point l w
  let t := s.target l w
  let x := s.point t.1 t.2
  BitVec.ofNat 64 ((if x.init then 2 ^ 63 else 0) + (if own.key ≠ 0 ∨ own.link.isSome then 2 ^ 62 else 0)
    + x.ph.toNat * 2 ^ 32 + x.arr.toNat * 2 ^ 16 + x.next.toNat)

end Sys2Proof.Machine
end

