-- ==== Sys2Proof/Machine/Store.lean ====
section
/-! DEFINITION. The schedule store as the fetch units and the sequencer read it (02 R25, R30, R36, 06 R91). -/

namespace Sys2Proof.Machine

def storeBytesAt (g : Region) (a n : Nat) : List Byte := (List.range n).map fun i => look 0 g.store (a + i)
def storeBytesPut (m : Map Byte) (a : Nat) : List Byte → Map Byte
  | [] => m
  | b :: bs => storeBytesPut (put m a b) (a + 1) bs

/-- Element rows of a copy's page set. -/
def copyRows (c : Copy) : Nat := 4 * c.prow

/-- Where the word of a row of a schedule line stands: line `l` counted from the kernel's SLOFF. -/
def lineAddr (c : Copy) (k : Kernel) (l row : Nat) : Nat := c.base + 10 * (copyRows c * (k.sloff + l) + row)

/-- The words of a line, one per row of the page set. -/
def lineWords (g : Region) (c : Copy) (k : Kernel) (l : Nat) : List SchedWord :=
  (List.range (copyRows c)).map fun r => schedOfBytes (storeBytesAt g (lineAddr c k l r) 10)

/-- The beats of a line: the largest FOLD + 1 among its rows (log entry 6). -/
def lineBeats (ws : List SchedWord) : Nat := maxNat (ws.map fun w => field w 67 65 + 1)

/-- Where control word n of a kernel stands. -/
def ctrlAddr (c : Copy) (k : Kernel) (n : Nat) : Nat := c.base + c.progOff + k.cpoff + 5 * n
def ctrlWordAt (g : Region) (c : Copy) (k : Kernel) (n : Nat) : CtrlWord :=
  ctrlOfBytes (storeBytesAt g (ctrlAddr c k n) 5)

end Sys2Proof.Machine
end

