-- ==== Sys2Proof/Machine/SeqIssue.lean ====
section
/-! DEFINITION. Loops, runs, hold, wake and control tokens (07 R124 to R127). -/

namespace Sys2Proof.Machine

/-- Loop descriptor fields (R124). -/
def descLine0 (d : Word) : Nat := field d 63 48
def loopLines (d : Word) : Nat := field d 47 44 + 1
def runLines (d : Word) : Nat := field d 47 32 + 1
def loopStage (d : Word) (j : Nat) : Nat := field d (13 + 2 * j) (12 + 2 * j)

/-- Lines of an issue. -/
def Issue.lines (i : Issue) : Nat :=
  match i.kind with
  | .loop => loopLines i.desc
  | _ => runLines i.desc

/-- Pipeline stages of a loop: 1 + the largest stage. -/
def loopStages (d : Word) : Nat := 1 + maxNat ((List.range (loopLines d)).map (loopStage d))
/-- Iterations a loop issues: N + s − 1. -/
def Issue.iters (i : Issue) : Nat :=
  match i.kind with
  | .loop => i.n + loopStages i.desc - 1
  | _ => 1

/-- Whether line j of iteration i is live (R124). -/
def Issue.live (x : Issue) (i j : Nat) : Bool :=
  match x.kind with
  | .loop => decide (loopStage x.desc j ≤ i ∧ i < x.n + loopStage x.desc j)
  | _ => true

/-- The plane that an issue reads: the active one, or the old one of a milestone switch (R131). -/
def State.planeOf (s : State) (key : Nat) (old : Option Nat) : Copy :=
  match old with
  | some g => s.copy (key / 8) g
  | none => s.copyOf (s.slot key).launch

def State.lineOf (s : State) (key : Nat) (old : Option Nat) (line : Nat) : List SchedWord :=
  let c := s.planeOf key old
  lineWords (s.region (key / 8)) c (kernelOf c (s.slot key).kernel) line

/-- Whether a descriptor is one that issues (R124). -/
def State.descOk (s : State) (key : Nat) (isLoop : Bool) (d : Word) : Bool :=
  let k := s.kernelAt key
  if isLoop then
    decide (descLine0 d + loopLines d ≤ k.slcnt) && field d 11 0 == 0
      && (List.range 16).all (fun j => decide (j < loopLines d) || loopStage d j == 0)
      && decide (sumNat ((List.range (loopLines d)).map fun j => lineBeats (s.lineOf key none (descLine0 d + j))) ≤ k.ii)
  else decide (descLine0 d + runLines d ≤ k.slcnt) && field d 31 0 == 0

/-- Whether the slot's loop or run, or one that a trap set back, has beats to send. -/
def Slot.issuing (sl : Slot) : Bool := sl.cur.kind != .idle || !sl.following.isEmpty

/-- Whether a word that waits for the slot's loop or run still waits on a cycle: also on that of its last beat (R125). -/
def Slot.sending (sl : Slot) (now : Nat) : Bool := sl.issuing || sl.sentAt == some now

/-- A loop or run: it waits for the one before it, and its first beat leaves the edge on the slot's first turn at or
after 4 cycles on (R124, R125); in a handler it is `TRAP_NEST` (R310). -/
def State.startIssue (s : State) (kind : IssueKind) (d : Word) (n : Nat) : State :=
  if s.me.active then s.trapW 115
  else if s.me.sending s.cycle then s.setMe { s.me with wait := .loop }
  else if !s.descOk s.key (kind == .loop) d then s.trapW 20
  else if kind = .loop ∧ n = 0 then s.setMe { s.me.pcNext with wait := .none }
  else
    let (id, s) := s.nextSerial
    s.setMe { s.me.pcNext with
      wait := .none, cur := { kind := kind, desc := d, n := n, startAt := s.cycle + 4, serial := id } }

def execLoop (n desc : AReg) (s : State) : Res :=
  .next (s.startIssue .loop (s.me.areg desc) (field (s.me.areg n) 31 0))
def execRun (desc : AReg) (s : State) : Res := .next (s.startIssue .run (s.me.areg desc) 1)

/-! ## Hold and wake (R126) -/

/-- The slots of a set that belong to the launch of the slot under way. -/
def State.mySet (s : State) (set : BitVec 8) : BitVec 8 :=
  BitVec.ofNat 8 (sumNat ((List.range 8).map fun i =>
    let sl := s.slot (slotKey s.ctx.region i)
    if set.getLsbD i && sl.bound && sl.launch == s.me.launch then 2 ^ i else 0))

/-- Whether a slot will be held once the words that have executed take effect. -/
def State.willHold (s : State) (region i : Nat) : Bool :=
  s.agenda.foldl (fun h d => match d.act with
    | .inr (.hold r set) => h || (r == region && set.getLsbD i)
    | .inr (.wake r set) => h && !(r == region && set.getLsbD i)
    | _ => h) (s.slot (slotKey region i)).held

def execHold (slots : BitVec 8) (s : State) : Res :=
  let set := s.mySet slots
  let mine := (List.range 8).filter fun i =>
    let sl := s.slot (slotKey s.ctx.region i)
    sl.bound && sl.launch == s.me.launch && !sl.ended
  if mine.all fun i => set.getLsbD i || s.willHold s.ctx.region i then .next (s.trapW 21)
  else .next (s.advance.dueEff (s.cycle + 4) 20 (some s.ctx.region) (.hold s.ctx.region set))

def execWake (slots : BitVec 8) (s : State) : Res :=
  .next (s.advance.dueEff (s.cycle + 4) 20 (some s.ctx.region) (.wake s.ctx.region (s.mySet slots)))

/-- Slots of a set held or let go. -/
def State.runHold (s : State) (region : Nat) (set : BitVec 8) (on : Bool) : State :=
  (List.range 8).foldl (fun s i => if set.getLsbD i then s.modSlot (slotKey region i) fun sl => { sl with held := on } else s) s

/-! ## Control tokens (R127) -/

def execCtok (line : CtokLine) (s : State) : Res :=
  .next (s.advance.dueEff (s.cycle + 4) 20 (some s.ctx.region) (.token s.key line s.me.unit))

def State.runToken (s : State) (key : Nat) (line : CtokLine) (unit : BitVec 24) : State :=
  s.modSlot key fun sl => match line with
    | .step => { sl with ctr2 := sl.ctr2 + 1 }
    | .clear => { sl with ctr2 := 0 }
    | .unit => { sl with ctr3 := unit }

/-- `SLOT.FRET` takes a value (R135). -/
def State.runFret (s : State) (key : Nat) (v : Word) : State := s.modSlot key fun sl => { sl with fret := v }

end Sys2Proof.Machine
end

