-- ==== Sys2Proof/Machine/SeqSys.lean ====
section
/-! DEFINITION. Traps, returns, control and status registers, halt and the readback words (20 R314 to R318, 23 R344,
R348, R349). -/

namespace Sys2Proof.Machine

/-- `trap` (R315): EPC is the next word. -/
def execTrap (code : BitVec 16) (s : State) : Res :=
  .next (s.deliver s.key { num := 114, kind := 0, code := code.toNat } (s.me.pc + 1))

/-- The return from an exception (R316): the held cause is delivered in place, or the slot goes on from EPC and the saved
issue position. -/
def State.returnTrap (s : State) : State :=
  let sl := s.me
  if !sl.active then s.trapW 117
  else if causeClass sl.cnum ≠ .R then s.terminate sl.launch 115 s.ctx.slot
  else if sl.pend then
    if !sl.trapOn then s.terminate sl.launch sl.pnum s.ctx.slot
    else if (s.kernelAt s.key).words ≤ sl.entry then s.terminate sl.launch 115 s.ctx.slot
    else s.setMe { sl with cause := putField (putField sl.cause 62 62 0) 6 0 sl.pnum, pc := BitVec.ofNat 24 sl.entry }
  else s.setMe { sl with cause := putField sl.cause 63 63 0, pc := sl.epc.setWidth 24 }

def execEret (s : State) : Res := .next s.returnTrap

/-! ## Reading registers (R114, R317) -/

/-- `REGION.LOC` (R18). -/
def locWord (r : Nat) : Word :=
  BitVec.ofNat 64 (r / 2 * 2 ^ 16 + r * 2 ^ 10 + r / 6 * 2 ^ 7 + r % 6 / 2 * 2 ^ 5 + r % 2 * 2 ^ 4)

/-- Generations that a region's launches refer to (R343): active planes, shadow planes, and old planes not released. -/
def State.refs (s : State) (r : Nat) : List Nat :=
  s.launches.flatMap fun e =>
    if e.2.region = r ∧ (e.2.stage = .placed ∨ e.2.stage = .running) then [e.2.gen] ++ e.2.shadow.toList ++ e.2.oldGen.toList else []

/-- `SEQ.GEN` (R344): a region lists its copies in the order of their loads, the oldest first. -/
def State.genWord (s : State) (r : Nat) : Word :=
  let oldest := (((s.region r).copies.find? fun c => (s.refs r).contains c.gen).map (·.gen)).getD 0
  BitVec.ofNat 64 (oldest % 2 ^ 32 * 2 ^ 32 + (s.region r).lastGen % 2 ^ 32)

/-- The cluster of page p of the reading slot's page set (R182). -/
def State.pageOf (s : State) (p : Nat) : Option Nat :=
  let c := s.copyOf s.me.launch
  if p < pagesOf c then some (pageCluster (s.launch s.me.launch) c p) else none

/-- A cluster register (R182, R199). -/
def State.clusterCsr (s : State) (p r : Nat) : Word :=
  match s.pageOf p with
  | none => 0
  | some cl =>
    let c := s.cluster cl
    match r with
    | 0 => if c.accprot then 1 else 0
    | 1 => c.accerr
    | 2 => c.busy
    | 3 => c.bubbles
    | _ => 0

/-- The site record behind a `SITE.BASE` number, for FILL 3 and 4 (R233). -/
def State.baseSite (s : State) (n : Nat) : Option Site :=
  match (s.copyOf s.me.launch).sites.find? (·.1 == n) with
  | some (_, x) => if x.fill = 3 ∨ x.fill = 4 then some x else none
  | none => none

/-- `SLOT.WINMISS` as it reads (R142): SHORT is 4,095 once the late data has not come within 4,095 beats. -/
def Slot.missWord (sl : Slot) (now : Nat) : Word :=
  match sl.late with
  | some w => if w.close + 8 * 4095 < now then putField sl.winmiss 21 10 4095 else sl.winmiss
  | none => sl.winmiss

/-- What `csrr` reads: the value, or the cause (R317, R233). -/
def State.csrRead (s : State) (n : Nat) : Except Nat Word :=
  let sl := s.me
  let l := s.launch sl.launch
  let g := s.region s.ctx.region
  let blk (hi lo : Nat) : Word := BitVec.ofNat 64 (field l.block hi lo)
  if n = 0 then .ok (sl.fmt.setWidth 64)
  else if n = 1 then .ok (BitVec.ofNat 64 sl.rank)
  else if n = 2 then .ok (BitVec.ofNat 64 l.slots.length)
  else if n = 3 then .ok (sl.unit.setWidth 64)
  else if n = 4 then .ok (sl.depth.setWidth 64)
  else if n = 5 then .ok sl.poison
  else if n = 6 then .ok (sl.missWord s.cycle)
  else if n = 7 then .ok sl.siteerr
  else if n = 8 then .ok sl.tvec
  else if n = 9 then .ok sl.epc
  else if n = 10 then .ok sl.cause
  else if n = 11 then .ok sl.tval
  else if n = 12 then .ok sl.fret
  else if n = 0x10 then .ok (l.mstat.setWidth 64)
  else if n = 0x11 then .ok (BitVec.ofNat 64 s.cycle)
  else if n = 0x12 then .ok (s.genWord s.ctx.region)
  else if 0x40 ≤ n ∧ n < 0x58 then .ok (s.pointWord sl.launch (n - 0x40))
  else if n = 0x100 then .ok (blk 447 416)
  else if n = 0x101 then .ok (blk 273 210)
  else if n = 0x102 then .ok (blk 209 146)
  else if n = 0x103 then .ok (blk 145 82)
  else if n = 0x200 then .ok (locWord s.ctx.region)
  else if n = 0x201 then .ok (g.winstretch.setWidth 64)
  else if n = 0x202 then .ok g.wall
  else if n = 0x300 then .ok g.ddaErr
  else if 0x304 ≤ n ∧ n < 0x308 then .ok (domWord (g.dom (n - 0x304)) s.cycle)
  else if 0x400 ≤ n ∧ n < 0x500 then .ok (s.clusterCsr ((n - 0x400) / 8) (n % 8))
  else if 0x800 ≤ n ∧ n < 0x900 then
    match s.baseSite (n - 0x800) with
    | some _ => .ok (look 0 sl.siteBase (n - 0x800))
    | none => .error 33
  else .error 116

def execCsrr (d : AReg) (n : BitVec 12) (s : State) : Res :=
  match s.csrRead n.toNat with
  | .ok v => .next (s.writeA d v)
  | .error c => .next (s.trapW c)

/-! ## Writing registers (R317) -/

/-- A write's clear takes effect from the slot's next turn. -/
def State.clearNext (s : State) (on : Bool) (i : Instr) : State :=
  if on then s.dueOp (s.cycle + 8) 3 (some s.ctx.region) i else s

/-- The state after `csrw` acts on register n, or the cause. The PC is not yet moved. -/
def State.csrWrite (s : State) (n : Nat) (v : Word) : Except Nat State :=
  let sl := s.me
  let k := s.key
  if n = 0 then .ok (s.setMe { sl with fmt := v.setWidth 32 &&& 0xFF06 })
  else if n = 3 then .ok (s.setMe { sl with unit := v.setWidth 24 })
  else if n = 5 then .ok (s.clearNext (bitAt v 1) (.poisonOriginClr k))
  else if n = 6 then .ok (s.clearNext (bitAt v 1) (.winmissClr k))
  else if n = 7 then .ok (s.clearNext (bitAt v 1) (.siteerrClr k))
  else if n = 8 then .ok (s.dueEff (s.cycle + 8) 3 (some s.ctx.region) (.tvec k (v &&& 0x8000000000FFFFFF)))
  else if n = 9 then .ok (s.setMe { sl with epc := v &&& 0xFFFFFF })
  else if n = 1 ∨ n = 2 ∨ n = 4 ∨ n = 10 ∨ n = 11 ∨ n = 12 ∨ n = 0x10 ∨ n = 0x11 ∨ n = 0x12 then .ok s
  else if (0x40 ≤ n ∧ n < 0x58) ∨ (0x100 ≤ n ∧ n < 0x104) ∨ n = 0x200 ∨ n = 0x201 ∨ (0x304 ≤ n ∧ n < 0x308) then .ok s
  else if n = 0x202 then .ok (s.clearNext (bitAt v 0) (.wallClr s.ctx.region))
  else if n = 0x300 then .ok (s.clearNext (bitAt v 1) (.ddaErrClr s.ctx.region))
  else if 0x400 ≤ n ∧ n < 0x500 then
    match s.pageOf ((n - 0x400) / 8) with
    | some cl => .ok (s.clearNext (n % 8 == 1 && bitAt v 1) (.accerrClr cl))
    | none => .ok s
  else if 0x800 ≤ n ∧ n < 0x900 then
    match s.baseSite (n - 0x800) with
    | some _ => .ok (s.setMe { sl with siteBase := put sl.siteBase (n - 0x800) (v &&& 0xF00FFFFFFFFFFFC0) })
    | none => .error 33
  else .error 116

def execCsrw (x : AReg) (n : BitVec 12) (s : State) : Res :=
  match s.csrWrite n.toNat (s.me.areg x) with
  | .ok s => .next s.advance
  | .error c => .next (s.trapW c)

def State.runTvec (s : State) (key : Nat) (v : Word) : State := s.modSlot key fun sl => { sl with tvec := v }

/-! ## Halt and readback -/

/-- `halt` (R318): it waits for the current loop or run, and in a handler, whose issue is stopped, it ends at once. A
cause still undelivered terminates the launch. -/
def execHalt (s : State) : Res :=
  if s.me.sending s.cycle && !s.me.active then .next (s.setMe { s.me with wait := .loop })
  else .next (s.me.raised.foldl (fun s' r => s'.raise s.key r) (s.setMe s.me.stopped))

/-- The measures of `nrg` (R348). -/
def State.measure (s : State) (m : Nat) : Nat :=
  let l := s.launch s.me.launch
  match m with
  | 0 => l.energy
  | 1 => l.res
  | 2 => l.windows
  | 3 => s.me.gate
  | 4 => s.kilnBudget.toNat
  | 5 => s.kilnBase.toNat
  | 6 => s.kilnReserved
  | _ => field s.kilnWindow 19 0

def execNrg (d : AReg) (m : Fin 8) (s : State) : Res :=
  let v := BitVec.ofNat 64 (s.measure m.val)
  .next ((s.setMe { s.me with wait := .timed }).dueEff (s.cycle + 16) 20 (some s.ctx.region) (.value s.key d v))

def execGen (d : AReg) (s : State) : Res := .next (s.writeA d (BitVec.ofNat 64 (s.launch s.me.launch).gen))

end Sys2Proof.Machine
end

