-- ==== Sys2Proof/Machine/Retire.lean ====
section
/-! DEFINITION. Retirement, refusal and the completion token (04 R68, R69, R72, 23 R340 to R342, R345). -/

namespace Sys2Proof.Machine

/-! ## Fields of the launch parameter block (R67) -/

def Launch.units (l : Launch) : Nat := field l.block 447 416
def Launch.barrier (l : Launch) : Bool := bitAt l.block 415
def Launch.argv (l : Launch) : Bool := bitAt l.block 414
def Launch.argSite (l : Launch) : Nat := field l.block 401 394
def Launch.argLen (l : Launch) : Nat := field l.block 393 378
def Launch.cplva (l : Launch) : Nat := field l.block 377 306
def Launch.ctag (l : Launch) : Nat := field l.block 305 274

/-- The completion token of a launch on its retirement cycle (R342). -/
def tokenBits (l : Launch) (now : Nat) : Nat :=
  l.ctag * 2 ^ 480 + l.status % 4 * 2 ^ 478 + (if l.status = 2 ∨ l.status = 3 then l.cause % 128 else 0) * 2 ^ 471
    + l.port % 16 * 2 ^ 467 + (if l.status = 3 then l.cslot % 8 else 0) * 2 ^ 464
    + (if l.armed then l.region % 64 else 63) * 2 ^ 458 + (if l.armed then l.gen % 2 ^ 32 else 0) * 2 ^ 426
    + (if l.armed then l.armAt % 2 ^ 48 else 0) * 2 ^ 378 + now % 2 ^ 48 * 2 ^ 330
    + (if l.status = 2 ∧ l.cause = 8 then 0 else l.units % 2 ^ 24) * 2 ^ 306 + stopAt (2 ^ 32 - 1) l.energy * 2 ^ 274

/-- The token written to CPLVA, or `CPL_FAIL` reported (R342). -/
def State.sendToken (s : State) (l : Nat) : State :=
  let x := s.launch l
  let sp := x.cplva / 2 ^ 64
  let up := (sp == 1 && !s.hostDown.contains .A) || (sp == 2 && !s.hostDown.contains .B)
  if up && x.cplva % 64 == 0 then { s with outbox := (x.cplva, bytesOf (tokenBits x s.cycle) 64) :: s.outbox }
  else s.report 92 x.port 0

/-- A launch leaves its port's queue (R72). -/
def State.dequeue (s : State) (l : Nat) : State :=
  s.modPort (s.launch l).port fun p => { p with queue := p.queue.filter (· != l) }

/-- A launch refused at point L (R68, R72): it takes nothing and retires at once. -/
def State.refuse (s : State) (l cause : Nat) : State :=
  if (s.launch l).stage = .retired then s
  else
    let s := s.dequeue l
    let s := s.modLaunch l fun x => { x with stage := .retired, status := 2, cause := cause, load := none }
    s.sendToken l

/-- A launch of no units retired with status EMPTY (R69). -/
def State.retireEmpty (s : State) (l : Nat) : State :=
  let s := s.dequeue l
  let s := s.modLaunch l fun x => { x with stage := .retired, status := 1, load := none }
  s.sendToken l

/-! ## Retirement of an armed launch (R340, R341) -/

/-- Windows of a launch still open. -/
def State.openWindows (s : State) (l : Nat) : Bool :=
  s.elems.any fun e => e.2.landing.any fun w => w.2.isOpen && w.2.launch == l

/-- Whether an armed launch may retire (R340): a beat that still travels has accesses and counts to come. A killed launch of a halted region retires without resuming. -/
def State.mayRetire (s : State) (l : Nat) : Bool :=
  let x := s.launch l
  x.stage == .running && (x.terminated || (s.slotKeys l).all fun k => (s.slot k).ended)
    && (!s.openWindows l || (x.terminated && x.halted))
    && !(s.accs.any fun a => a.launch == l && a.st != .performed)
    && !(s.upds.any fun u => u.launch == l)
    && !(s.flights.any fun f => f.launch == l)

/-- The pages of a launch given back: they take the ID 0xFFF (R341). -/
def State.freePages (s : State) (l : Nat) : State :=
  let cs := (s.clusters.map (·.1)).filter fun c => (s.cluster c).launch == some l
  let s := cs.foldl (fun s c => (List.range 16).foldl (fun s e => s.modElem (16 * c + e) fun x =>
    { x with landing := x.landing.map fun (w : Nat × Landing) => if w.2.launch = l then (w.1, { w.2 with isOpen := false }) else w }) s) s
  let s := cs.foldl (fun s c => s.modCluster c fun x => { x with launch := none, saggar := 0xFFF, armed := false, seams := 0 }) s
  { s with swaps := s.swaps.filter fun e => e.2.1.launch != some l }

/-- Slots of a launch unbound (R341). -/
def State.freeSlots (s : State) (l : Nat) : State :=
  (s.slotKeys l).foldl (fun s k => s.modSlot k fun x => { x with bound := false, start := none, cur := {}, following := [],
                                                                 wait := .none, raised := [], held := false, moved := false }) s

/-- Clusters that hold a page of a launch now: a swapped page's may hold another's (R322). -/
def State.heldClusters (s : State) (l : Nat) : List Nat :=
  (s.clustersOf l).filter fun cl => (s.cluster cl).launch == some l

/-- The agenda without the region's own events of a launch's slots and pages. -/
def State.dropLaunchDues (s : State) (l : Nat) : State :=
  let ks := s.slotKeys l
  let cs := s.heldClusters l
  let keep (d : Due) : Bool := match d.act with
    | .inr e => !ks.any fun k => abandoned k e
    | .inl (.dpatchDone k) => !ks.contains k
    | .inl (.matrixStep c) => !cs.contains c
    | .inl (.milestoneCommit m) | .inl (.milestoneSwitch m) | .inl (.planeRelease m) | .inl (.csyncStall m) => m != l
    | .inl (.joinStall _) | .inl (.joinComplete _) => true
    | .inl _ => true
  { s with agenda := s.agenda.filter keep, frozen := s.frozen.filter fun d => s.dueOwner d.act != some l }

/-- A launch retires: its resources are released in one cycle, then its token goes out (R341, R342). -/
def State.retire (s : State) (l : Nat) : State :=
  let x := s.launch l
  let c := s.copyOf l
  let s := (c.sites.filter fun e => e.2.life == 2 && (s.heldClusters l).contains (pageCluster x c e.2.page)).foldl (fun s e => s.endLife l (pageCluster x c e.2.page) e.1 e.2) s
  let lost := (List.range 64).filter fun h =>
    let y := s.handle x.region h
    y.owner == l && y.st == .filling
  let s := lost.foldl (fun s _ => s.report 44 x.region 0) s
  let s := (s.dropShadow l).dropLaunchDues l
  let s := { s with
    accs := s.accs.filter (·.launch != l), refused := s.refused.filter (·.launch != l), joins := s.joins.filter (·.launch != l), beats := s.beats.filter (·.launch != l),
    points := s.points.map fun (e : Nat × Point) =>
      if e.1 / 24 = l then (e.1, if e.2.key ≠ 0 ∧ e.2.link.isNone then { e.2 with gone := true } else { link := e.2.link }) else e,
    kilnReserved := s.kilnReserved - x.res }
  let s := s.modRegion x.region fun g =>
    if g.ddaOwner = some l then { g with ddaOwner := none } else g
  let s := (s.freePages l).freeSlots l
  let s := s.modLaunch l fun y => { y with stage := .retired, watches := [], energy := y.energy + Config.lastShare l y.drawn }
  s.sendToken l

/-- Whether every earlier launch of the launch's port has retired (R72): launches are numbered by their OPEN tokens. -/
def State.earlierDone (s : State) (l : Nat) : Bool :=
  s.launches.all fun e => decide (l ≤ e.1) || e.2.port != (s.launch l).port || e.2.stage == .retired

/-- Whether a launch holds no other of its port back and is not held back (R72). -/
def State.isHead (s : State) (l : Nat) : Bool :=
  let x := s.launch l
  x.stage == .closed && (s.port x.port).queue.head? == some l && (!x.barrier || s.earlierDone l)

/-- Whether a launch of no units may retire (R69). -/
def State.mayRetireEmpty (s : State) (l : Nat) : Bool :=
  let x := s.launch l
  s.isHead l && x.units == 0 && x.argChecked && x.load.isNone

/-- LAUNCH_RETIRE (R340, R69). -/
def execLaunchRetire (l : Nat) (s : State) : Res :=
  .next (if s.mayRetire l then s.retire l else if s.mayRetireEmpty l then s.retireEmpty l else s)

/-! ## Unload (R345) -/

/-- Whether something refers to a copy (R343). -/
def State.referred (s : State) (r gen : Nat) : Bool := (s.refs r).contains gen

/-- UNLOAD_GO: no launch binds to the copy from now on. Without GO, a write sets GEN alone. -/
def execUnloadGo (region : Nat) (v : BitVec 64) (s : State) : Res :=
  let g := s.region region
  let gen := field v 31 0
  if !bitAt v 63 then .next (s.setRegion region { g with unload := putField g.unload 31 0 gen })
  else if field g.unload 62 61 = 1 then .next s
  else if !g.copies.any fun c => c.gen == gen then
    .next (s.setRegion region { g with unload := BitVec.ofNat 64 (3 * 2 ^ 61 + gen) })
  else
    let cs := g.copies.map fun c => if c.gen = gen then { c with bindable := false } else c
    .next (s.setRegion region { g with copies := cs, unload := BitVec.ofNat 64 (2 ^ 61 + gen), unloadOf := gen })

/-- Whether a waiting unload may end. -/
def State.mayRelease (s : State) (region : Nat) : Bool :=
  field (s.region region).unload 62 61 == 1 && !s.referred region (s.region region).unloadOf

/-- COPY_RELEASE: the unloaded copy goes on the first cycle on which nothing refers to it. -/
def execCopyRelease (region : Nat) (s : State) : Res :=
  if s.mayRelease region then
    .next (s.modRegion region fun g => { g.dropCopy g.unloadOf with unload := putField g.unload 62 61 2 })
  else .next s

end Sys2Proof.Machine
end

