-- ==== Sys2Proof/Machine/Ingress.lean ====
section
/-! DEFINITION. Ingress ports: tokens, the checks at CLOSE, aging, and the semaphores (04 R63 to R75). -/

namespace Sys2Proof.Machine

/-! ## Drops (R64, R65, R71) -/

def State.dropToken (s : State) (port err : Nat) : State :=
  s.modPort port fun p => { p with dropped := stopAt 255 (p.dropped + 1), lastErr := err }

/-- The stream of a port abandoned: it makes no launch (R65). -/
def State.abandon (s : State) (port : Nat) : State :=
  match (s.port port).stream with
  | none => s
  | some l =>
    let s := { s with launches := del s.launches l }
    (s.modPort port fun p => { p with stream := none }).report 90 port 0

/-- A token out of place: dropped, and its own host port's open stream is abandoned (R65). -/
def State.outOfPlace (s : State) (t : Token) : State :=
  let s := s.dropToken t.port.val 3
  match (s.port t.port.val).stream with
  | some l => if (s.launch l).host = t.host then s.abandon t.port.val else s
  | none => s

/-- Whether a token is the next of an open stream of its own host port. -/
def State.inPlace (s : State) (t : Token) : Option Nat :=
  let p := s.port t.port.val
  match p.stream with
  | some l => if (s.launch l).host = t.host ∧ t.seq = p.seq then some l else none
  | none => none

/-- QUEUED (R71). -/
def State.queued (s : State) (port : Nat) : Nat := (s.port port).queue.length

/-! ## Copies that a launch can bind (R39) -/

def Copy.binds (c : Copy) (ident : BitVec 128) (g : BitVec 12) : Bool :=
  c.bindable && c.ident == ident && (match c.saggar with | none => true | some h => h == g)

/-- Regions that hold a copy that a launch can bind, with the generation. -/
def State.bindings (s : State) (ident : BitVec 128) (g : BitVec 12) : List (Nat × Nat) :=
  (List.range 48).filterMap fun r => ((s.region r).copies.find? fun c => c.binds ident g).map fun c => (r, c.gen)

/-- The clusters of a rectangle. -/
def rectOf (region cc0 cr0 pcol prow : Nat) : List Nat :=
  (List.range (pcol * prow)).map fun p => clusterAt region (cc0 + p % pcol) (cr0 + p / pcol)

/-- Origins at which a shape lies inside a region, by cr0, then cc0. -/
def originsOf (pcol prow : Nat) : List (Nat × Nat) :=
  (List.range 4).flatMap fun cr => (List.range 7).filterMap fun cc =>
    if cc + pcol ≤ 7 ∧ cr + prow ≤ 4 then some (cc, cr) else none

/-- Whether the unfenced clusters of a region admit a shape (R78). -/
def State.admitsShape (s : State) (region pcol prow : Nat) : Bool :=
  (originsOf pcol prow).any fun o => (rectOf region o.1 o.2 pcol prow).all fun cl => (s.cluster cl).fencedAt.isNone

/-- A copy that any launch can bind exists in a region that placement may use (R66, R78). -/
def State.anyCopy (s : State) (ident : BitVec 128) : Bool :=
  (List.range 48).any fun r => (s.region r).copies.any fun c =>
    c.bindable && c.ident == ident && c.saggar.isNone && s.admitsShape r c.pcol c.prow

/-- The load that a launch waits on: one of the same IDENT under way, or a new one (R39, R66). -/
def State.wakeLoader (s : State) (l : Nat) : State :=
  let x := s.launch l
  match s.loads.find? fun d => !d.phase && d.ident == x.ident && d.fresh with
  | some d => s.modLaunch l fun y => { y with load := some d.id }
  | none =>
    let (id, s) := s.nextSerial
    let d : Load := { id := id, region := 0, ident := x.ident, va := x.objVa, len := x.objLen, launch := l }
    ({ s with loads := s.loads ++ [d] } : State).modLaunch l fun y => { y with load := some id }

/-! ## Tokens (R64 to R68) -/

/-- OPEN (R66). -/
def execOpenTok (t : Token) (s : State) : Res :=
  let p := t.port.val
  if 64 ≤ s.queued p then
    let own := match (s.port p).stream with | some l => (s.launch l).host == t.host | none => false
    let s := (s.dropToken p 4).report 91 p 0
    .next (if own then s.abandon p else s)
  else if (s.port p).stream.isSome ∨ t.seq ≠ 0 ∨ t.len ≠ 56 then .next (s.outOfPlace t)
  else
    let (l, s) := s.nextSerial
    let x : Launch := { host := t.host, port := p, prio := (s.port p).prio,
                        ident := BitVec.ofNat 128 (field t.payload 447 320), objVa := BitVec.ofNat 72 (field t.payload 319 248),
                        objLen := field t.payload 247 216, openRsv := field t.payload 215 0 != 0 }
    let s := (s.setLaunch l x).modPort p fun q => { q with stream := some l, seq := 1 }
    .next (if s.anyCopy x.ident then s else s.wakeLoader l)

/-- PARAM (R67). -/
def execParamTok (t : Token) (s : State) : Res :=
  match s.inPlace t with
  | none => .next (s.outOfPlace t)
  | some l =>
    if (s.launch l).gotParam ∨ t.len ≠ 56 then .next (s.outOfPlace t)
    else
      .next ((s.modLaunch l fun x => { x with block := t.payload, gotParam := true }).modPort t.port.val
        fun p => { p with seq := p.seq + 1 })

/-- DATA: its first LEN payload bytes are argument bytes (R64, R65, R70). -/
def execDataTok (t : Token) (s : State) : Res :=
  match s.inPlace t with
  | none => .next (s.outOfPlace t)
  | some l =>
    if !(s.launch l).gotParam ∨ t.len.toNat = 0 ∨ 56 < t.len.toNat then .next (s.outOfPlace t)
    else
      .next ((s.modLaunch l fun x =>
          { x with data := x.data ++ bytesOf t.payload.toNat t.len.toNat, hasData := true }).modPort t.port.val
        fun p => { p with seq := p.seq + 1 })

/-- The checks of R68 that need no object, in order; 0xFFF is no saggar of a launch (R78). -/
def closeCheck (x : Launch) : Option Nat :=
  if 16777215 < x.units then some 8
  else if x.openRsv ∨ field x.block 81 0 ≠ 0 ∨ saggarOf x = 0xFFF then some 9
  else if !x.argv && x.hasData then some 9
  else if x.argv && x.data.length != x.argLen then some 9
  else none

/-- CLOSE: the launch exists, and is checked (R68). -/
def execCloseTok (t : Token) (s : State) : Res :=
  match s.inPlace t with
  | none => .next (s.outOfPlace t)
  | some l =>
    if !(s.launch l).gotParam ∨ t.len ≠ 0 then .next (s.outOfPlace t)
    else
      let s := s.modLaunch l fun x => { x with stage := .closed, closeAt := s.cycle }
      let s := s.modPort t.port.val fun p => { p with stream := none, queue := p.queue ++ [l] }
      match closeCheck (s.launch l) with
      | some c => .next (s.refuse l c)
      | none => if (s.launch l).status = 2 then .next (s.refuse l (s.launch l).cause) else .next (s.dueOp (s.cycle + 20000000) 2 none (.launchAging l))

/-- A write that is no token: dropped (R64); a bad header abandons nothing. -/
def execBadTokenWrite (host : HostPort) (port : Fin 16) (why : BadToken) (s : State) : Res :=
  let _ := host
  .next (s.dropToken port.val (match why with | .size => 1 | .header => 2))

/-- CLR of `INGRESS.CTL` (R71). -/
def execIngressClr (port : Fin 16) (s : State) : Res :=
  .next (s.modPort port.val fun p => { p with dropped := 0, lastErr := 0 })

/-! ## Aging (R73) -/

/-- A launch ages one level per 10 ms between its CLOSE and its arming, to at most 3. -/
def execLaunchAging (l : Nat) (s : State) : Res :=
  let x := s.launch l
  if (x.stage ≠ .closed ∧ x.stage ≠ .waiting ∧ x.stage ≠ .placed) ∨ x.armed then .next s
  else
    let s := s.modLaunch l fun x => { x with age := Nat.min 3 (x.age + 1) }
    .next (s.dueOp (s.cycle + 20000000) 2 none (.launchAging l))

/-- Effective priority (R73). -/
def Launch.eff (x : Launch) : Nat := Nat.min 3 (x.prio + x.age)

/-! ## Semaphores (R75) -/

def hostCode : HostPort → Nat
  | .A => 1
  | .B => 2

/-- `HOST.SEM` n after a write of a host port. -/
def semWrite (old : BitVec 32) (host : HostPort) (v : BitVec 32) : BitVec 32 :=
  let own := field old 31 30
  let new := field v 31 30
  if field v 29 28 ≠ own ∨ (new ≠ 0 ∧ new ≠ hostCode host) then old
  else BitVec.ofNat 32 (new * 2 ^ 30 + (field old 15 0 + if new = own then 0 else 1) % 65536)

def execHostSemWrite (host : HostPort) (n : Fin 16) (v : BitVec 32) (s : State) : Res :=
  .next { s with hostSem := put s.hostSem n.val (semWrite (look 0 s.hostSem n.val) host v) }

end Sys2Proof.Machine
end

