-- ==== Sys2Proof/Machine/Object.lean ====
section
/-! DEFINITION. Code objects (02 R24 to R37, 03 R60, R61, 06 R111): their layout and the checks of the loader's steps 1
to 4, with the cause that each refuses. -/

namespace Sys2Proof.Machine

/-! ## Layout (R24, R25) -/

def nfield (x hi lo : Nat) : Nat := x / 2 ^ lo % 2 ^ (hi - lo + 1)
def nbit (x i : Nat) : Bool := x / 2 ^ i % 2 == 1

/-- CRC-32 of the IEEE 802.3 polynomial. -/
def crcBit (c : Nat) : Nat := if c % 2 = 1 then (c / 2) ^^^ 0xEDB88320 else c / 2
def crcByte (c : Nat) (b : Byte) : Nat := (List.range 8).foldl (fun c _ => crcBit c) (c ^^^ b.toNat)
def crc32 (bs : List Byte) : Nat := bs.foldl crcByte 0xFFFFFFFF ^^^ 0xFFFFFFFF

/-- A directory entry: TYPE, OFF and LEN, and whether its two reserved fields, 119..96 and 31..0, are zero. -/
structure SecEntry where
  type : Nat
  off : Nat
  len : Nat
  rsvHi : Bool
  rsvLo : Bool
deriving DecidableEq, Repr

/-- A code object: its header and directory beside its bytes. -/
structure Obj where
  bytes : List Byte
  hdr : Nat
  dirs : List SecEntry
deriving DecidableEq, Repr

def bytesAt (b : List Byte) (off n : Nat) : Nat := natOfBytes (slice b off n)

/-- Bits of a run of bytes, from a bit on (R36). -/
def getBits (b : List Byte) (off width : Nat) : Nat := bytesAt b (off / 8) (width / 8 + 2) / 2 ^ (off % 8) % 2 ^ width
def putBits (b : List Byte) (off width v : Nat) : List Byte :=
  let n := width / 8 + 2
  let old := bytesAt b (off / 8) n
  let cur := old / 2 ^ (off % 8) % 2 ^ width
  let new := bytesOf (old - cur * 2 ^ (off % 8) + v % 2 ^ width * 2 ^ (off % 8)) n
  b.take (off / 8) ++ (new ++ b.drop (off / 8 + n)).take (b.length - off / 8)

def dirOf (x : Nat) : SecEntry :=
  { type := nfield x 127 120, off := nfield x 63 32, len := nfield x 95 64, rsvHi := nfield x 119 96 == 0, rsvLo := nfield x 31 0 == 0 }

def objOf (b : List Byte) : Obj :=
  let h := bytesAt b 0 64
  { bytes := b, hdr := h, dirs := (List.range (nfield h 180 176)).map fun i => dirOf (bytesAt b (64 + 16 * i) 16) }

def Obj.nsite (o : Obj) : Nat := nfield o.hdr 223 215
def Obj.nwin (o : Obj) : Nat := nfield o.hdr 214 209
def Obj.nkern (o : Obj) : Nat := nfield o.hdr 203 200
def Obj.nedge (o : Obj) : Nat := nfield o.hdr 196 181
def Obj.pcol (o : Obj) : Nat := nfield o.hdr 208 206
def Obj.prow (o : Obj) : Nat := nfield o.hdr 205 204 + 1
def Obj.pages (o : Obj) : Nat := o.pcol * o.prow
def Obj.rows (o : Obj) : Nat := 4 * o.prow
def Obj.quad (o : Obj) : Bool := nbit o.hdr 199
def Obj.accprot (o : Obj) : Nat := nfield o.hdr 198 197
def Obj.used (o : Obj) : Nat := nfield o.hdr 447 384
def Obj.epi (o : Obj) : Nat := nfield o.hdr 255 224
def Obj.ident (o : Obj) : Nat := nfield o.hdr 383 256

/-- The section of a type; empty when there is none. -/
def Obj.sec (o : Obj) (t : Nat) : List Byte :=
  match o.dirs.find? (·.type == t) with
  | some d => slice o.bytes d.off d.len
  | none => []

/-- The records of a section. -/
def recsOf (b : List Byte) (size : Nat) : List Nat :=
  (List.range (b.length / size)).map fun i => bytesAt b (size * i) size

/-- The first refusal among checks. -/
def firstOf {α : Type} : List (Option α) → Option α
  | [] => none
  | some c :: _ => some c
  | none :: l => firstOf l

/-- A refusal when a condition fails. -/
def need (b : Blame) (ok : Bool) : Option Blame := if ok then none else some b

/-- The first refusal among items, each by its place. -/
def eachOf {α : Type} (l : List α) (f : Nat → α → Option Blame) : Option Blame := firstOf (l.mapIdx f)

/-- A field of the header, of directory entry i, and of a record at a byte offset of its section. -/
def hdrAt (hi lo : Nat) : Blame := { cause := 0, hi := hi, lo := lo }
def dirAt (i hi lo : Nat) : Blame := { cause := 0, off := 64 + 16 * i, hi := hi, lo := lo }
def recAt (cause sect off hi lo : Nat) : Blame := { cause := cause, sect := sect, off := off, hi := hi, lo := lo }

/-! ## Step 1: header, directory and CRC -/

def secsApart (d e : SecEntry) : Bool :=
  d.len == 0 || e.len == 0 || decide (d.off + d.len ≤ e.off ∨ e.off + e.len ≤ d.off)

/-- One directory entry, by its place (R25). -/
def Obj.dirCheck (o : Obj) (ends i : Nat) (d : SecEntry) : Option Blame :=
  firstOf
    [ need (dirAt i 127 120) (decide (1 ≤ d.type ∧ d.type ≤ 10)),
      need (dirAt i 119 96) d.rsvHi,
      need (dirAt i 31 0) d.rsvLo,
      need (dirAt i 63 32) (d.off % 16 == 0 && decide (ends ≤ d.off)),
      need (dirAt i 95 64) (decide (d.off + d.len ≤ o.bytes.length)) ]

/-- The length of a section against the records that the header counts; `hi` and `lo` are the count's field. -/
def Obj.lenCheck (o : Obj) (t hi lo : Nat) (ok : Nat → Bool) : Option Blame :=
  match o.dirs.findIdx? (·.type == t) with
  | some i => need (dirAt i 95 64) (ok (o.sec t).length)
  | none => need (hdrAt hi lo) (ok 0)

def Obj.step1 (o : Obj) : Option Blame :=
  let n := nfield o.hdr 180 176
  let ends := 64 + 16 * n
  firstOf
    [ need (hdrAt 511 0) (decide (64 ≤ o.bytes.length)),
      need (hdrAt 511 480) (nfield o.hdr 511 480 == 0x4F424B44),
      need (hdrAt 479 464) (nfield o.hdr 479 464 == 1),
      need (hdrAt 31 0) (crc32 (List.replicate 4 0 ++ o.bytes.drop 4) == nfield o.hdr 31 0),
      need (hdrAt 175 32) (nfield o.hdr 175 32 == 0),
      need (hdrAt 255 224) (o.epi != 0),
      need (hdrAt 223 215) (decide (o.nsite ≤ 256)),
      need (hdrAt 208 206) (o.pcol != 0),
      need (hdrAt 203 200) (decide (1 ≤ o.nkern ∧ o.nkern ≤ 8)),
      need (hdrAt 198 197) (decide (o.accprot ≤ 1)),
      need (hdrAt 196 181) (decide (o.nedge ≤ 4095)),
      need (hdrAt 180 176) (decide (1 ≤ n ∧ n ≤ 16)),
      need (hdrAt 199 199) (!o.quad || (o.pcol % 2 == 0 && o.prow % 2 == 0)),
      need (hdrAt 180 176) (decide (ends ≤ o.bytes.length)),
      eachOf o.dirs (o.dirCheck ends),
      eachOf o.dirs fun i d => need (dirAt i 63 32) ((o.dirs.take i).all (secsApart d)),
      eachOf o.dirs fun i d => need (dirAt i 127 120) (d.type == 9 || (o.dirs.take i).all (·.type != d.type)),
      need (hdrAt 180 176) ([1, 2, 3, 7].all fun t => o.dirs.any (·.type == t)),
      o.lenCheck 1 203 200 (· == 16 * o.nkern),
      o.lenCheck 2 205 204 (· % (10 * o.rows) == 0),
      o.lenCheck 3 180 176 (· % 10 == 0),
      o.lenCheck 4 223 215 (· == 16 * o.nsite),
      o.lenCheck 5 214 209 (· == 4 * o.nwin),
      o.lenCheck 6 196 181 (· == 8 * o.nedge),
      o.lenCheck 7 180 176 (· % 8 == 0),
      o.lenCheck 8 180 176 (· % 24 == 0) ]

/-! ## Step 2: features (R26, R27) -/

/-- The device's feature version, and the features that it has. -/
def featureVersion : Nat := 1
def supported : List Nat := List.range 11

def Obj.featver (o : Obj) : Nat := nfield o.hdr 463 448

/-- USED inside the supported mask, whatever FEATVER says; the lowest bit outside it is named. -/
def Obj.step2 (o : Obj) : Option Blame :=
  ((List.range 64).find? fun i => nbit o.used i && !supported.contains i).map fun i =>
    { cause := 1, hi := 447, lo := 384, number := some i }

/-! ## Step 3: kernel records and register counts (R30, R31) -/

def roundQ (q : Nat) : Nat := (q + 3) / 4 * 4

def kernRecs (o : Obj) : List Nat := recsOf (o.sec 1) 16

/-- The kernels of a kernel section in KID order; `len3` is the length of section 3. -/
def kernelsOf (sec1 : List Byte) (nkern len3 : Nat) : List Kernel :=
  let rs := recsOf sec1 16
  let cps := rs.map fun r => nfield r 95 64
  (List.range nkern).map fun k =>
    match rs.find? fun r => nfield r 127 125 == k with
    | none => {}
    | some r =>
      let lo := nfield r 95 64
      let above := cps.filter (lo < ·)
      let hi := match above with | [] => len3 | c :: cs => cs.foldl Nat.min c
      { slots := nfield r 124 121, gcnt := nfield r 120 116, qcnt := roundQ (nfield r 115 110), ii := nfield r 109 98,
        cpoff := lo, words := (hi - lo) / 5, sloff := nfield r 63 32, slcnt := nfield r 31 16 }

def Obj.kernels (o : Obj) : List Kernel := kernelsOf (o.sec 1) o.nkern (o.sec 3).length

def Obj.nlines (o : Obj) : Nat := (o.sec 2).length / (10 * o.rows)

/-- Kernels whose QCNT is rounded: the kernel, and both counts (R31). -/
def Obj.rounded (o : Obj) : List (Nat × Nat × Nat) :=
  (kernRecs o).filterMap fun r =>
    let q := nfield r 115 110
    if q % 4 = 0 then none else some (nfield r 127 125, q, roundQ q)

/-- The sums over the kernels, of slots and of registers, are those of the whole section. -/
def Obj.step3 (o : Obj) : Option Blame :=
  let rs := kernRecs o
  let ks := o.kernels
  let at_ (i hi lo : Nat) : Blame := recAt 0 1 (16 * i) hi lo
  firstOf
    [ eachOf rs fun i r => firstOf
        [ need (at_ i 127 125) (decide (nfield r 127 125 < o.nkern) && (rs.take i).all fun x => nfield x 127 125 != nfield r 127 125),
          need (at_ i 124 121) (decide (1 ≤ nfield r 124 121 ∧ nfield r 124 121 ≤ 8)),
          need (at_ i 109 98) (nfield r 109 98 != 0),
          need (at_ i 97 96) (nfield r 97 96 == 0),
          need (at_ i 95 64) (nfield r 95 64 % 10 == 0 && decide (nfield r 95 64 < (o.sec 3).length)),
          need (at_ i 31 16) (nfield r 31 16 != 0),
          need (at_ i 63 32) (decide (nfield r 63 32 + nfield r 31 16 ≤ o.nlines)),
          need (at_ i 15 0) (nfield r 15 0 == 0) ],
      eachOf rs fun i r => firstOf
        [ need (recAt 2 1 (16 * i) 115 110) (decide (roundQ (nfield r 115 110) ≤ 32)),
          need (recAt 2 1 (16 * i) 120 116) (decide (nfield r 120 116 ≤ 16)) ],
      need (recAt 2 1 0 124 110) (decide (sumNat (ks.map fun k => k.slots * (k.gcnt + k.qcnt)) ≤ 48)),
      need (recAt 0 1 0 124 121) (decide (sumNat (ks.map (·.slots)) ≤ 8)) ]

/-! ## Step 4: sites, windows, data images and edges (R32 to R35, R111, R174, R212, R221) -/

def siteOfRec (r : Nat) : Nat × Site :=
  (nfield r 127 120,
   { page := nfield r 119 115, banks := BitVec.ofNat 16 (nfield r 114 99), lrows := nfield r 98 93, lcols := nfield r 92 87,
     lines := nfield r 86 75, fill := nfield r 74 72, life := nfield r 71 70, slip := nfield r 69 64,
     stride := sextNat (nfield r 63 40) 24, win := nfield r 39 34, boff := nfield r 33 26 })

def sitesOf (sec4 : List Byte) : Map Site := putAll [] ((recsOf sec4 16).map siteOfRec)
def Obj.sites (o : Obj) : Map Site := sitesOf (o.sec 4)

/-- Window descriptors: LEN and KIND by WID. -/
def windowsOf (sec5 : List Byte) : Map (Nat × Nat) :=
  putAll [] ((recsOf sec5 4).map fun r => (nfield r 31 26, (nfield r 25 14, nfield r 13 11)))
def Obj.windows (o : Obj) : Map (Nat × Nat) := windowsOf (o.sec 5)

/-- Data images: site, offset in the buffer, bytes. -/
def Obj.images (o : Obj) : List (Nat × Nat × List Byte) :=
  (o.dirs.filter (·.type == 9)).map fun d =>
    let t := bytesAt o.bytes d.off 16
    (nfield t 127 120, nfield t 119 96, slice o.bytes (d.off + 16) (d.len - 16))

/-- The share of a site in a named bank, in bytes rounded up to 256. -/
def shareTop (x : Site) (elem : Nat) : Nat := (4 * (shareOf x elem).se + 255) / 256 * 256

def shareRoom (x : Site) : Bool := (List.range 16).all fun e => !x.banks.getLsbD e || decide (256 * x.boff + shareTop x e ≤ 65536)

/-- Two buffers share no byte of a bank; a share of no lines takes none. -/
def sitesDisjoint (x y : Site) : Bool :=
  x.page != y.page || (List.range 16).all fun e =>
    !(x.banks.getLsbD e && y.banks.getLsbD e) || shareTop x e == 0 || shareTop y e == 0
      || decide (256 * x.boff + shareTop x e ≤ 256 * y.boff ∨ 256 * y.boff + shareTop y e ≤ 256 * x.boff)

/-- Sites that bind the LUT tables of a page, in table order (R174). -/
def lutSites (sites : Map Site) (page : Nat) : List (Nat × Site) :=
  sites.filter fun e => e.2.page == page && e.2.banks == 0x8000 && e.2.life == 2 && e.2.fill == 0 && siteBytes e.2 == 2048

/-- The site that binds the slot table of a bank (R212). -/
def tableSite (sites : Map Site) (page e : Nat) : Option (Nat × Site) :=
  sites.find? fun x => x.2.page == page && x.2.banks == BitVec.ofNat 16 (2 ^ e) && x.2.lrows == 0 && x.2.lcols == 3
    && x.2.lines == 1 && x.2.fill == 0 && x.2.life == 2 && x.2.slip == 0

/-- The byte that the data images give a byte of a site's buffer, the last image winning. -/
def imageByte (imgs : List (Nat × Nat × List Byte)) (site b : Nat) : Option Byte :=
  imgs.foldl (fun v i => if i.1 = site ∧ i.2.1 ≤ b then (match i.2.2[b - i.2.1]? with | some x => some x | none => v) else v) none

def tableOk (imgs : List (Nat × Nat × List Byte)) (site : Nat) : Bool :=
  (List.range 16).all fun b => match imageByte imgs site b with
    | some v => decide (v.toNat ≤ 4)
    | none => false

/-- One site record by itself (R32, R221). -/
def Obj.siteRecCheck (o : Obj) (i r : Nat) : Option Blame :=
  let x := (siteOfRec r).2
  let at_ (hi lo : Nat) : Blame := recAt 3 4 (16 * i) hi lo
  firstOf
    [ need (at_ 119 115) (decide (x.page < o.pages)),
      need (at_ 114 99) (x.banks != 0),
      need (at_ 86 75) (x.lines != 0),
      need (at_ 74 72) (decide (x.fill ≤ 4)),
      need (at_ 71 70) (decide (x.life ≤ 2)),
      need (at_ 69 64) (decide (x.slip ≤ 32)),
      need (at_ 63 40) (x.fill == 1 || x.stride == 0),
      need (at_ 39 34) (x.win == 0 || x.fill == 3 || x.fill == 4),
      need (at_ 25 0) (nfield r 25 0 == 0) ]

/-- The members of a slip group, by record (R33, R221). -/
def slipOf (rs : List Nat) (g : Nat) : List (Nat × Site) :=
  (rs.mapIdx fun i r => (i, (siteOfRec r).2)).filter fun e => e.2.slip == g

def Obj.siteCheck (o : Obj) : Option Blame :=
  let rs := recsOf (o.sec 4) 16
  let ws := recsOf (o.sec 5) 4
  let site (i hi lo : Nat) : Blame := recAt 3 4 (16 * i) hi lo
  let win (i hi lo : Nat) : Blame := recAt 3 5 (4 * i) hi lo
  let slips := (List.range 32).map fun g => slipOf rs (g + 1)
  let slipAt (m : List (Nat × Site)) : Blame := site ((m.head?).map (·.1) |>.getD 0) 69 64
  firstOf
    [ eachOf rs fun i r => need (site i 127 120) ((rs.take i).all fun y => nfield y 127 120 != nfield r 127 120),
      eachOf ws fun i r => firstOf
        [ need (win i 31 26) (nfield r 31 26 != 0 && (ws.take i).all fun y => nfield y 31 26 != nfield r 31 26),
          need (win i 25 14) (nfield r 25 14 != 0),
          need (win i 13 11) (decide (nfield r 13 11 ≤ 3)),
          need (win i 10 0) (nfield r 10 0 == 0) ],
      eachOf rs o.siteRecCheck,
      eachOf rs fun i r => need (site i 33 26) (shareRoom (siteOfRec r).2),
      eachOf rs fun i r => need (site i 33 26) ((rs.take i).all fun y => sitesDisjoint (siteOfRec y).2 (siteOfRec r).2),
      eachOf slips fun _ m => need (slipAt m) (m.length != 1 && decide (m.length ≤ 8)),
      eachOf slips fun _ m => match m with
        | [] => none
        | x :: _ => need (slipAt m) (m.all fun e => e.2.page == x.2.page && decide (2 ≤ e.2.fill)),
      eachOf rs fun i r =>
        let x := (siteOfRec r).2
        need (site i 92 87) (decide (x.fill < 2) || (x.lrows + 1) * (x.lcols + 1) % 16 == 0) ]

/-- Data images (R111) and the slot tables that they make (R212). A field of a target record is named with the offset of
its section in the object. -/
def Obj.imageCheck (o : Obj) : Option Blame :=
  let ds := o.dirs.filter (·.type == 9)
  let at_ (cause hi lo : Nat) (d : SecEntry) : Blame := recAt cause 9 d.off hi lo
  firstOf
    [ eachOf ds fun _ d =>
        let t := bytesAt o.bytes d.off 16
        firstOf
          [ need (at_ 0 95 64 d) (decide (16 ≤ d.len) && d.len == 16 + nfield t 95 64),
            need (at_ 0 63 0 d) (nfield t 63 0 == 0) ],
      eachOf ds fun _ d =>
        let t := bytesAt o.bytes d.off 16
        match o.sites.find? (·.1 == nfield t 127 120) with
        | some e => need (at_ 3 119 64 d) (decide (nfield t 119 96 + nfield t 95 64 ≤ siteBytes e.2))
        | none => some (at_ 3 127 120 d),
      eachOf (List.range (16 * o.pages)) fun _ n => match tableSite o.sites (n / 16) (n % 16) with
        | some x => need (recAt 3 4 (16 * ((recsOf (o.sec 4) 16).findIdx fun r => nfield r 127 120 == x.1)) 127 120) (tableOk o.images x.1)
        | none => none ]

/-! ## Format edges (R60, R61) -/

/-- Assigned format codes. -/
def fmtAssigned (c : Nat) : Bool :=
  [1, 2, 3, 5, 6, 7, 0x10, 0x11, 0x12, 0x18, 0x19, 0x1A, 0x20, 0x21, 0x22].contains c || decide (0x32 ≤ c ∧ c ≤ 0x38)

def mtyFmt : MTy → Nat
  | .e4m3 => 0x18 | .e5m2 => 0x19 | .i8 => 1 | .n8 => 5 | .f16 => 0x11 | .bf16 => 0x12 | .mxf8 => 0x21 | .mxi8 => 0x20
  | .e2m1 => 0x1A | .mxf4 => 0x22

/-- The port that a word writes, with the format of its suffix (R61, R111). An atomic counts as a writer and a reader of the
site port that it names, though it touches no site buffer: log entry 16. -/
def portWritten : Instr → Option (Nat × Nat)
  | .sts t o => some (field o.imm 7 0, match t with | .n32 => 7 | .n8 => 5 | .n16 => 6)
  | .stx o | .stw o | .mcast o => some (field o.imm 7 0, 7)
  | .atomAdd t o => some (field o.imm 7 0, match t with | .i32 => 3 | .f32 => 0x10)
  | .atomMin t o | .atomMax t o => some (field o.imm 7 0, match t with | .i32 => 3 | .n32 => 7)
  | .atomAnd o | .atomOr o | .atomXor o | .atomXchg o | .atomCas o | .atomInc o => some (field o.imm 7 0, 7)
  | .send o => some (2 ^ 12 + field o.imm 7 0, 7)
  | .mfa t _ => some (2 * 2 ^ 12, mtyFmt t)
  | .mfb (.ty t) _ => some (3 * 2 ^ 12, mtyFmt t)
  | .mfb (.bp k) _ => some (3 * 2 ^ 12, 0x32 + k.val)
  | _ => none

/-- The port that a word reads, with the format of its suffix: loads, `recv` and the matrix feeds. A word whose source is a
register that such a word wrote is no reader of its port: log entry 16. -/
def portRead : Instr → Option (Nat × Nat)
  | .lds o | .ldx o | .ldw o | .ldsy o => some (field o.imm 7 0, 7)
  | .ldt t o => some (field o.imm 7 0, match t with | .n32 => 7 | .n16 => 6)
  | .atomAdd t o => some (field o.imm 7 0, match t with | .i32 => 3 | .f32 => 0x10)
  | .atomMin t o | .atomMax t o => some (field o.imm 7 0, match t with | .i32 => 3 | .n32 => 7)
  | .atomAnd o | .atomOr o | .atomXor o | .atomXchg o | .atomCas o | .atomInc o => some (field o.imm 7 0, 7)
  | .recv o => some (2 ^ 12 + field o.imm 7 0, 7)
  | .mfa t _ => some (2 * 2 ^ 12, mtyFmt t)
  | .mfb (.ty t) _ => some (3 * 2 ^ 12, mtyFmt t)
  | .mfb (.bp k) _ => some (3 * 2 ^ 12, 0x32 + k.val)
  | _ => none

/-- A port of an edge record without the number that a feed or weight-buffer port does not use. -/
def portOf (x : Nat) : Nat := if x / 2 ^ 12 = 2 ∨ x / 2 ^ 12 = 3 then x / 2 ^ 12 * 2 ^ 12 else x

/-- The words of section 2, by line and row. -/
def Obj.lines (o : Obj) : List (List SchedWord) :=
  (List.range o.nlines).map fun l => (List.range o.rows).map fun r =>
    BitVec.ofNat 80 (bytesAt (o.sec 2) (10 * (o.rows * l + r)) 10)

/-- The control words of section 3. -/
def Obj.ctrl (o : Obj) : List CtrlWord := (recsOf (o.sec 3) 5).map (BitVec.ofNat 40)

def instrOf (w : SchedWord) : Option Instr :=
  match decodeSched w with
  | .ok i => some i
  | .error _ => none

/-- Whether an edge record agrees with every word of its two ports (R61). -/
def edgeAgrees (is : List Instr) (r : Nat) : Bool :=
  let c := nfield r 15 8
  let p := nfield r 47 32
  let q := nfield r 31 16
  fmtAssigned c && decide (p / 2 ^ 12 ≤ 3 ∧ q / 2 ^ 12 ≤ 3)
    && is.all (fun i => match portWritten i with
        | some (x, f) => x != portOf p || f == c
        | none => true)
    && is.all (fun i => match portRead i with
        | some (x, f) => x != portOf q || f == c || (decide (0x32 ≤ c ∧ c ≤ 0x38) && decide (0x32 ≤ f ∧ f ≤ c))
        | none => true)

/-- The first edge record that fails is reported by its EDGE number (R61). R111 names no cause for a port of kind 4 to
15, and R61 does not say whether two readers of bp forms below the record's disagree: log entry 16. -/
def Obj.edgeCheck (o : Obj) : Option Blame :=
  let es := recsOf (o.sec 6) 8
  let is := o.lines.flatMap fun l => l.filterMap instrOf
  firstOf
    [ eachOf es fun i r => need (recAt 0 6 (8 * i) 7 0) (nfield r 7 0 == 0),
      eachOf es fun i r => need { recAt 4 6 (8 * i) 15 8 with number := some (nfield r 63 48) } (edgeAgrees is r) ]

/-- Reserved bits of patch records (R7, R37). -/
def Obj.patchCheck (o : Obj) : Option Blame :=
  eachOf (recsOf (o.sec 8) 24) fun i r => need (recAt 0 8 (24 * i) 78 0) (nfield r 78 0 == 0)

def Obj.step4 (o : Obj) : Option Blame := firstOf [o.siteCheck, o.imageCheck, o.edgeCheck, o.patchCheck]

end Sys2Proof.Machine
end

