-- ==== Sys2Proof/Machine/Arming.lean ====
section
/-! DEFINITION. Waking and arming (04 R70, 05 R90, 07 R113, 09 R174, 11 R212, 19 R303): the cycles on which pages arm, what
arming sets, and the start of the slots. -/

namespace Sys2Proof.Machine

/-! ## Relocations of a placement (R36, R80) -/

/-- The value that a relocation adds for a launch's place. -/
def relValue (l : Launch) (c : Copy) : RelValue → Nat
  | .page p => pageCluster l c p
  | .num v => v

/-- Relocations of one section applied in order, each adding to what stands in its field; none where a sum does not fit. -/
def relApply (value : RelValue → Nat) : List Reloc → List Byte → Option (List Byte)
  | [], b => some b
  | r :: rs, b =>
    let v := getBits b r.off r.width + value r.val
    if v < 2 ^ r.width then relApply value rs (putBits b r.off r.width v) else none

/-- A section of a copy as a launch's place makes it. -/
def relocated (l : Launch) (c : Copy) (sect : Nat) : Option (List Byte) :=
  relApply (relValue l c) (c.rels.filter (·.sect == sect)) (look [] c.raw sect)

/-- Whether every sum of a placement fits its field. -/
def relFits (l : Launch) (c : Copy) : Bool := [1, 2, 3, 4, 5, 9].all fun n => (relocated l c n).isSome

/-- The data images with the relocations of a placement applied: OFF counts through the bytes of the images taken together. -/
def imagesFor (l : Launch) (c : Copy) : List (Nat × Nat × List Byte) :=
  if c.rels.all (·.sect != 9) then c.images
  else
    let all := (relocated l c 9).getD []
    (c.images.foldl (fun (acc : Nat × List (Nat × Nat × List Byte)) i =>
      (acc.1 + i.2.2.length, acc.2 ++ [(i.1, i.2.1, Sys2Proof.slice all acc.1 i.2.2.length)])) (0, [])).2

/-- A copy whose kernel, site and window records are read again from their sections. -/
def Copy.reread (c : Copy) (recs : Map (List Byte)) : Copy :=
  { c with
    recs := recs, kernels := kernelsOf (look [] recs 1) c.kernels.length c.progLen, windows := windowsOf (look [] recs 5),
    sites := (sitesOf (look [] recs 4)).map fun e => (e.1, { e.2 with store := (look {} c.sites e.1).store }) }

/-- The relocations of a placement applied to sections 2 and 3 in the schedule store, and to sections 1, 4 and 5 in the
copy's records; nothing reads sections 6 to 8 after the load. Of two launches bound to one copy at different rectangles, the
later placement's values stand: log entry 31. -/
def State.relocCopy (s : State) (x : Launch) (c : Copy) : State :=
  let s := (c.rels.filter fun r => r.sect == 2 || r.sect == 3).foldl (fun s r =>
    s.modRegion x.region fun g =>
      let at_ := c.base + (if r.sect = 3 then c.progOff else 0) + r.off / 8
      let n := r.width / 8 + 2
      let v := getBits ((relocated x c r.sect).getD []) r.off r.width
      let b := putBits (storeBytesOf g at_ n) (r.off % 8) r.width v
      { g with store := (b.mapIdx fun i y => (at_ + i, y)).foldl (fun m e => put m e.1 e.2) g.store }) s
  match [1, 4, 5].filter fun n => c.rels.any (·.sect == n) with
  | [] => s
  | ns =>
    let recs := ns.foldl (fun m n => put m n ((relocated x c n).getD [])) c.recs
    s.modRegion x.region fun g => { g with copies := g.copies.map fun d => if d.gen = c.gen then d.reread recs else d }
where
  storeBytesOf (g : Region) (a n : Nat) : List Byte := (List.range n).map fun i => look 0 g.store (a + i)

def State.relocStore (s : State) (l : Nat) : State := s.relocCopy (s.launch l) (s.copyOf l)

/-! ## Wakes (R90) -/

/-- The last wake granted in a stack group. -/
def State.lastWake (s : State) (group : Nat) : Option Nat :=
  match (s.clusters.filter fun c => c.1 / 56 == group).filterMap fun c => c.2.wakeAt with
  | [] => none
  | w :: ws => some (ws.foldl Nat.max w)

/-- The wake of a page's cluster granted on cycle T0, and the cycle from which the page is ready. -/
def State.grantWake (s : State) (cl : Nat) : State × Nat :=
  let c := s.cluster cl
  if c.gated then
    let start := match s.lastWake (cl / 56) with
      | some w => Nat.max s.cycle (w + 64)
      | none => s.cycle
    (s.modCluster cl fun c => { c with gated := false, wakeAt := some start }, start + 256)
  else (s, match c.wakeAt with | some w => Nat.max s.cycle (w + 256) | none => s.cycle)

/-- The pages of a launch in order: their wakes granted and their arming cycles set. -/
def armFrom (l : Nat) : State → Nat → Nat → List Nat → State
  | s, at_, _, [] => s.dueOp (at_ - 15) 9 none (.launchSlotsStart l)
  | s, at_, p, cl :: cls =>
    let (s, ready) := s.grantWake cl
    let a := Nat.max at_ ready
    armFrom l (s.dueOp a 150 none (.pageArm l p)) (a + 16) (p + 1) cls

/-- Placement, or the load it waited for, completes on this cycle, T0 (R90). -/
def State.beginArming (s : State) (l : Nat) : State := armFrom l s s.cycle 0 (s.clustersOf l)

/-- Pages and slots released before the slots start: wakes not yet started are not made (R90). -/
def State.releaseUnarmed (s : State) (l : Nat) : State :=
  let s := (s.clustersOf l).foldl (fun s cl => s.modCluster cl fun c => match c.wakeAt with
    | some w => if s.cycle < w then { c with gated := true, wakeAt := none } else c
    | none => c) s
  let mine (d : Due) : Bool := match d.act with
    | .inl (.pageArm m _) | .inl (.launchSlotsStart m) => m == l
    | .inl (.matrixStep c) => (s.clustersOf l).contains c
    | _ => false
  let s := { s with agenda := s.agenda.filter (fun d => !mine d), kilnReserved := s.kilnReserved - (s.launch l).res }
  let s := s.modRegion (s.launch l).region fun g =>
    if g.ddaOwner = some l then { g with ddaOwner := none } else g
  ((s.freePages l).freeSlots l).modLaunch l fun x =>
    { x with region := 63, slots := [], res := 0, regs := 0, dda := false, room := 0, armed := false }

/-- A launch that has not armed ends with a terminating cause (R312, R342). -/
def State.endUnarmed (s : State) (l cause : Nat) : State :=
  let x := s.launch l
  let s := if x.stage = .placed ∨ x.stage = .waiting then s.releaseUnarmed l else s
  let s := (s.dequeue l).modLaunch l fun y => { y with stage := .retired, status := 3, cause := cause, load := none }
  s.sendToken l

/-- A launch ended by a cause of class T: a running one retires once R340 holds, any other at once. -/
def State.endLaunch (s : State) (l cause slot : Nat) : State :=
  match (s.launch l).stage with
  | .running => s.terminate l cause slot
  | .closed | .waiting | .placed => s.endUnarmed l cause
  | .open | .retired => s

/-- A launch refused with a cause, placed or not (R39, R68, R90). -/
def State.refuseAny (s : State) (l cause : Nat) : State :=
  let x := s.launch l
  (if x.stage = .placed ∨ x.stage = .waiting then s.releaseUnarmed l else s).refuse l cause

/-- T0 of a launch (R90): its pages wake and arm, or it is refused for a kind-0 sum that its place does not let fit (R36,
log entry 31). -/
def State.startArming (s : State) (l : Nat) : State :=
  if relFits (s.launch l) (s.copyOf l) then s.beginArming l else s.refuseAny l 0

/-- What the relocations of section 9 write, applied again to the banks of a launch's pages (R80). -/
def State.relocBanks (s : State) (l : Nat) : State :=
  let x := s.launch l
  let c := s.copyOf l
  let all := (relocated x c 9).getD []
  let go (acc : Nat × State) (i : Nat × Nat × List Byte) : Nat × State :=
    let n := 8 * i.2.2.length
    let s := (c.rels.filter fun r => r.sect == 9 && decide (acc.1 ≤ r.off ∧ r.off < acc.1 + n)).foldl (fun (s : State) r =>
      match c.sites.find? (·.1 == i.1) with
      | none => s
      | some (_, y) =>
        let b := r.off - acc.1
        let cl := pageCluster x c y.page
        let places := (List.range ((b % 8 + r.width + 7) / 8)).map fun k => siteAt y cl (i.2.1 + b / 8 + k)
        let old := places.map fun p => bankByte (s.elem p.1) (256 * y.boff + p.2)
        (places.zip (putBits old (b % 8) r.width (getBits all r.off r.width))).foldl (fun s e =>
          s.modElem e.1.1 fun el => el.putBank (256 * y.boff + e.1.2) e.2) s) acc.2
    (acc.1 + n, s)
  (c.images.foldl go (0, s)).2

/-! ## What arming sets -/

/-- The slots of a launch (R46, R113, R115, R286, R308), at its first page. -/
def State.armSlots (s : State) (l : Nat) : State :=
  (s.slotKeys l).foldl (fun s k => s.modSlot k fun sl =>
    { bound := true, launch := l, kernel := sl.kernel, rank := sl.rank, unit := BitVec.ofNat 24 sl.rank,
      raised := sl.raised }) s

/-- The DDA claimed by a launch whose USED bit 3 is set (R251). -/
def State.claimDda (s : State) (l : Nat) : State :=
  if bitAt (s.copyOf l).used 3 then
    s.modRegion (s.launch l).region fun g => { g with ddaOwner := some l, cells := [], doms := [] }
  else s


/-- Bytes written into a site's buffer, at the banks of a cluster (R33, R208). -/
def State.fillSite (s : State) (cl : Nat) (x : Site) (off : Nat) (bs : List Byte) : State :=
  (bs.mapIdx fun i b => (off + i, b)).foldl (fun s e =>
    let p := siteAt x cl e.1
    s.modElem p.1 fun el => el.putBank (256 * x.boff + p.2) e.2) s

/-- Slot tables and LUT tables copied from the banks of a page (R174, R212). -/
def State.copyTables (s : State) (c : Copy) (page cl : Nat) : State :=
  let s := (List.range 16).foldl (fun s e => s.modElem (16 * cl + e) fun el =>
    match tableSite c.sites page e with
    | some (_, x) => { el with slotTable := (List.range 16).map fun j => (j, (bankByte el (256 * x.boff + j)).toNat) }
    | none => { el with slotTable := [] }) s
  s.modElem (16 * cl + 15) fun el =>
    { el with lut := ((lutSites c.sites page).take 4).mapIdx (fun t x => (List.range 256).map fun e =>
        (256 * t + e, BitVec.ofNat 64 (bankWord el (256 * x.2.boff + 8 * e) 8))) |>.flatten }

/-- Stored words of a page whose check bits arming makes valid (R303). -/
def armedEcc (cl : Nat) (slots : List Nat) : EccAt → Bool
  | .reg e k => e / 16 == cl && slots.contains (k / 64 / 48)
  | .res e _ | .resOld e _ | .mask e _ | .lut e _ => e / 16 == cl
  | .tile c _ | .wbuf c _ | .feed c => c == cl
  | _ => false

/-- An element at arming (R218, R303): undefined registers, masks and result register; no tag of a line. -/
def Elem.arm (e : Elem) (epoch : Nat) (slots : List Nat) : Elem :=
  { e with
    epoch := epoch, regs := e.regs.filter fun r => !slots.contains (r.1 / 64 / 48), masks := [], res := [], resOld := [],
    resAt := none, wrote := [], scratch := e.scratch.filter fun x => !slots.contains x.1, siteLatch := [], tags := [],
    dirty := [] }

/-- A cluster at arming (R182, R187, R193, R303). -/
def Cluster.arm (c : Cluster) (epoch : Nat) (accprot : Bool) : Cluster :=
  { c with
    epoch := epoch, tiles := [], sums := [], marked := [], wbytes := [], wOld := [], wOldLines := [], wOldAt := 0,
    wlines := [], wwrote := [], feed := [], fwords := [], runs := [], taken := [], doing := none, doingAt := 0, stepAt := none, replayDue := false,
    zeroed := [], firstBeat := [], drained := [], chk := none, accprot := accprot, accerr := 0, busy := 0, bubbles := 0,
    armed := true, shut := c.fencedAt.isSome }

/-- One page armed: its storage, its data images and argument bytes, and its tables (R70). -/
def State.armPage (s : State) (l page : Nat) : State :=
  let x := s.launch l
  let c := s.copyOf l
  let cl := pageCluster x c page
  let ep := s.serial + 1
  let s := { s with serial := s.serial + 17, ecc := s.ecc.filter fun e => !armedEcc cl x.slots e.1 }
  let s := (List.range 16).foldl (fun s e => s.modElem (16 * cl + e) fun el => el.arm (ep + e) x.slots) s
  let s := s.modCluster cl fun k => k.arm (ep + 16) c.accprot
  let s := (imagesFor x c).foldl (fun s i => match c.sites.find? (·.1 == i.1) with
    | some (_, y) => if y.page = page then s.fillSite cl y i.2.1 i.2.2 else s
    | none => s) s
  let s := match c.sites.find? (·.1 == x.argSite) with
    | some (_, y) => if x.argv && y.page == page then
        s.fillSite cl y 0 ((x.data ++ List.replicate (siteBytes y) 0).take (siteBytes y)) else s
    | none => s
  (s.copyTables c page cl).dueOp s.cycle 30 none (.matrixStep cl)

/-- PAGE_ARM (R90): a page arms; with the last page the launch is armed, and leaves its port's queue (R71, R72). -/
def execPageArm (l page : Nat) (s : State) : Res :=
  let x := s.launch l
  if x.stage ≠ .placed ∨ pagesOf (s.copyOf l) ≤ page then .next s
  else
    let s := if page = 0 then ((s.armSlots l).claimDda l).relocStore l else s
    let s := s.armPage l page
    if page + 1 < pagesOf (s.copyOf l) then .next s
    else .next ((s.dequeue l).modLaunch l fun y => { y with armed := true, armAt := s.cycle })

/-- LAUNCH_SLOTS_START (R90, R211): each slot's turns count from its first edge cycle at or after the start. -/
def execLaunchSlotsStart (l : Nat) (s : State) : Res :=
  let x := s.launch l
  if x.stage ≠ .placed ∨ !x.armed then .next s
  else
    let s := (s.slotKeys l).foldl (fun s k => s.modSlot k fun sl => { sl with start := some (s.cycle + (k % 8 + 8 - s.cycle % 8) % 8) }) s
    .next (s.modLaunch l fun y => { y with stage := .running })

end Sys2Proof.Machine
end

