-- ==== Sys2Proof/Machine/SeqMem.lean ====
section
/-! DEFINITION. Sequencer loads and stores in site buffers (07 R119, 11 R213). -/

namespace Sys2Proof.Machine

def LdTy.bytes : LdTy → Nat
  | .i8 | .n8 => 1
  | .i16 | .n16 => 2
  | .i32 | .n32 => 4
  | .i64 => 8
def StTy.bytes : StTy → Nat
  | .i8 => 1 | .i16 => 2 | .i32 => 4 | .i64 => 8

/-- A loaded value extended to 64 bits. -/
def LdTy.extend (t : LdTy) (v : Nat) : Word :=
  match t with
  | .i8 => BitVec.ofInt 64 (sextNat v 8)
  | .i16 => BitVec.ofInt 64 (sextNat v 16)
  | .i32 => BitVec.ofInt 64 (sextNat v 32)
  | _ => BitVec.ofNat 64 v

/-- EA: the site and the byte offset. -/
def eaSite (ea : Word) : Nat := field ea 63 56
def eaOff (ea : Word) : Nat := field ea 55 0
def State.ea (s : State) (base : AReg) (imm : BitVec 18) : Word := s.me.areg base + imm.signExtend 64

/-- Whether a slot's access of n bytes lies in a site's buffer (R119). -/
def State.eaOk (s : State) (key site off n : Nat) : Bool :=
  match (s.copyOf (s.slot key).launch).sites.find? (·.1 == site) with
  | none => false
  | some (_, x) => off % n == 0 && decide (off + n ≤ siteBytes x)

/-- `ld`: the read reaches the bank 8 cycles on, and the slot waits for the value (R119). -/
def execLd (t : LdTy) (d base : AReg) (imm : BitVec 18) (s : State) : Res :=
  let ea := s.ea base imm
  if !s.eaOk s.key (eaSite ea) (eaOff ea) (LdTy.bytes t) then .next (s.trapW 32)
  else
    let s := s.setMe { s.me with wait := .timed }
    .next (s.dueEff (s.cycle + 8) 100 (some s.ctx.region) (.seqLoad s.key d t (eaSite ea) (eaOff ea) (s.cycle + 15)))

/-- `st`: the write reaches the bank 8 cycles on, and the next word goes at the slot's next turn (R119). -/
def execSt (t : StTy) (x base : AReg) (imm : BitVec 18) (s : State) : Res :=
  let ea := s.ea base imm
  if !s.eaOk s.key (eaSite ea) (eaOff ea) (StTy.bytes t) then .next (s.trapW 32)
  else
    let e : Effect := .seqStore s.key (s.genOf s.key) (eaSite ea) (eaOff ea) (s.me.areg x) (StTy.bytes t) (s.cycle + 15) s.me.pc
    .next (s.advance.dueEff (s.cycle + 8) 100 (some s.ctx.region) e)

/-! ## At the bank (R213) -/

def State.seqServed (s : State) (elem last : Nat) : Bool := s.bankFree elem true && !s.seqOlder elem last

/-- `BANK_CONFLICT` at a control word, with its record (R213, R225). -/
def State.seqConflict (s : State) (key site elem : Nat) (epc : BitVec 24) : State :=
  let e := s.bankEntry elem s.cycle false
  let s := s.siteErr key site 0 (elemIdx (elemRow elem) (elemCol elem)) 1 e.1 e.2 2 0 0
  let r : Raised := { num := 18, kind := 0 }
  let sl := s.slot key
  if sl.ended then s.terminate sl.launch 18 (key % 8) else s.deliver key r epc

/-- An access of the sequencer or of a transfer unit that is bound for a fenced cluster: dropped and counted (R331). -/
def State.dropAtFence (s : State) (elem : Nat) : State :=
  s.countDrop (elem / 16) (Config.bankSeam (elem / 16))

/-- A fenced cluster's storage is not read: the value of the load is free (log entry 69). -/
def State.runSeqLoad (s : State) (key : Nat) (d : AReg) (t : LdTy) (site off last : Nat) : State :=
  let (e, b) := s.seqPlace key (s.genOf key) site off
  if !s.elemRuns e then
    let (v, s) := s.free
    (s.dropAtFence e).dueEff (last + 1) 20 (some (key / 8)) (.value key d v)
  else if s.seqServed e last then
    let v := LdTy.extend t (bankWord (s.elem e) b (LdTy.bytes t))
    (s.modElem e fun x => { x with otherUse := some s.cycle }).dueEff (last + 1) 20 (some (key / 8)) (.value key d v)
  else if last ≤ s.cycle then s.seqConflict key site e (s.slot key).pc
  else s.dueEff (s.cycle + 1) 100 (some (key / 8)) (.seqLoad key d t site off last)

def State.runSeqStore (s : State) (key gen site off : Nat) (v : Word) (n last : Nat) (epc : BitVec 24) : State :=
  let (e, b) := s.seqPlace key gen site off
  if !s.elemRuns e then s.dropAtFence e
  else if s.seqServed e last then
    let x : Site := look {} (s.copy (key / 8) gen).sites site
    let a := b - 256 * x.boff
    let bs := (bytesOf v.toNat n).mapIdx fun i y => (a + i, y)
    s.modElem e fun el => { el.storeBytes site x.fill (256 * x.boff) bs with otherUse := some s.cycle }
  else if last ≤ s.cycle then s.seqConflict key site e epc
  else s.dueEff (s.cycle + 1) 100 (some (key / 8)) (.seqStore key gen site off v n last epc)

/-- The loaded value is written, and the slot goes on (R119). -/
def State.runValue (s : State) (key : Nat) (d : AReg) (v : Word) : State :=
  s.modSlot key fun sl => { (sl.setA d v).pcNext with wait := .none }

end Sys2Proof.Machine
end

