-- ==== Sys2Proof/Machine/SeqDda.lean ====
section
/-! DEFINITION. The control words of the DDA and the completion of its patches, saves and restores (13 R256 to R260). -/

namespace Sys2Proof.Machine

/-- `dpatch` (R258): word j is a sequencer load issued at t + 8j, and the patches change together. -/
def execDpatch (x : AReg) (first more : Fin 512) (s : State) : Res :=
  let ea := s.me.areg x
  let n := more.val + 1
  if !s.eaOk s.key (eaSite ea) (eaOff ea) 8 then .next (s.trapW 32)
  else
    let s := s.setMe { s.me with wait := .timed }
    let s := s.dueEff (s.cycle + 8) 100 (some s.ctx.region) (.patchWord s.key first.val 0 n (eaSite ea) (eaOff ea) (s.cycle + 15) [])
    .next (s.dueOp (s.cycle + 8 * (n - 1) + 16) 138 (some s.ctx.region) (.dpatchDone s.key))

/-- The words of a `dpatch` read so far: the next one is issued, or all wait for its completion. -/
def State.patchGot (s : State) (key first j n site off last : Nat) (got : List Word) : State :=
  if j + 1 < n then s.dueEff (last + 1) 100 (some (key / 8)) (.patchWord key first (j + 1) n site off (last + 8) got)
  else s.dueEff (last + 1) 139 (some (key / 8)) (.patched key first got)

/-- A word of a `dpatch` at its bank (R213, R258). On the first of its cycles there the next word is issued, and its
address checked (R119). -/
def State.runPatchWord (s : State) (key first j n site off last : Nat) (got : List Word) : State :=
  let (e, b) := s.seqPlace key (s.genOf key) site (off + 8 * j)
  let r := some (key / 8)
  if s.cycle + 7 = last && decide (j + 1 < n) && !s.eaOk key site (off + 8 * (j + 1)) 8 then
    s.deliver key { num := 32, kind := 0 } (s.slot key).pc
  else if !s.elemRuns e then
    let (v, s) := s.free
    (s.dropAtFence e).patchGot key first j n site off last (got ++ [v])
  else if s.seqServed e last then
    (s.modElem e fun x => { x with otherUse := some s.cycle }).patchGot key first j n site off last
      (got ++ [BitVec.ofNat 64 (bankWord (s.elem e) b 8)])
  else if last ≤ s.cycle then s.seqConflict key site e (s.slot key).pc
  else s.dueEff (s.cycle + 1) 100 r (.patchWord key first j n site off last got)

/-- DPATCH_DONE (R258): the checks, then every patch changes, with latches and counters cleared. -/
def execDpatchDone (key : Nat) (s : State) : Res :=
  let r := key / 8
  let found := s.agenda.find? fun d => match d.act with
    | .inr (.patched k _ _) => k == key && decide (d.at_ ≤ s.cycle)
    | _ => false
  match found with
  | none => .next s
  | some d =>
    let s := { s with agenda := dropDue d s.agenda }
    match d.act with
    | .inr (.patched _ first got) =>
      let g := s.region r
      let ps := got.mapIdx fun i p => (first + i, p)
      let trap (n : Nat) : State := s.raiseNow key { num := n, kind := 0 }
      if !got.all patchOk then .next (trap 66)
      else if ps.any fun x => (g.dom (patchDom (g.cell x.1).patch)).runsOn s.cycle || (g.dom (patchDom x.2)).runsOn s.cycle then .next (trap 65)
      else
        let cells := ps.map fun x =>
          (x.1, ({ g.cell x.1 with patch := x.2, latch := 0, pend := Vector.replicate 4 0 } : Cell))
        let s := s.setRegion r { g with cells := putAll g.cells cells }
        .next (s.modSlot key fun sl => { sl.pcNext with wait := .none })
    | _ => .next s

/-- `dset` (R259). -/
def execDset (x : AReg) (c : Fin 512) (s : State) : Res :=
  let v := s.me.areg x
  if !yOk v.toInt then .next (s.trapW 65)
  else .next (s.advance.dueEff (s.cycle + 4) 12 (some s.ctx.region) (.cellSet s.ctx.region c.val v))

def State.runCellSet (s : State) (r c : Nat) (v : Word) : State :=
  s.modRegion r fun g => { g with cells := put g.cells c { g.cell c with y := v.setWidth 33, r := 0 } }

/-- `dstep` (R256). -/
def execDstep (n p : AReg) (dom : Fin 4) (s : State) : Res :=
  let a := s.me.areg n
  let b := s.me.areg p
  if field a 63 31 ≠ 0 ∨ field b 63 16 ≠ 0 ∨ field b 15 0 = 0 then .next (s.trapW 65)
  else .next (s.advance.dueEff (s.cycle + 4) 5 (some s.ctx.region)
    (.domSet s.ctx.region dom.val (field a 30 0) (field b 15 0) s.key))

/-- `dstop` (R256). -/
def execDstop (dom : Fin 4) (s : State) : Res :=
  .next (s.advance.dueEff (s.cycle + 4) 5 (some s.ctx.region) (.domStop s.ctx.region dom.val))

/-- What stops `dsave` and `drest` (R260). -/
def State.saveFault (s : State) (v : Word) : Option Nat :=
  if field v 63 24 ≠ 0 ∨ field v 5 0 ≠ 0 ∨ 2 ^ 24 < field v 23 0 + imageBytes then some 32
  else if (List.range 4).any fun d => ((s.region s.ctx.region).dom d).running then some 65
  else none

def execDsave (x : AReg) (s : State) : Res :=
  match s.saveFault (s.me.areg x) with
  | some n => .next (s.trapW n)
  | none => .next ((s.setMe { s.me with wait := .save (field (s.me.areg x) 23 0) 0 }).dueEff (s.cycle + 1) 116 (some s.ctx.region) (.saveUnit s.key))

def execDrest (x : AReg) (s : State) : Res :=
  match s.saveFault (s.me.areg x) with
  | some n => .next (s.trapW n)
  | none => .next (s.setMe { s.me with wait := .restore (field (s.me.areg x) 23 0) })

/-- Bytes written in home space (R229); `dsave` also sets the full/empty bits of their words (R283). -/
def State.homeStore (s : State) (region off : Nat) (bs : List Byte) (fe : Bool) : State :=
  (List.range (ceilDiv bs.length 64)).foldl (fun s i =>
    let u := Sys2Proof.slice bs (64 * i) 64
    let a := homePa region (off + 64 * i)
    if fe then (s.memStore a u).setFe a u.length true else s.memStore a u) s

def State.homeRead (s : State) (region off n : Nat) : List Byte :=
  (List.range (ceilDiv n 64)).flatMap fun i => s.nodeRead (homePa region (off + 64 * i)) (Nat.min 64 (n - 64 * i))
def State.homeBad (s : State) (region off n : Nat) : Bool :=
  (List.range (ceilDiv n 64)).any fun i => s.memBad (homePa region (off + 64 * i)) 64

/-- The units of a save image. -/
def imageUnits : Nat := imageBytes / 64

/-- The next unit of an image at its bank, through an XFER entry (R227, R260). -/
def State.runSaveUnit (s : State) (key : Nat) : State :=
  let r := key / 8
  match (s.slot key).wait with
  | .save off n =>
    if imageUnits ≤ n then s
    else
      let (ok, t) := s.atBanks 1 (.save key) 0 (bankNodes [homePa r (off + 64 * n) / 64])
      let t := if ok then
          (t.homeStore r (off + 64 * n) (Sys2Proof.slice (ddaImage (s.region r) s.cycle) (64 * n) 64) true).modSlot key
            fun sl => { sl with wait := .save off (n + 1) }
        else t
      if ok && decide (imageUnits ≤ n + 1) then t else t.dueEff (s.cycle + 1) 116 (some r) (.saveUnit key)
  | _ => s

/-- DSAVE_DONE (R260): the image has been written, or the units before the one that failed. -/
def execDsaveDone (key : Nat) (bad : Option Nat) (s : State) : Res :=
  match (s.slot key).wait with
  | .save off n =>
    match bad with
    | none => .next (if imageUnits ≤ n then s.modSlot key fun sl => { sl.pcNext with wait := .none } else s)
    | some u =>
      .next (if u = n ∧ u < imageUnits then
          (s.report 36 (homeSlice (key / 8) ((off + 64 * u) / sliceBytes)) 0).raiseNow key { num := 36, kind := 0 }
        else s)
  | _ => .next s

/-- DREST_DONE (R260): the image is read and checked whole, then every cell and domain takes it, on its cycle after the
steps and emissions and before the taps are sampled (R263). -/
def execDrestDone (key : Nat) (s : State) : Res :=
  let r := key / 8
  match (s.slot key).wait with
  | .restore off =>
    if s.phase ≠ .start ∨ s.stepsDue r then
      .next (s.dueOp (if s.phase = .start then s.cycle else s.cycle + 1) 12 (some r) (.drestDone key))
    else if s.homeBad r off imageBytes then
      .next ((s.report 36 (homeSlice r (off / sliceBytes)) 0).raiseNow key { num := 36, kind := 0 })
    else
      let b := s.homeRead r off imageBytes
      if !imageOk b then .next (s.raiseNow key { num := 66, kind := 0 })
      else
        let s := s.modRegion r fun g => g.fromImage b s.cycle key
        .next ((s.scheduleDoms r).modSlot key fun sl => { sl.pcNext with wait := .none })
  | _ => .next s

/-- DDA_STEP (R253): the domain steps when this is the cycle of its next step. -/
def execDdaStep (region : Nat) (dom : Fin 4) (s : State) : Res :=
  let x := (s.region region).dom dom.val
  if x.running && x.left != 0 && x.next == s.cycle then .next (s.domainStep region dom.val) else .next s

end Sys2Proof.Machine
end

