-- ==== Sys2Proof/Machine/SeqSync.lean ====
section
/-! DEFINITION. Rendezvous, handle, barrier and fence words (16 R277 to R281, 17 R286 to R299). -/

namespace Sys2Proof.Machine

/-! ## Rendezvous words (R287 to R289) -/

/-- Whether operations of a launch's wN reach a slice of another region (R291). -/
def State.remotePoint (s : State) (l w : Nat) : Bool :=
  match (s.point l w).link with
  | some (l', _) => (s.launch l').region != (s.launch l).region
  | none => false

/-- A point whose state is uncorrectable is reset and the word traps (R313, cause 85). -/
def State.pointEcc (s : State) (w : Nat) : Option State :=
  let t := s.target s.me.launch w
  if s.eccBad (.point t.1 t.2) then
    some ((((s.eccClear [.point t.1 t.2]).setPoint t.1 t.2 {}).report 85 (s.pointSlice t.1) 0).trapW 85 w)
  else none

def execRvinit (x : AReg) (w : Fin 24) (s : State) : Res :=
  match s.pointEcc w.val with
  | some s => .next s
  | none =>
    let v := s.me.areg x
    let s := s.setMe { s.me with wait := .rvOut, busy := s.cycle + 16 }
    .next (s.dueEff (s.cycle + 8) 130 none (.rvInit s.key s.me.launch w.val v true))

def execRvarr (w : Fin 24) (s : State) : Res :=
  match s.pointEcc w.val with
  | some s => .next s
  | none =>
    if s.remotePoint s.me.launch w.val then .next (s.setMe { s.me with wait := .away w.val .arrive })
    else
      let s := s.setMe { s.me with wait := .rvOut, busy := s.cycle + 16 }
      .next (s.dueEff (s.cycle + 8) 131 none (.rvArrive s.key s.me.launch w.val (look 0 s.me.ac w.val) true))

def execRvwait (w : Fin 24) (s : State) : Res :=
  match s.pointEcc w.val with
  | some s => .next s
  | none =>
    if s.remotePoint s.me.launch w.val then .next (s.setMe { s.me with wait := .away w.val .query })
    else .next (s.setMe { s.me with wait := .rv w.val none, busy := s.cycle + 8 })

/-- The outcome of a rendezvous word: it has performed, or its cause comes first on the slot's next turn (R307). -/
def State.rvOutcome (s : State) (key w : Nat) (live : Bool) (r : State × Option Nat) : State :=
  match r.2 with
  | none => if live then r.1.modSlot key Slot.pcNext else r.1
  | some n => s.modSlot key fun sl => { sl with raised := { num := n, kind := 0, code := w } :: sl.raised }

/-- Whether a slot still belongs to the launch that executed a rendezvous word, and its team stands. -/
def State.sameTeam (s : State) (key l : Nat) : Bool :=
  (s.slot key).bound && (s.slot key).launch == l && (s.launch l).stage == .running

/-- `rvinit` at its point (R287); the point of a team that has gone has gone with it. -/
def State.runRvInit (s : State) (key l w : Nat) (v : Word) (live : Bool) : State :=
  if s.sameTeam key l then s.rvOutcome key w live (s.initPoint key w v) else s

/-- `rvarr` at its point (R288), whatever has become of its team by then (R291, R293, log entry 56). -/
def State.runRvArrive (s : State) (key l w : Nat) (ac : BitVec 16) (live : Bool) : State :=
  if s.sameTeam key l then s.rvOutcome key w live (s.arrivePoint key w)
  else s.arriveAfter l w ac

/-! ## Handle words (R294 to R296) -/

/-- The word that `hstat` reads (R242). -/
def handleWord (h : Handle) : Word :=
  let st := match h.st with | .free => 0 | .filling => 1 | .full => 2 | .draining => 3
  BitVec.ofNat 64 (h.units % 2 ^ 32 * 2 ^ 32 + h.planes % 16 * 16 + (if h.fw then 8 else 0) + (if h.err then 4 else 0) + st)

/-- A handle made full for an error in its state: the request that filled it has its end here (R280). -/
def State.fullHandle (s : State) (r h : Nat) (x : Handle) : State :=
  let s := s.setHandle r h x
  { s with reqs := s.reqs.filter fun q => !(q.region == r && pktHandle q.pkt == h) }

/-- What stops a handle word (R242, R313 cause 86): the handle of another launch, or an uncorrectable state. -/
def State.handleFault (s : State) (h : Nat) : Option State :=
  let r := s.ctx.region
  let x := s.handle r h
  if s.eccBad (.handle r h) then
    some ((((s.eccClear [.handle r h]).fullHandle r h { x with st := .full, err := true }).report 86 r 0).trapW 86 h)
  else if x.st ≠ .free ∧ x.owner ≠ s.me.launch then some (s.trapW 83 h)
  else none

def execHwait (h : Fin 64) (s : State) : Res :=
  match s.handleFault h.val with
  | some s => .next s
  | none => .next (s.setMe { s.me with wait := .handle h.val none, busy := s.cycle + 8 })

def execHfree (h : Fin 64) (s : State) : Res :=
  match s.handleFault h.val with
  | some s => .next s
  | none =>
    if (s.handle s.ctx.region h.val).st = .filling then .next (s.trapW 83 h.val)
    else .next (s.advance.dueEff (s.cycle + 8) 140 none (.hFree s.key h.val))

def execHstat (d : AReg) (h : Fin 64) (s : State) : Res :=
  match s.handleFault h.val with
  | some s => .next s
  | none => .next ((s.setMe { s.me with wait := .timed }).dueEff (s.cycle + 8) 145 (some s.ctx.region) (.hStat s.key d h.val))

/-- The word as it stands at the end of the cycle, after every change of the handle on it (R296). -/
def State.runHStat (s : State) (key : Nat) (d : AReg) (h : Nat) : State :=
  s.dueEff (s.cycle + 8) 20 (some (key / 8)) (.value key d (handleWord (s.handle (key / 8) h)))

/-- A full handle begins to drain (R242, R295): 64 bytes of full/empty bits a cycle, or nothing, to the next cycle. -/
def State.runHFree (s : State) (key h : Nat) : State :=
  let r := key / 8
  let x := s.handle r h
  if x.st = .full ∧ x.owner = (s.slot key).launch then
    let n := match x.dest with | some (_, n) => ceilDiv n 64 | none => 1
    let s := s.setHandle r h { x with st := .draining, drainAt := s.cycle + n }
    let s := if x.dest.isSome then s.dueEff (s.cycle + 1) 139 none (.drain r h 0) else s
    s.dueOp (s.cycle + n) 140 none (.handleDrainEnd r ⟨h % 64, Nat.mod_lt _ (by decide)⟩)
  else s

/-- One unit's full/empty bits of a draining destination clear, and the next cycle takes the next, if there is one (R295). -/
def State.runDrain (s : State) (r h i : Nat) : State :=
  match (s.handle r h).dest with
  | some (off, n) =>
    if n ≤ 64 * i then s
    else
      let s := s.setFe (homePa r (off + 64 * i)) 64 false
      if n ≤ 64 * (i + 1) then s else s.dueEff (s.cycle + 1) 139 none (.drain r h (i + 1))
  | none => s

/-! ## Cluster synchronisation (R297) -/

/-- Whether a page mask names pages of the page set alone. -/
def State.maskOk (s : State) (m : Word) : Bool := decide (m.toNat < 2 ^ pagesOf (s.copyOf s.me.launch))

def execCsync (m : AReg) (s : State) : Res :=
  let v := s.me.areg m
  let others := (s.slotKeys s.me.launch).any fun k => k != s.key && (match (s.slot k).wait with
    | .csync v' _ => v' != v
    | _ => false)
  if !s.maskOk v || others then .next (s.trapW 82)
  else
    let s := s.setMe { s.me with wait := .csync v s.cycle }
    .next (s.dueOp (s.cycle + 2 ^ 32) 141 (some s.ctx.region) (.csyncStall s.me.launch))

/-! ## Stream barriers and fences (R277 to R281) -/

def execSbar (set : BitVec 16) (s : State) : Res :=
  .next (s.setMe { s.me.pcNext with barriers := s.me.barriers ++ [{ set := set, ts := s.cycle }] })

/-- A fence begins: its waymarks go down the paths of its scope (R279). -/
def State.startFence (s : State) (scope : Nat) : State :=
  let sl := s.me
  let ps := (sl.paths.map (·.1)).filter (fencePath s.ctx.region scope)
  s.setMe { sl with wait := .fence scope s.cycle, waymarks := ps }

def execFenceWay (s : State) : Res := .next (s.startFence 6)
def execFence (scope : Fin 6) (s : State) : Res := .next (s.startFence scope.val)

/-- The least scope whose fence waits for what a beat of a word does (R280); 6 stands for none but `fence.way`, 7 for none
at all. -/
def accessScope : Instr → Nat
  | .sts .. | .stx _ | .stw _ | .mcast _ => 0
  | .send _ => 1
  | .ldw _ | .ldsy _ | .atomAdd .. | .atomMin .. | .atomMax .. | .atomAnd _ | .atomOr _ | .atomXor _ | .atomXchg _
  | .atomCas _ | .atomInc _ => 2
  | .grp o => if bitAt o.imm 0 then 2 else 7
  | .mjoin o => if bitAt o.imm 2 then 2 else 7
  | .treq _ => 5
  | _ => 7

/-- Whether a fence waits for a beat in flight: one of its scope, or for `fence.way` a windowed one. -/
def Flight.fenced (f : Flight) (scope : Nat) : Bool :=
  match decodeSched f.word with
  | .ok i => if scope = 6 then (windowed i).isSome else decide (accessScope i ≤ scope)
  | .error _ => false

/-- Beats of a slot that left the edge before a cycle, have not all executed, and count for a fence. -/
def State.beatsBefore (s : State) (key scope since : Nat) : Bool :=
  s.flights.any fun f => slotKey f.region f.slot == key && decide (f.edge < since) && f.fenced scope

/-- The slot's stores that have not reached their banks, of beats before a cycle (R274). -/
def State.mergesBefore (s : State) (key since : Nat) : Bool :=
  s.agenda.any fun d => match d.act with
    | .inr (.merge k e ..) => k == key && decide (d.at_ < since + 8 + elemCol e)
    | .inr (.seqStore k ..) => k == key
    | _ => false

/-- Whether everything that a fence waits for has taken effect or performed (R279, R280). -/
def State.fenceDone (s : State) (key scope since : Nat) : Bool :=
  let sl := s.slot key
  !s.beatsBefore key scope since && sl.waymarks.isEmpty
    && (scope == 6
      || (!s.mergesBefore key since
        && (decide (scope = 0) || !(s.beats.any fun b => slotKey b.region b.slot == key && !b.held && decide (b.edge < since)))
        && (decide (scope < 2) || !(s.upds.any fun u => u.slot == key && decide (u.edge < since) && (decide (4 ≤ scope)
              || fencePath (key / 8) scope u.slice)))
        && (decide (scope < 5) || !(s.reqs.any fun r => r.slot == key && r.launch == sl.launch && pktDir r.pkt && decide (r.edge < since)))))

end Sys2Proof.Machine
end

