-- ==== Sys2Proof/Machine/Windows.lean ====
section
/-! DEFINITION. Windowed accesses at their nodes and windows at their close (08 R140 to R142, 12 R234 to R239, 11 R224, 16
R275 to R280, 18 R300, R301). -/

namespace Sys2Proof.Machine

def State.acc (s : State) (id : Nat) : Option Access := s.accs.find? (·.id == id)
def State.setAcc (s : State) (a : Access) : State := { s with accs := s.accs.map fun (x : Access) => if x.id = a.id then a else x }
def State.dropAcc (s : State) (id : Nat) : State := { s with accs := s.accs.filter (·.id != id) }

/-! ## Order (R234, R275 to R277) -/

/-- Whether access x is ahead of access a in its stream (R234); a multicast's replicas are ordered only with other
issues (R238). -/
def Access.ahead (x a : Access) : Bool :=
  x.slot == a.slot && x.elem == a.elem && x.stream == a.stream && x.st != .performed && decide (x.id < a.id)
    && (if a.kind = .replica ∨ x.kind = .replica then decide (x.edge < a.edge) else true)

/-- Whether a barrier of its slot holds an access (R277). -/
def State.barred (s : State) (a : Access) : Bool :=
  (s.slot a.slot).barriers.any fun b =>
    b.set.getLsbD a.stream && decide (b.ts ≤ a.edge)
      && ((s.accs.any fun x => x.slot == a.slot && x.st != .performed && b.set.getLsbD x.stream && decide (x.edge < b.ts))
        || s.flights.any fun f => slotKey f.region f.slot == a.slot && decide (f.edge < b.ts)
          && (match f.stream with | some n => b.set.getLsbD n | none => false))

/-- Whether an access may perform now. -/
def State.mayPerform (s : State) (a : Access) : Bool :=
  a.st == .sent && !(s.accs.any fun x => x.ahead a) && !s.barred a

/-- An access that failed at the nodes of some granules: kept for the waymark that comes behind it on its paths (R279), and
reported (R335). -/
def State.failAcc (s : State) (a : Access) (gs : List Nat) (cause : Nat) : State :=
  let ns := (gs.map fun g => sliceOf (64 * g)).eraseDups
  let s := s.modSlot a.slot fun sl => { sl with failed := (ns.map fun n => (256 * a.elem + n, a.edge)) ++ sl.failed }
  ns.foldl (fun s n => s.report cause n 0) s

/-! ## Stamps (R224) -/

def accSite (s : State) (a : Access) : Site := look {} (s.copy (elemRegion a.elem) a.gen).sites a.site

/-- Whether a stamp lets a fill of a site pass. -/
def stampOk (sites : Map Site) (a : Access) (st : Stamp) : Bool :=
  let f := (look ({} : Site) sites a.site).slip
  let g := (look ({} : Site) sites st.site).slip
  st.launch != a.launch || st.site == a.site || (f != 0 && f == g) || !(st.w || a.store)

/-- The granules of an access's line. -/
def Access.granules (a : Access) : List Nat := (List.range (ceilDiv a.len 64)).map (a.addr / 64 + ·)

/-- Uncorrectable stamps are cleared and reported, and pass (R313, cause 45). -/
def State.mendStamps (s : State) (gs : List Nat) : State :=
  gs.foldl (fun s g => if s.eccBad (.stamp g) then
    ({ s.eccClear [.stamp g] with stamps := del s.stamps g } : State).report 45 (sliceOf (64 * g)) 0 else s) s

/-- Whether the access's line still carries the tag of a granule: LIVE of its stamp is then set, else already cleared
(R224). -/
def State.holdsTag (s : State) (a : Access) (g : Nat) : Bool :=
  ((s.elem a.elem).lineTags a.site a.line).any fun x => x.2 = { space := 0, off := 64 * g }

/-- The stamps of granules after their check: a granule whose line has lost its tag keeps none that is live. -/
def State.takeStamps (s : State) (a : Access) (gs : List Nat) (held : Nat → Bool) : State :=
  { s with stamps := gs.foldl (fun m g =>
      if held g then put m g { launch := a.launch, site := a.site, w := a.store } else del m g) s.stamps }

/-- A passed check of a line ends the refusal of its tags (R237). -/
def State.passTag (s : State) (a : Access) : State :=
  { s with refused := s.refused.filter fun x => !(x.launch == a.launch && x.elem == a.elem && x.site == a.site && x.line == a.line) }

/-- The stamp check of a line: the stamps taken, or the site of the first stamp that refuses and the slice that holds it. -/
def State.stampLine (s : State) (a : Access) (held : Nat → Bool) : State × Option (Nat × Nat) :=
  let gs := a.granules
  let s := s.mendStamps gs
  let sites := (s.copy (elemRegion a.elem) a.gen).sites
  let refused := gs.findSome? fun g => match s.stamps.find? (·.1 == g) with
    | some (_, st) => if stampOk sites a st then none else some (st.site, sliceOf (64 * g))
    | none => none
  match refused with
  | some n => (s, some n)
  | none => ((s.takeStamps a gs held).passTag a, none)

/-! ## Accesses at their nodes -/

/-- The words of an access's line that stand in some granules. -/
def Access.wordsIn (a : Access) (gs : List Nat) : List Nat := (List.range (a.len / 4)).filter fun i => gs.contains (a.addr / 64 + i / 16)

/-- Words of a line as a read of this cycle returns them. -/
def State.lineReply (s : State) (a : Access) (gs : List Nat) : Map LaneWord :=
  (a.wordsIn gs).map fun i => (i, BitVec.ofNat 32 (natOfBytes (s.nodeRead (a.addr + 4 * i) 4)))

/-- Words of a synchronising load served now: full, and not landed on this very cycle (R236, R272). -/
def State.serve (s : State) (a : Access) (gs : List Nat) : Access :=
  let fresh (p : Nat) : Bool := s.memOldAt == s.cycle && (List.range 4).any fun j => s.memOld.any (·.1 == p + j)
  (a.wordsIn gs).foldl (fun a i =>
    let p := a.addr + 4 * i
    if a.reply.any (·.1 == i) || !s.feAt p || fresh p then a
    else { a with reply := put a.reply i (BitVec.ofNat 32 (natOfBytes (s.nodeRead p 4))) }) a

/-- Whether an uncorrectable full/empty bit stands in some granules of a line. -/
def State.feBad (s : State) (a : Access) (gs : List Nat) : Bool :=
  !s.ecc.isEmpty && (a.wordsIn gs).any fun i =>
    let p := a.addr + 4 * i
    s.eccBad (.fe (sliceOf p) ((p - sliceBase) % sliceBytes / 4))

/-- A granule that was written on this very cycle: its bank serves no read of it now (R227, R234). -/
def State.granFresh (s : State) (g : Nat) : Bool := s.memOldAt == s.cycle && s.memOld.any fun (b : Nat × Byte) => b.1 / 64 == g

/-- An access at the banks of granules of it (R227): the parts served perform, and what its banks do not serve now tries again
on the next cycle. -/
def State.access (s : State) (a : Access) (gs : List Nat) (i : Instr) (f : List Nat → State → State) : Res :=
  let (on, t) := s.partsAt a gs
  let u := if on.isEmpty then t else (f on t).note a.slot a.edge [a.elem] [] t
  .next (if on = a.lines then u else u.dueOp (s.cycle + 1) 101 none i)

/-- Granules of a fill or synchronising load served by their banks (R224, R235, R236); an error that a node finds fails all of
it. -/
def State.fillAt (s : State) (a : Access) (gs : List Nat) : State :=
  let (s, refused) := if a.reply.isEmpty then s.stampLine a (s.holdsTag a) else (s, none)
  let bad := gs.filter fun g => s.memBad (64 * g) 64
  match refused with
  | some n => s.setAcc { a with st := .performed, stamped := some n }
  | none =>
    if !bad.isEmpty then (s.failAcc a bad 36).setAcc { a with st := .performed, ecc := true }
    else if a.kind = .sync && s.feBad a gs then
      (s.failAcc a (gs.filter fun g => s.feBad a [g]) 87).setAcc { a with st := .performed, fe := true }
    else
      let b := if a.kind = .read then { a with reply := putAll a.reply (s.lineReply a gs) } else s.serve a gs
      s.setAcc (if b.reply.length = b.len / 4 then { b with st := .performed } else b)

/-- SLICE_FILL_READ: a fill or synchronising load at its node (R224, R235, R236). -/
def execSliceFillRead (id : Nat) (s : State) : Res :=
  match s.acc id with
  | none => .next s
  | some a =>
    let gs := a.lines.filter fun g => !s.granFresh g
    if !(s.mayPerform a && (a.kind == .read || a.kind == .sync)) || gs.isEmpty then .next s
    else s.access a gs (.sliceFillRead id) fun on s => s.fillAt a on

/-- Whether a write-back comes under a refused tag: the slice drops it, of whatever slot (R237). -/
def State.tagRefused (s : State) (a : Access) : Bool :=
  s.refused.any fun x => x.launch == a.launch && x.elem == a.elem && x.site == a.site && decide (x.addr ≤ a.addr ∧ a.addr < x.addr + x.len)

/-- A store's tag refused (R237). -/
def State.refuseTag (s : State) (a : Access) (by_ : Nat × Nat) : State :=
  let x := accSite s a
  let h := shareOf x a.elem
  let s := { s with refused := { launch := a.launch, elem := a.elem, site := a.site, line := a.line, addr := a.addr, len := a.len } :: s.refused }
  let s := if ((s.elem a.elem).lineTags a.site a.line).map (·.2) = lineTagsAt h a.addr then
      (s.clearTag a.launch a.elem a.site a.line x.slip).modElem a.elem fun e => e.cleanLine h a.site a.line
    else s
  let i := elemIdx (elemRow a.elem) (elemCol a.elem)
  (s.siteErr a.slot a.site by_.1 i 3 0 0 6 0 by_.2).raise a.slot { num := 34, kind := 3 }

/-- STAMP_CHECK: the check that a store's retag sent (R237). -/
def execStampCheck (id : Nat) (s : State) : Res :=
  match s.acc id with
  | none => .next s
  | some a =>
    if !(s.mayPerform a && a.kind == .check) then .next s
    else match s.stampLine a (s.holdsTag a) with
      | (t, none) => .next ((t.dropAcc id).note a.slot a.edge [] [] s)
      | (t, some n) => .next (((t.refuseTag a n).dropAcc id).note a.slot a.edge [a.elem] [] s)

/-- A queued write-back reads its line's dirty bytes under its tag and clears them; under no tag they are cleared and
nothing is written (R237, R300, R301). -/
def State.readDirty (s : State) (a : Access) : State :=
  let h := shareOf (accSite s a) a.elem
  let e := s.elem a.elem
  let tags := (e.lineTags a.site a.line).map (·.2)
  let bs := (e.dirtyOf h a.site a.line).map fun b => (a.addr + b.1, b.2)
  let mine := decide (tags = lineTagsAt h a.addr)
  let s := s.modElem a.elem fun e =>
    let e := { e with otherUse := some s.cycle }
    if mine || tags.isEmpty then e.cleanLine h a.site a.line else e
  if mine && !bs.isEmpty then s.setAcc { a with st := .sent, bytes := bs } else s.dropAcc a.id

/-- WRITE_BACK_READ: the oldest queued write-back of an element reads its bank when an entry serves it (R211, R300). -/
def execWriteBackRead (elem : Nat) (s : State) : Res :=
  match s.accs.find? fun a => a.elem == elem && a.kind == .wback && a.st == .queued && decide (a.notBefore ≤ s.cycle) with
  | none => .next s
  | some a => .next (if s.bankFree elem false then (s.readDirty a).note a.slot a.edge [elem] [] s
      else s.dueOp (s.cycle + 1) 101 (some (elemRegion elem)) (.writeBackRead elem))

/-- The stored word that a byte of memory stands in, with its first byte and its size. -/
def wordOf (a : Nat) : EccAt × Nat × Nat :=
  if a < sliceBase then (.hbm (a / 64), a / 64 * 64, 64) else (.slice (sliceOf a) (a / 8 % (sliceBytes / 8)), a / 8 * 8, 8)

def whole (bs : List (Nat × Byte)) (a : Nat) : Bool :=
  (List.range (wordOf a).2.2).all fun i => bs.any (·.1 == (wordOf a).2.1 + i)

/-- Scattered bytes at their node: refused where a word that they do not fill is uncorrectable. -/
def State.scatter (s : State) (bs : List (Nat × Byte)) : Option State :=
  if s.ecc.isEmpty then some (s.memScatter bs)
  else if bs.any fun b => s.eccBad (wordOf b.1).1 && !whole bs b.1 then none
  else some ((s.memScatter bs).eccClear ((bs.filter fun b => whole bs b.1).map fun b => (wordOf b.1).1))

/-- Granules of a write-back or a replica perform at their nodes. -/
def State.performWrite (s : State) (a : Access) (gs : List Nat) : State :=
  let rest := a.bytes.filter fun b => !gs.contains (b.1 / 64)
  let done (s : State) : State := if rest.isEmpty then s.dropAcc a.id else s.setAcc { a with bytes := rest }
  if a.kind = .wback ∧ s.tagRefused a then s.dropAcc a.id
  else match s.scatter (a.bytes.filter fun b => gs.contains (b.1 / 64)) with
    | some s => done s
    | none => done (s.failAcc a gs 36)

/-- WRITE_BACK_PERFORM (R237). -/
def execWriteBackPerform (id : Nat) (s : State) : Res :=
  match s.acc id with
  | none => .next s
  | some a =>
    if s.mayPerform a && a.kind == .wback then s.access a a.lines (.writeBackPerform id) fun on s => s.performWrite a on else .next s

/-- MCAST_REPLICA (R238). -/
def execMcastReplica (id : Nat) (s : State) : Res :=
  match s.acc id with
  | none => .next s
  | some a =>
    if s.mayPerform a && a.kind == .replica then s.access a a.lines (.mcastReplica id) fun on s => s.performWrite a on else .next s

/-- The lanes of an atomic at its slice, in ascending order: memory, and the old words (R239). -/
def atomLanes (ar : Arith) (op base : Nat) : List (Nat × LaneWord × LaneWord) → State → Map LaneWord → State × Map LaneWord
  | [], s, r => (s, r)
  | (i, v, c) :: l, s, r =>
    let p := base + 4 * i
    let x : LaneWord := BitVec.ofNat 32 (natOfBytes (memRead s.mem p 4))
    let bs := (bytesOf (atomValue op ar x v c).toNat 4).mapIdx fun j b => (p + j, b)
    atomLanes ar op base l (s.memScatter bs) (put r i x)

/-- Whether an atomic has come to its slice on an earlier cycle and waits there. -/
def State.atomWaits (s : State) (a : Access) : Bool :=
  (s.slice (sliceOf a.addr)).waits.any fun w => w.who == .acc a.id (a.addr / 64)

/-- Whether an atomic keeps the order of the elements among those that come on this cycle (R239). -/
def State.atomTurn (s : State) (a : Access) : Bool :=
  match (s.slice (sliceOf a.addr)).atomAt with
  | some (t, e) => t != s.cycle || s.atomWaits a || decide (e ≤ a.order)
  | none => true

/-- An atomic served by its bank (R239). -/
def State.atomAt (s : State) (a : Access) : State :=
  if a.ops.any fun o => s.memBad (a.addr + 4 * o.1) 4 then
    (s.failAcc a (a.lines.filter fun g => s.memBad (64 * g) 64) 36).setAcc { a with st := .performed, ecc := true }
  else
    let (s, r) := atomLanes { rnd := a.rnd, sat := a.sat } a.op a.addr a.ops s []
    s.setAcc { a with st := .performed, reply := r }

/-- An atomic that has come: the ones of this cycle that come after it are of no lower element (R239). -/
def State.atomCome (s : State) (a : Access) : State :=
  if s.atomWaits a then s else s.modSlice (sliceOf a.addr) fun x => { x with atomAt := some (s.cycle, a.order) }

/-- ATOMIC_PERFORM (R239): it sees only writes of earlier cycles (R272), and its lanes perform together. -/
def execAtomicPerform (id : Nat) (s : State) : Res :=
  match s.acc id with
  | none => .next s
  | some a =>
    if !(s.mayPerform a && a.kind == .atom && s.atomTurn a) then .next s
    else if a.lines.any s.granFresh then .next (s.dueOp (s.cycle + 1) 101 none (.atomicPerform id))
    else
      let t := s.atomCome a
      let b := t.atBanks a.cls (.acc a.id (a.addr / 64)) a.order (bankNodes a.lines)
      .next (if b.1 then (b.2.atomAt a).note a.slot a.edge [a.elem] [] b.2 else b.2.dueOp (s.cycle + 1) 101 none (.atomicPerform id))

/-! ## Replies (R141, R142, R332) -/

/-- The seam of a fenced cluster of the page set at which a reply is dropped, with the cluster (R85, R331). -/
def State.replyDropped (s : State) (a : Access) : Option (Nat × Nat) :=
  let home := a.elem / 16
  if (s.cluster home).shut then some (home, (Config.replyCrosses a.elem (sliceOf a.addr) home).getD 0)
  else (s.clustersOf a.launch).findSome? fun c =>
    if (s.cluster c).shut then (Config.replyCrosses a.elem (sliceOf a.addr) c).map fun d => (c, d) else none

/-- Whether a window of an element opened before a cluster was fenced (R332). -/
def State.beforeFence (s : State) (elem cl : Nat) (w : Landing) : Bool :=
  match (s.cluster cl).fencedAt with
  | some t => decide (w.edge + elemCol elem < t)
  | none => true

/-- `SLOT.WINMISS` once the late data of its window has come (R142). -/
def State.lateData (s : State) (a : Access) : State :=
  if s.accs.any fun x => x.win == a.win && x.id != a.id then s
  else s.modSlot a.slot fun sl => match sl.late with
    | some w =>
      if w.win = a.win ∧ w.left = 0 then
        { sl with late := none,
                  winmiss := putField (putField sl.winmiss 22 22 0) 21 10 (stopAt 4095 (ceilDiv (s.launchTime (s.slot a.slot).launch - w.close) 8)) }
      else sl
    | none => sl

/-- A reply in its landing entry: memory holds no poison (R146). -/
def Landing.take (w : Landing) (a : Access) : Landing :=
  { w with data := putAll w.data (a.reply.map fun x => (x.1, Lane.clean x.2)), ecc := w.ecc || a.ecc, fe := w.fe || a.fe,
           stamped := if w.stamped.isSome then w.stamped else a.stamped }

/-- WINDOW_DATA_ARRIVAL: the reply reaches its landing entry, or is dropped (R141, R142, R331). -/
def execWindowDataArrival (id : Nat) (s : State) : Res :=
  match s.acc id with
  | none => .next s
  | some a =>
    if a.st ≠ .performed then .next s
    else
      let w : Landing := look {} (s.elem a.elem).landing a.entry
      let mine := w.isOpen && w.acc == a.win
      let put_ (s : State) (f : Landing → Landing) : State :=
        if mine then s.modElem a.elem fun e => { e with landing := put e.landing a.entry (f w) } else s
      match s.replyDropped a with
      | some (cl, seam) =>
        .next (((s.countDrop cl seam).dropAcc id) |> (put_ · fun w => { w with lost := true, orphan := w.orphan || s.beforeFence a.elem cl w }))
      | none => .next ((put_ (if mine then s else s.lateData a) (Landing.take · a)).dropAcc id)

/-! ## Closes (R141, R142, R235, R239) -/

/-- The words that a close writes: a fill's line words, with the bytes stored since kept; an atomic's old words. -/
def State.mergedLine (s : State) (elem : Nat) (w : Landing) (h : Share) : List (Nat × Byte) :=
  let e := s.elem elem
  (List.range (4 * h.lw)).map fun i =>
    let b := 4 * h.lw * w.line + i
    (h.off + b, if look false e.dirty (dirtyKey w.site b) then bankByte e (h.off + b)
      else BitVec.ofNat 8 ((look ({} : Lane) w.data (i / 4)).v.toNat / 2 ^ (8 * (i % 4))))

/-- A window closes and writes (R141, R235). -/
def State.closeWrite (s : State) (elem j : Nat) (w : Landing) : State :=
  let x : Site := look {} (s.copy (elemRegion elem) w.gen).sites w.site
  let h := shareOf x elem
  let line := s.mergedLine elem w h
  let s := if w.atomic then s else s.modElem elem fun e => { e with bank := putAll e.bank line, otherUse := some s.cycle }
  let word (i : Nat) : Lane :=
    if w.atomic then look {} w.data i
    else Lane.clean (BitVec.ofNat 32 (natOfBytes ((Sys2Proof.slice line (4 * i) 4).map (·.2))))
  let slot := w.slot % 8
  let beat : BitVec 64 := (s.elem elem).wrote.foldl (fun m x =>
    if x.2.2 = s.cycle ∧ x.1 = regKey slot w.reg 0 then m ||| x.2.1 else m) 0
  let on := (List.range w.width).filter fun i => w.mask.getLsbD i && (!w.atomic || w.data.any (·.1 == i))
  let ls := (on.filter fun i => !beat.getLsbD i).map fun i => (i, word i)
  let s := s.eccClear (ls.flatMap fun l => [EccAt.res elem l.1, EccAt.reg elem (regKey slot w.reg l.1)])
  s.modElem elem fun e =>
    let kept := { w with isOpen := false, kept := w.data, data := [] }
    let e := { e with
      landing := put e.landing j kept
      siteLatch := putAll e.siteLatch (on.map fun i => (i, (word i).v))
      steps := if w.atomic then e.steps else put e.steps slot (0, 0) }
    let e := if w.code < 48 then { e with regs := putAll e.regs (ls.map fun l => (regKey slot w.reg l.1, l.2)) } else e
    e.putRes s.cycle slot w.code ls

/-- A window closes without writing. -/
def State.closeDry (s : State) (elem j : Nat) (w : Landing) (untag : Bool) : State :=
  let s := s.modElem elem fun e => { e with landing := put e.landing j { w with isOpen := false, data := [] } }
  if untag && !w.atomic then
    s.clearTag w.launch elem w.site w.line (look ({} : Site) (s.copy (elemRegion elem) w.gen).sites w.site).slip
  else s

/-- A cause of point C at a window's word (R306). -/
def State.closeTrap (s : State) (elem : Nat) (w : Landing) (num : Nat) : State :=
  s.raiseNow w.slot { num := num, kind := 2, row := elemRow elem, col := elemCol elem, line := w.sline }

/-- Whether a window has all its data: every beat of an atomic has executed, and nothing is on its way (R142, R239). -/
def State.allIn (s : State) (elem : Nat) (w : Landing) : Bool :=
  !w.lost && !(s.accs.any fun a => a.win == w.acc && a.elem == elem) && (!w.atomic || decide (w.width ≤ 8 * w.beats))

/-- What a window that missed still waits for (R142). -/
def Landing.lateOf (w : Landing) (elem : Nat) : Late :=
  { win := w.acc, close := w.close, elem := elem, word := w.word, left := if w.atomic then ceilDiv w.width 8 - w.beats else 0 }

/-- A window whose data has not all come (R142, R332). -/
def State.closeMiss (s : State) (elem j : Nat) (w : Landing) : State :=
  let s1 := s.closeDry elem j w true
  if w.orphan || !s.elemRuns elem then s1.closeTrap elem w 98
  else
    let first := !bitAt (s.slot w.slot).winmiss 0
    let s2 := s1.winMiss w.slot (elemIdx (elemRow elem) (elemCol elem)) w.wid 0 1 0
    let s2 := if first then s2.modSlot w.slot fun sl => { sl with late := some (w.lateOf elem) } else s2
    s2.closeTrap elem w 16

/-- A window at its close: it writes, or its cause is raised (R141, R142, R224, R226, R236, R332). -/
def State.closeWindow (s : State) (elem j : Nat) (w : Landing) : State :=
  if (s.launch w.launch).terminated then s.closeDry elem j w false
  else if w.orphan || !s.allIn elem w then s.closeMiss elem j w
  else match w.stamped with
    | some (n, sl) =>
      let s := s.closeDry elem j w true
      let i := elemIdx (elemRow elem) (elemCol elem)
      (s.siteErr w.slot w.site n i 3 0 0 5 0 sl).closeTrap elem w 34
    | none =>
      if w.ecc then (s.closeDry elem j w false).closeTrap elem w 36
      else if w.fe then (s.closeDry elem j w false).closeTrap elem w 87
      else s.closeWrite elem j w

/-- WINDOW_CLOSE. -/
def execWindowClose (elem : Nat) (entry : Fin 4) (s : State) : Res :=
  let w : Landing := look {} (s.elem elem).landing entry.val
  if !w.isOpen ∨ s.cycle < w.close then .next s
  else .next ((s.closeWindow elem entry.val w).note w.slot w.edge [elem] [] s)

/-! ## Waymarks (R279) -/

/-- Whether an element has still to execute a beat of a slot that left the edge before a cycle. -/
def State.elemBehind (s : State) (key elem since : Nat) : Bool :=
  s.flights.any fun f => slotKey f.region f.slot == key && decide (f.edge < since) && f.row == elemRow elem
    && decide (f.col ≤ elemCol elem ∧ elemCol elem ≤ f.colL)

/-- Whether a slice may acknowledge a slot's waymark: the element has executed every beat ahead of it, and every access
ahead of it has performed. -/
def State.mayAck (s : State) (key elem slice : Nat) : Bool :=
  let sl := s.slot key
  match sl.wait with
  | .fence _ since =>
    sl.waymarks.contains (256 * elem + slice) && !s.elemBehind key elem since
      && !(s.accs.any fun a => a.slot == key && a.elem == elem && a.slices.contains slice && a.st != .performed && decide (a.edge < since))
  | _ => false

/-- A waymark acknowledged: its path leaves the slot's set unless a later access has used it, and the acknowledgement is
marked when an access ahead of it failed there (R279, R281). -/
def Slot.acked (sl : Slot) (path : Nat) : Slot :=
  let since := match sl.wait with | .fence _ t => t | _ => 0
  let mine (f : Nat × Nat) : Bool := f.1 == path && decide (f.2 < since)
  { sl with wayErr := sl.wayErr || sl.failed.any mine, failed := sl.failed.filter fun f => !mine f,
            waymarks := sl.waymarks.filter (· != path),
            paths := sl.paths.filter fun p => p.1 != path || decide (since ≤ p.2) }

/-- WAYMARK_ACK. -/
def execWaymarkAck (key elem slice : Nat) (s : State) : Res :=
  .next (if s.mayAck key elem slice then s.modSlot key fun sl => sl.acked (256 * elem + slice) else s)

end Sys2Proof.Machine
end

