-- ==== Sys2Proof/Machine/Units.lean ====
section
/-! DEFINITION. Scrubbers, the array's intervals, joint operations, expert counters, channels, and the tables of the
slices (08 R145, 10 R181, R201, R206, 11 R220, 12 R226, R227, R248, R249, 24 R352). -/

namespace Sys2Proof.Machine

/-! ## Scrubbers -/

/-- The registers of an element that are bound, in the order in which the scrubber takes them: slot and code. -/
def State.boundRegs (s : State) (elem : Nat) : List (Nat × Nat) :=
  (List.range 8).flatMap fun i =>
    let k := slotKey (elemRegion elem) i
    if (s.slot k).bound then
      let x := s.kernelAt k
      (List.range x.gcnt).map (fun g => (i, g)) ++ (List.range x.qcnt).map fun q => (i, 16 + q)
    else []

/-- One stored word of a scrubber's round: a single-bit error corrected, a double-bit error marked and reported. -/
def State.scrubWord (s : State) (a : EccAt) (mark : Bool) (cause unit detail : Nat) : State :=
  match s.eccAt a with
  | some .single => s.eccClear [a]
  | some .double => (if mark then s.eccPut a .marked else s).report cause unit detail
  | _ => s

/-- The element that a stored word belongs to. -/
def EccAt.elem? : EccAt → Option Nat
  | .reg e _ | .res e _ | .mask e _ => some e
  | _ => none

/-- Corrected words written back; each takes its element's scrub port for the cycle (R144). -/
def State.runMend (s : State) (es : List EccAt) : State :=
  (es.filterMap EccAt.elem?).foldl (fun s e => s.modElem e fun x => { x with portAt := some s.cycle }) (s.eccClear es)

/-- REG_SCRUB (R145): one of the 3,072 register words, while the scrub port is free. -/
def execRegScrub (elem : Nat) (s : State) : Res :=
  if (s.elem elem).portAt = some s.cycle then .next s else
  let n := (s.elem elem).scrubAt
  let s := s.modElem elem fun e => { e with scrubAt := (n + 1) % 3072 }
  match (s.boundRegs elem)[n / 64]? with
  | none => .next s
  | some (slot, code) => .next (s.scrubWord (.reg elem (regKey slot code (n % 64))) true 101 elem 0)

/-- Whether the array spent this interval in a step. -/
def State.stepped (s : State) (cl : Nat) : Bool := (s.cluster cl).stepAt == some s.cycle

/-- One row of a tile's checksums, with the column of its number (R198, R201): a mismatch is corrected, or held for the next
check and reported. -/
def State.scrubRow (s : State) (cl n : Nat) : State :=
  let c := s.cluster cl
  let at_ (k : Nat) : LaneWord := look 0 c.sums (128 * (n / 64) + k + n % 64)
  if at_ 0 = 0 ∧ at_ 64 = 0 then s
  else match c.checkSums (n / 64) with
    | (c', .inl _) => s.setCluster cl c'
    | (_, .inr _) => s.report 102 cl c.accerr.toNat

/-- One tile word, or one row, in an interval without a step (R201). -/
def State.scrubAcc (s : State) (cl : Nat) : State :=
  if s.stepped cl then s
  else
    let c := s.cluster cl
    let n := c.scrubAt
    let s := s.modCluster cl fun c => { c with scrubAt := (n + 1) % (if c.accprot then 256 else 16384) }
    if c.accprot then s.scrubRow cl (n % 256)
    else
      let one := s.eccAt (.tile cl n) == some .single
      let s := if one then s.modCluster cl fun c => { c with accerr := addCorr c.accerr 1 } else s
      s.scrubWord (.tile cl n) true 102 cl c.accerr.toNat

/-- ACC_SCRUB (R201). -/
def execAccScrub (cl : Nat) (s : State) : Res := .next (s.scrubAcc cl)

/-- SLICE_SCRUB (R226): one 64-bit word of the slice. -/
def execSliceScrub (slice : Nat) (s : State) : Res :=
  let n := (s.slice slice).scrubAt
  let s := s.modSlice slice fun x => { x with scrubAt := (n + 1) % (sliceBytes / 8) }
  .next (s.scrubWord (.slice slice n) false 103 slice 0)

/-- HBM_SCRUB_REPORT (R313, cause 104). -/
def execHbmScrubReport (stack addr : Nat) (s : State) : Res :=
  .next (if s.eccBad (.hbm (addr / 64)) && addr / 2 ^ 36 == stack then s.report 104 stack 0 else s)

/-! ## The matrix arrays -/

/-- Whether an array rests: its launch is halted, and the beats that had left have completed their columns (R206,
R320). -/
def State.arrayHalted (s : State) (cl : Nat) : Bool :=
  match (s.cluster cl).launch with
  | some l => (s.launch l).halted && !(s.flights.any fun f => f.launch == l)
  | none => false

/-- MATRIX_STEP: one interval of an armed cluster's array, with a scrub where it takes no step, and the next (R180 to R182,
R201); a fenced array stops (R331). -/
def execMatrixStep (cl : Nat) (s : State) : Res :=
  if !(s.cluster cl).armed ∨ (s.cluster cl).shut then .next s
  else .next ((if s.arrayHalted cl then s else (s.interval cl).scrubAcc cl).dueOp (s.cycle + 1) 30 none (.matrixStep cl))

/-- JOIN_COMPLETE (R206): the last step was taken 4 cycles before. -/
def execJoinComplete (id : Nat) (s : State) : Res :=
  let s := s.modJoin id fun j => { j with done := true }
  .next { s with joins := s.joins.filter fun j => j.id != id || j.stop }

/-- JOIN_STALL (R313, cause 27): the operation stays open. -/
def execJoinStall (id : Nat) (s : State) : Res :=
  match s.joins.find? fun j => j.id == id && !j.done with
  | some j => .next (s.raise (slotKey j.region j.slot) { num := 27, kind := 3 })
  | none => .next s

/-! ## Expert counters -/

/-- Additions applied to a slice's counts, each stopping at 2^48 − 1; a count cleared on this cycle loses them. -/
def State.addCounts (s : State) (slice : Nat) (adds : List (Nat × Nat)) : State :=
  s.modSlice slice fun x => { x with counters := adds.foldl (fun m a =>
    if look (s.cycle + 1) x.cleared a.1 = s.cycle then m
    else put m a.1 (BitVec.ofNat 64 (stopAt (2 ^ 48 - 1) ((look (0 : Word) m a.1).toNat + a.2)))) x.counters }

/-- COUNTER_UPDATE (R249). -/
def execCounterUpdate (id : Nat) (s : State) : Res :=
  match s.upds.find? fun u => u.id == id && decide (u.due ≤ s.cycle) with
  | some u =>
    .next ((({ s with upds := s.upds.filter (·.id != id) } : State).addCounts u.slice u.adds).noteAdds u.slot u.edge u.slice
      (u.adds.filter fun a => look (s.cycle + 1) (s.slice u.slice).cleared a.1 != s.cycle))
  | none => .next s

/-- EXPERT_COUNTER_WRITE (R248): 0 clears the count; any other value changes nothing. -/
def execExpertCounterWrite (slice block word : Nat) (v : BitVec 64) (s : State) : Res :=
  if v ≠ 0 ∨ 6 ≤ word ∨ 512 ≤ block ∨ 192 ≤ slice then .next s
  else
    let k := 8 * block + word
    .next (s.modSlice slice fun x => { x with counters := del x.counters k, cleared := put x.cleared k s.cycle })

/-! ## Channels (R220) -/

/-- The cluster across a seam port of a cluster, 0 north, 1 east, 2 south, 3 west, if one lies there (R12 to R14, R82). -/
def clusterAcross (cl port : Nat) : Option Nat :=
  let r := cl / 28
  match port with
  | 0 => if 7 ≤ cl % 28 then some (cl - 7) else if 2 ≤ r % 6 then some (cl - 56 + 21) else none
  | 1 => if cl % 7 < 6 then some (cl + 1) else none
  | 2 => if cl % 28 < 21 then some (cl + 7) else if r % 6 < 4 then some (cl + 56 - 21) else none
  | _ => if 0 < cl % 7 then some (cl - 1) else none

/-- First-drop fields of `REGION.WALL`, bits 47 to 6 (R86). -/
def wallFields (kind cl port : Nat) (h : Config.Hop) (frm into : BitVec 12) : Nat :=
  (kind * 2 ^ 41 + cl % 28 * 2 ^ 36 + port % 4 * 2 ^ 34 + h.track % 64 * 2 ^ 28 + h.tslot % 16 * 2 ^ 24
    + frm.toNat * 2 ^ 12 + into.toNat) * 2 ^ 6

/-- `REGION.WALL` after a drop (R86): the first drop's fields and the count. -/
def wallWord (old : Word) (first : Nat) : Word :=
  let n := stopAt 65535 (field old 63 48 + 1)
  if field old 63 48 = 0 then BitVec.ofNat 64 (n * 2 ^ 48 + first) else putField old 63 48 n

/-- A beat dropped at a wall or a closed seam: the port of the page it would have entered drops it, and its region counts it
(R85, R86). At an edge with no page beyond it the port of the page it leaves drops it: log entry 66. -/
def State.dropAtWall (s : State) (b : ChanBeat) (h : Config.Hop) : State :=
  let x := s.launch b.launch
  let g := saggarOf x
  let own := pageCluster x (s.copy b.region b.gen) h.page
  let (cl, port, into) := match clusterAcross own h.port.val with
    | some n => (n, (h.port.val + 2) % 4, (s.cluster n).saggar)
    | none => (own, h.port.val, g)
  s.modRegion (cl / 28) fun y => { y with wall := wallWord y.wall (wallFields (if into = g then 1 else 0) cl port h g into) }

/-- Where a channel's route, up to a wall, touches a page: the port by which it leaves or enters (R331). -/
def State.routeSeam (s : State) (b : ChanBeat) (cl : Nat) : Option Nat :=
  let x := s.launch b.launch
  let c := s.copy b.region b.gen
  (Config.channelRoute (b.gen * 48 + b.region) b.chan).findSome? fun h =>
    let own := pageCluster x c h.page
    if own = cl then some h.port.val
    else if clusterAcross own h.port.val = some cl then some ((h.port.val + 2) % 4)
    else none

/-- The seam of a fenced cluster at which a channel beat is dropped, with the cluster (R331). -/
def State.beatDropped (s : State) (b : ChanBeat) : Option (Nat × Nat) :=
  (s.clustersOf b.launch).findSome? fun cl =>
    if (s.cluster cl).shut then
      match s.routeSeam b cl with
      | some d => some (cl, d)
      | none => if b.src / 16 = cl ∨ b.dst / 16 = cl then some (cl, 0) else none
    else none

/-- `TIMING_RECV` against the slot that sent a beat, at its receiver, and the beat is gone (R220, R225). -/
def State.recvFault (s : State) (b : ChanBeat) : State :=
  let key := slotKey b.region b.slot
  let s := { s with beats := s.beats.filter (·.id != b.id) }
  (s.siteErr key 0 0 (elemIdx (elemRow b.dst) (elemCol b.dst)) 2 0 0 3 b.chan 0).raise key { num := 19, kind := 3 }

/-- The limit of a held beat: it stands still while the launch is held for a move (R80). -/
def State.dueHold (s : State) (b : ChanBeat) (at_ : Nat) : State :=
  if (s.launch b.launch).moving.isSome then
    { s with frozen := s.frozen ++ [{ at_ := at_, rank := 20, region := some b.region, act := .inl (.recvHoldExpiry b.id) }] }
  else s.dueOp at_ 20 (some b.region) (.recvHoldExpiry b.id)

/-- CHANNEL_BEAT_ARRIVAL: at the receiver, or at the seam port that drops the beat. -/
def execChannelBeatArrival (id : Nat) (s : State) : Res :=
  match s.beats.find? fun b => b.id == id && !b.held with
  | none => .next s
  | some b =>
    match s.beatDropped b with
    | some (cl, seam) => .next (({ s with beats := s.beats.filter (·.id != id) } : State).countDrop cl seam)
    | none => match b.wall with
    | some h => .next (({ s with beats := s.beats.filter (·.id != id) } : State).dropAtWall b h)
    | none =>
      if s.beats.any fun x => x.held && x.region == b.region && x.launch == b.launch && x.chan == b.chan then
        .next ((s.recvFault b).note (slotKey b.region b.slot) b.edge [] [] s)
      else
        let s := { s with beats := s.beats.map fun (x : ChanBeat) => if x.id = id then { x with held := true } else x }
        .next (s.dueHold b (s.cycle + 9))

/-- RECV_HOLD_EXPIRY: a beat still held at the end of t + D + 8. -/
def execRecvHoldExpiry (id : Nat) (s : State) : Res :=
  match s.beats.find? fun b => b.id == id && b.held with
  | some b => .next (s.recvFault b)
  | none => .next s

/-! ## Tables of the slices (R227, R352) -/

/-- Whether a written slot table takes effect: no launch is armed in the region whose home slice it is. -/
def State.maySlots (s : State) (slice : Nat) : Bool :=
  (s.slice slice).slotsNew.isSome
    && !(s.launches.any fun e => e.2.region == slice / 4 && e.2.armed && e.2.stage != .retired)

/-- SLICE_SLOTS_APPLY. -/
def execSliceSlotsApply (slice : Nat) (s : State) : Res :=
  .next (if s.maySlots slice then s.modSlice slice fun x => { x with slots := x.slotsNew.getD x.slots, slotsNew := none } else s)

/-- Fields of `HOST.MEMWIN` (R352). -/
def winEn (w : Word) : Bool := bitAt w 63
def winBase (w : Word) : Nat := field w 55 34 * 2 ^ 30
def winSize (w : Word) : Nat := field w 10 0 * 2 ^ 30

/-- HOST_MEMWIN_WRITE: a window that would leave HBM4 or meet another is not enabled; an enabled one changes only EN. -/
def execHostMemwinWrite (n : Fin 8) (v : BitVec 64) (s : State) : Res :=
  let old := look 0 s.memwin n.val
  let new := v &&& 0x80FFFFFC000007FF
  let clash := (List.range 8).any fun i =>
    let w := look 0 s.memwin i
    i != n.val && winEn w && decide (winBase new < winBase w + winSize w ∧ winBase w < winBase new + winSize new)
  if winEn old then .next { s with memwin := put s.memwin n.val (putField old 63 63 (if winEn v then 1 else 0)) }
  else if winEn new && (decide (hbmBytes < winBase new + winSize new) || clash) then .next s
  else .next { s with memwin := put s.memwin n.val new }

end Sys2Proof.Machine
end

