-- ==== Sys2Proof/Machine/Xlat.lean ====
section
/-! DEFINITION. Translation (12 R230 to R232): the walk of the page tables, the translation buffers of the slices, and
`XLAT.INVAL`. -/

namespace Sys2Proof.Machine

/-- What a walk finds: a leaf with its physical frame, the size of its page in bits, and whether W stood at every level
and at every entry; a translation fault; or an uncorrectable read. -/
inductive Walk | leaf (frame bits : Nat) (w : Bool) | fault | ecc
deriving DecidableEq, Repr

/-- A table level (R231): its index bits, whether it may hold a leaf, whether every entry is one, the page size of a
leaf in bits, and the alignment of the table below in bits. -/
structure Level where
  hi : Nat
  lo : Nat
  mayLeaf : Bool
  allLeaf : Bool
  below : Nat
deriving DecidableEq, Repr

/-- The root entry, as a table that holds it alone: it points at a level-3 table (R231). -/
def rootLevel : Level := { hi := 0, lo := 0, mayLeaf := false, allLeaf := false, below := 12 }

def levels : List Level :=
  [{ hi := 56, lo := 48, mayLeaf := false, allLeaf := false, below := 12 },
   { hi := 47, lo := 39, mayLeaf := false, allLeaf := false, below := 12 },
   { hi := 38, lo := 30, mayLeaf := true, allLeaf := false, below := 12 },
   { hi := 29, lo := 21, mayLeaf := true, allLeaf := false, below := 8 },
   { hi := 20, lo := 16, mayLeaf := true, allLeaf := true, below := 16 }]

/-- An entry without its fault conditions on leaves: V set, and the reserved bits zero. -/
def entryOk (e : Word) : Bool := bitAt e 0 && field e 63 52 == 0 && field e 7 3 == 0
/-- The address that an entry holds in bits 51..8. -/
def entryAddr (e : Word) : Nat := field e 51 8 * 256

/-- What an entry read at a level gives (R231): the end of the walk, or the next table. `w` tells whether W stood at every level
before. -/
def Level.step (l : Level) (w : Bool) (e : Option Word) : Walk ⊕ (Nat × Bool) :=
  match e with
  | none => .inl .ecc
  | some e =>
    let w := w && bitAt e 1
    if !entryOk e then .inl .fault
    else if l.allLeaf || (l.mayLeaf && bitAt e 2) then .inl (if entryAddr e % 2 ^ l.lo = 0 then .leaf (entryAddr e) l.lo w else .fault)
    else if bitAt e 2 || decide (entryAddr e % 2 ^ l.below ≠ 0) then .inl .fault
    else .inr (entryAddr e, w)

/-- The levels that a walk goes through, each with the index of its entry: the root of a saggar and space, then the tables. -/
def walkPath (g : BitVec 12) (space va : Nat) : List (Nat × Level) :=
  (256 * g.toNat + space, rootLevel) :: levels.map fun l => (va / 2 ^ l.lo % 2 ^ (l.hi - l.lo + 1), l)

/-- The walk from a table (R231). `rd` reads an entry; none is an uncorrectable read. -/
def walkFrom (rd : Nat → Option Word) (tbl : Nat) (w : Bool) : List (Nat × Level) → Walk
  | [] => .fault
  | l :: ls =>
    match l.2.step w (rd (tbl + 8 * l.1)) with
    | .inl x => x
    | .inr t => walkFrom rd t.1 t.2 ls

/-- The walk of an offset of a space under a saggar (R231). -/
def walk (rd : Nat → Option Word) (base : Nat) (g : BitVec 12) (space va : Nat) : Walk :=
  if 2 ^ 57 ≤ va then .fault else walkFrom rd base true (walkPath g space va)

/-- A table entry in HBM4 or slice SRAM (R228); an address outside both finds no memory and reads as an entry with V
clear. -/
def State.tableEntry (s : State) (a : Nat) : Option Word :=
  if !(inHbm a 8 || inSlices a 8) then some 0
  else if s.memBad a 8 then none
  else some (BitVec.ofNat 64 (natOfBytes (s.nodeRead a 8)))

def State.walk (s : State) (g : BitVec 12) (space va : Nat) : Walk :=
  Sys2Proof.Machine.walk s.tableEntry s.xlatBase.toNat g space va

/-- What a translation gives. -/
inductive Xlat | pa (a : Nat) | fault | ecc
deriving DecidableEq, Repr

def xlatOf (write : Bool) (va frame bits : Nat) (w : Bool) : Xlat :=
  if write && !w then .fault else .pa (frame + va % 2 ^ bits)

/-- Translation without a buffer, as the loader does (R37). -/
def State.xlatPlain (s : State) (g : BitVec 12) (space va : Nat) (write : Bool) : Xlat :=
  match s.walk g space va with
  | .leaf f b w => xlatOf write va f b w
  | .fault => .fault
  | .ecc => .ecc

def Tlb.hits (t : Tlb) (g : BitVec 12) (space va : Nat) : Bool :=
  t.saggar == g && t.space == space && decide (t.page ≤ va / 65536 ∧ va / 65536 < t.page + t.pages)

/-- The entry of a slice's buffer that translates an access: one whose W is clear lets no write through, and the tables are
walked again (R231, R246). -/
def State.tlbHit (s : State) (slice : Nat) (g : BitVec 12) (space va : Nat) (write : Bool) : Option Tlb :=
  (s.slice slice).tlb.find? fun t => decide (va < 2 ^ 57) && t.hits g space va && (t.w || !write)

/-- A leaf that a walk found enters the buffer, displacing the oldest entry of 512 (R232). -/
def State.tlbFill (s : State) (slice : Nat) (g : BitVec 12) (space va frame bits : Nat) (w : Bool) : State :=
  let t : Tlb :=
    { saggar := g, space := space, page := va / 2 ^ bits * 2 ^ (bits - 16), pages := 2 ^ (bits - 16), frame := frame, w := w }
  s.modSlice slice fun x => { x with tlb := (t :: x.tlb).take 512 }

/-- Translation at a slice: its buffer, or a walk (R232). -/
def State.xlatAt (s : State) (slice : Nat) (g : BitVec 12) (space va : Nat) (write : Bool) : State × Xlat :=
  match s.tlbHit slice g space va write with
  | some t => (s, .pa (t.frame + (va - 65536 * t.page)))
  | none =>
    match s.walk g space va with
    | .leaf f b w => (if write && !w then s else s.tlbFill slice g space va f b w, xlatOf write va f b w)
    | .fault => (s, .fault)
    | .ecc => (s, .ecc)

/-- XLAT_INVAL (R232): all ones drops every entry of every slice; otherwise the entries of the saggar and space whose
page holds the 64 KiB page. -/
def execXlatInval (v : BitVec 64) (s : State) : Res :=
  let keep (t : Tlb) : Bool :=
    v != BitVec.allOnes 64
      && !(t.saggar == BitVec.ofNat 12 (field v 63 52) && t.space == field v 51 44
        && decide (t.page ≤ field v 40 0 ∧ field v 40 0 < t.page + t.pages))
  .next { s with slices := s.slices.map fun (e : Nat × Slice) => (e.1, { e.2 with tlb := e.2.tlb.filter keep }) }

end Sys2Proof.Machine
end

