-- ==== Sys2Proof/Machine/Transfer.lean ====
section
/-! DEFINITION. Transfer units at work (12 R242 to R247): the landing of one unit, the end of a request, deadlines, the
firmware path, and draining. -/

namespace Sys2Proof.Machine

def State.req (s : State) (id : Nat) : Option Req := s.reqs.find? (·.id == id)
def State.setReq (s : State) (q : Req) : State := { s with reqs := s.reqs.map fun (x : Req) => if x.id = q.id then q else x }
def Req.units (q : Req) : Nat := reqUnits q.pkt q.ext
def Req.complete (q : Req) : Bool := q.st == .ended || decide (q.units ≤ q.done.length)

/-- The remote offset of unit u (R243, R247). -/
def Req.remote (q : Req) (u : Nat) : Nat :=
  let va := pktVa q.pkt
  if pktOp q.pkt = 1 then
    wrapNat ((va : Int) + 64 * ((u / pktLen q.pkt : Nat) * extStride q.ext) + 64 * (u % pktLen q.pkt : Nat)) 64
  else if pktOp q.pkt = 2 then (va + 128 * extCount q.ext + 64 * u) % 2 ^ 64
  else (va + 64 * u) % 2 ^ 64

/-! ## The remote side -/

/-- What one side of a unit answers: bytes with their tag, or a fault with the report it makes. -/
inductive Got | data (bs : List Byte) (tag : Option GTag) | fault (cause : Option Nat) | nothing
deriving DecidableEq, Repr

/-- A host port or peer link carries requests (R351, R354, R355). -/
def State.linkUp (s : State) (sp : Nat) : Bool :=
  if sp = 1 then !s.hostDown.contains .A
  else if sp = 2 then !s.hostDown.contains .B
  else field (look 0 s.peerStat (sp - 16)) 63 62 == 2

/-- The physical address of a unit, where its space is translated here (R231, R232). -/
def State.unitPa (s : State) (q : Req) (u : Nat) (write : Bool) : State × (Nat ⊕ Nat) :=
  match s.xlatAt q.slice q.saggar (pktSpace q.pkt) (q.remote u) write with
  | (s, .pa a) => (s, .inl a)
  | (s, .fault) => (s, .inr 39)
  | (s, .ecc) => (s, .inr 41)

/-- A unit read from its remote address. -/
def State.readRemote (s : State) (q : Req) (u : Nat) (r : UnitRead) : State × Got :=
  let sp := pktSpace q.pkt
  let va := q.remote u
  if sp = 0 then
    match s.unitPa q u false with
    | (s, .inr c) => (s, .fault (some c))
    | (s, .inl a) =>
      if !(inHbm a 64 || inSlices a 64) then (s, .fault (some 39))
      else match r with
        | .own | .outside _ => if s.memBad a 64 then (s, .fault none) else (s, .data (s.nodeRead a 64) (some { space := 0, off := a }))
        | .fails | .refused | .aborted => (s, .fault none)
  else if !s.linkUp sp then (s, .fault none)
  else
    let (s, ok) := if sp < 16 then s.unitPa q u false else (s.sendFlit (sp - 16) 1 (Config.flitPayload false va []), .inl va)
    match ok, r with
    | .inr c, _ => (s, .fault (some c))
    | .inl _, .outside d => (s, .data (bytesOf d.toNat 64) (some { space := sp, off := va }))
    | .inl _, .own => (s, .nothing)
    | .inl _, .fails => (s, .fault none)
    | .inl _, .refused => (s, .fault (if 16 ≤ sp then some 42 else none))
    | .inl _, .aborted => (s, .fault (if sp < 16 then some 43 else none))

/-- A unit written to its remote address; a write outside the device goes out by the physical or peer address. Only a read has
an abort to report (R313, cause 43). -/
def State.writeRemote (s : State) (q : Req) (u : Nat) (r : UnitRead) (bs : List Byte) : State × Got :=
  let sp := pktSpace q.pkt
  if sp = 0 then
    match s.unitPa q u true with
    | (s, .inr c) => (s, .fault (some c))
    | (s, .inl a) =>
      if !(inHbm a 64 || inSlices a 64) then (s, .fault (some 39))
      else match r with
        | .own | .outside _ => (s.memStore a bs, .data [] none)
        | .fails | .refused | .aborted => (s, .fault none)
  else if !s.linkUp sp then (s, .fault none)
  else
    let va := q.remote u
    let (s, at_) := if sp < 16 then s.unitPa q u true else (s.sendFlit (sp - 16) 2 (Config.flitPayload true va bs), .inl va)
    match at_, r with
    | .inr c, _ => (s, .fault (some c))
    | .inl a, .own | .inl a, .outside _ => ({ s with outbox := (sp * 2 ^ 64 + a, bs) :: s.outbox }, .data [] none)
    | .inl _, .fails => (s, .fault none)
    | .inl _, .refused => (s, .fault (if 16 ≤ sp then some 42 else none))
    | .inl _, .aborted => (s, .fault none)

/-! ## The local side -/

/-- Whether the launch of a request still has its pages: a unit of a site is dropped once it has retired. -/
def State.reqLives (s : State) (q : Req) : Bool := (s.launch q.launch).stage == .running || (s.launch q.launch).stage == .placed

/-- Whether the bank serves a unit on this cycle, through a COPY entry, behind the sequencer's accesses (R211, R243). -/
def State.unitServed (s : State) (q : Req) (u : Nat) : Bool :=
  let e := (s.siteUnit q u).1
  !pktSite q.pkt || !s.reqLives q || !s.elemRuns e
    || (s.phase == .finish && (s.cluster (e / 16)).launch == some q.launch && s.bankFree e true && !s.seqWaits e)

/-- A granule of a FILL 2 line takes a unit: its old tag and stamps go, its new tag enters the watch set (R222, R243,
R224). -/
def State.tagUnit (s : State) (q : Req) (e b : Nat) (tag : Option GTag) : Option State :=
  let x := s.reqSite q
  let n := field q.pkt 110 103
  let h := shareOf x e
  let j := b / (4 * h.lw)
  let k := granKey n j (b % (4 * h.lw) / 64)
  let old := (s.elem e).tagAt n h.lw b
  let w := look [] (s.launch q.launch).watches x.slip
  let w := match old with
    | some t => if tag = some t then w else unwatch (e * 256 + n, j) t w
    | none => w
  let w' := match tag with
    | some t => if x.slip = 0 then some w else watchAll (e * 256 + n, j) [t] w
    | none => some w
  match w' with
  | none => none
  | some w' =>
    let stamps := match old with
      | some t => if tag = some t then s.stamps else unstamp q.launch n t s.stamps
      | none => s.stamps
    let s := { s with stamps := stamps }
    let s := s.modElem e fun el => { el with tags := match tag with | some t => put el.tags k t | none => del el.tags k }
    some (if x.slip = 0 then s else s.modLaunch q.launch fun l => { l with watches := put l.watches x.slip w' })

/-- The access that stands for a unit at the stamp check (R243). -/
def State.unitAccess (s : State) (q : Req) (u e a : Nat) : Access :=
  { id := 0, kind := .check, launch := q.launch, gen := q.gen, elem := e, site := field q.pkt 110 103, addr := a, len := 64,
    line := (s.siteUnit q u).2 / (4 * (shareOf (s.reqSite q) e).lw), store := (s.reqSite q).store }

/-- What the landing of a unit leads to. -/
inductive Land
  | landed (s : State)
  | stopped (s : State) (cause : Nat)
deriving DecidableEq, Repr

/-- A unit's bytes in a site (R243). -/
def State.landSite (s : State) (q : Req) (u : Nat) (bs : List Byte) (tag : Option GTag) : Land :=
  if !s.reqLives q then .landed s
  else if !s.elemRuns (s.siteUnit q u).1 then .landed (s.dropAtFence (s.siteUnit q u).1)
  else
    let (e, b) := s.siteUnit q u
    let x := s.reqSite q
    let i := elemIdx (elemRow e) (elemCol e)
    let n := field q.pkt 110 103
    let checked : State × Option (Nat × Nat) := match tag with
      | some t => if t.space = 0 then s.stampLine (s.unitAccess q u e t.off) (fun _ => true) else (s, none)
      | none => (s, none)
    match checked with
    | (s, some m) => .stopped (s.siteErr q.slot n m.1 i 3 0 0 5 0 m.2) 34
    | (s1, none) => match s1.tagUnit q e b tag with
      | none => .stopped (({ s1 with stamps := s.stamps } : State).siteErr q.slot n 0 i 4 0 0 5 0 0) 35
      | some s => .landed (s.modElem e fun el =>
          { el with bank := putAll el.bank (bs.mapIdx fun i y => (256 * x.boff + b + i, y)), otherUse := some s.cycle })

def State.landUnit (s : State) (q : Req) (u : Nat) (bs : List Byte) (tag : Option GTag) : Land :=
  if pktSite q.pkt then s.landSite q u bs tag else .landed (s.homeStore q.region (pktLoff q.pkt + 64 * u) bs true)

/-- A unit of a DIR 1 request read from its local side; none on an uncorrectable error, or where a fence drops its bytes. -/
def State.readLocal (s : State) (q : Req) (u : Nat) : State × Option (List Byte) :=
  if pktSite q.pkt then
    if !s.reqLives q then (s, some (List.replicate 64 0))
    else if !s.elemRuns (s.siteUnit q u).1 then (s.dropAtFence (s.siteUnit q u).1, none)
    else
      let (e, b) := s.siteUnit q u
      (s.modElem e fun el => { el with otherUse := some s.cycle },
       some ((List.range 64).map fun i => bankByte (s.elem e) (256 * (s.reqSite q).boff + b + i)))
  else
    let off := pktLoff q.pkt + 64 * u
    (s, if s.homeBad q.region off 64 then none else some (s.homeRead q.region off 64))

/-- The physical address of a unit's remote side, where the device's own memory holds it. -/
def State.unitMem (s : State) (q : Req) (u : Nat) : Option Nat :=
  if pktSpace q.pkt = 0 then
    match (s.xlatAt q.slice q.saggar 0 (q.remote u) (pktDir q.pkt)).2 with
    | .pa a => some a
    | _ => none
  else none

/-- The granules of slices that a unit reads and writes, and the class of entry that it takes there (R226, R227): XFER for the
transfer unit's own; STACK where a site's bytes pass between a stack and the fabric, at the slice that fronts the stack. -/
def State.unitBanks (s : State) (q : Req) (u : Nat) : Nat × List Nat :=
  let far := match s.unitMem q u with
    | some a => if inSlices a 64 || (pktSite q.pkt && inHbm a 64) then [a] else []
    | none => []
  let near := if pktSite q.pkt then [] else [homePa q.region (pktLoff q.pkt + 64 * u)]
  (if far.any (· < sliceBase) then 2 else 1, (near ++ far).map (· / 64))

/-! ## Units and their ends -/

/-- Whole planes landed, plus the two resident ones (R247). -/
def Req.planes (q : Req) (done : List Nat) : Nat :=
  2 + ((List.range (extPlanes q.ext)).takeWhile fun p => (List.range ((p + 1) * extCount q.ext)).all done.contains).length

/-- A unit has performed: UNITS and PLANES count it, and the last one makes the handle full at the cycle's end. -/
def State.unitDone (s : State) (q : Req) (u : Nat) : State :=
  let q' := { q with done := u :: q.done }
  let q' := if pktOp q.pkt = 2 then { q' with landed := q'.planes q'.done } else q'
  let hn := pktHandle q.pkt
  let h := s.handle q.region hn
  let s := (s.setReq q').setHandle q.region hn { h with units := h.units + 1, planes := if pktOp q.pkt = 2 then q'.landed else 8 }
  if q'.complete then s.dueOp s.cycle 120 none (.handleFull q.region ⟨hn % 64, Nat.mod_lt _ (by decide)⟩) else s

/-- The remainder of a request handed to the firmware path (R245), reported where the fault is (R313). -/
def State.handOver (s : State) (q : Req) (cause : Option Nat) : State :=
  let h := s.handle q.region (pktHandle q.pkt)
  let s := (s.setReq { q with st := .firmware }).setHandle q.region (pktHandle q.pkt) { h with fw := true }
  let first := !s.reqs.any fun x => x.region == q.region && x.st == .firmware && x.id != q.id
  let s := if first then s.modRegion q.region fun g => { g with fwWait := some s.cycle } else s
  let s := match cause with | some c => s.report c q.slice 0 | none => s
  s.promote q.slice

/-- A request stopped (R222, R243): its handle goes full with ERR, and the cause, naming the handle, is deferred against its
slot. -/
def State.stopReq (s : State) (q : Req) (cause : Nat) : State :=
  let hn := pktHandle q.pkt
  let h := s.handle q.region hn
  let s := (s.setReq { q with st := .ended }).setHandle q.region hn { h with err := true }
  let s := s.dueOp s.cycle 120 none (.handleFull q.region ⟨hn % 64, Nat.mod_lt _ (by decide)⟩)
  if (s.slot q.slot).launch = q.launch ∧ s.reqLives q then s.raise q.slot { num := cause, kind := 4, code := hn } else s

/-- One unit of a running request (R243, R245). -/
def State.doUnit (s : State) (q : Req) (u : Nat) (r : UnitRead) : State :=
  if pktDir q.pkt then
    match s.readLocal q u with
    | (s, none) => s.handOver q none
    | (s, some bs) => match s.writeRemote q u r bs with
      | (s, .data _ _) => s.unitDone q u
      | (s, .fault c) => s.handOver q c
      | (s, .nothing) => s
  else match s.readRemote q u r with
    | (s, .data bs tag) => match s.landUnit q u bs tag with
      | .landed s => s.unitDone q u
      | .stopped s c => s.stopReq q c
    | (s, .fault c) => s.handOver q c
    | (s, .nothing) => s

/-- What a unit did for the beat of its request, noted. -/
def State.noteUnit (t : State) (q : Req) (u : Nat) (s : State) : State :=
  t.note q.slot q.edge (if pktSite q.pkt then [(s.siteUnit q u).1] else []) [] s

/-- Whether the slice must walk the tables for a unit: its page stands in no entry of the buffer (R232). -/
def State.unitWalks (s : State) (q : Req) (u : Nat) : Bool :=
  let sp := pktSpace q.pkt
  decide (sp < 16) && (sp == 0 || s.linkUp sp) && decide (q.remote u < 2 ^ 57)
    && (s.tlbHit q.slice q.saggar sp (q.remote u) (pktDir q.pkt)).isNone

/-- One entry of a unit's walk read through an XFER entry of the bank that holds it (R227, R232): the walk goes on, its leaf
enters the buffer, or its fault hands the request over (R245). -/
def State.walkUnit (s : State) (q : Req) (u : Nat) (again : Instr) : State :=
  let va := q.remote u
  let sp := pktSpace q.pkt
  let retry (s : State) : State := s.dueOp (s.cycle + 1) 116 none again
  let (n, tbl, w) := look (0, s.xlatBase.toNat, true) q.walks u
  match (walkPath q.saggar sp va)[n]? with
  | none => s
  | some l =>
    let a := tbl + 8 * l.1
    let (ok, s) := s.atBanks 1 (.unit q.id u) 0 (if inHbm a 8 || inSlices a 8 then bankNodes [a / 64] else [])
    let ended : Req := { q with walks := del q.walks u }
    if !ok then retry s
    else match l.2.step w (s.tableEntry a) with
      | .inr t => retry (s.setReq { q with walks := put q.walks u (n + 1, t.1, t.2) })
      | .inl (.leaf f b w) => if pktDir q.pkt && !w then s.handOver ended (some 39) else retry ((s.setReq ended).tlbFill q.slice q.saggar sp va f b w)
      | .inl .fault => s.handOver ended (some 39)
      | .inl .ecc => s.handOver ended (some 41)

/-- TRANSFER_UNIT_LAND (R243); a unit that its banks do not serve now tries again on the next cycle. -/
def execTransferUnitLand (id u : Nat) (r : UnitRead) (s : State) : Res :=
  match s.req id with
  | none => .next s
  | some q =>
    if q.st ≠ .running ∨ q.units ≤ u ∨ q.done.contains u then .next s
    else if s.unitWalks q u then .next (s.walkUnit q u (.transferUnitLand id u r))
    else if !s.unitServed q u then .next (s.dueOp (s.cycle + 1) 116 none (.transferUnitLand id u r))
    else
      let (ok, s) := s.atBanks (s.unitBanks q u).1 (.unit id u) 0 (bankNodes (s.unitBanks q u).2)
      .next (if ok then (s.doUnit q u r).noteUnit q u s else s.dueOp (s.cycle + 1) 116 none (.transferUnitLand id u r))

/-- The updates of an expert block when its fetch ends (R247). -/
def fetchCounts (q : Req) (short : Bool) : List (Nat × Nat) :=
  let e := 8 * extExpert q.ext
  (e + 4, q.landed - 2) :: (if short then [(e + 5, 1)] else [])

/-- HANDLE_FULL (R242, R361): the point is signalled at the end of the same cycle; a handle whose launch has retired
frees itself (R313, cause 44). -/
def execHandleFull (region : Nat) (hn : Fin 64) (s : State) : Res :=
  let h := s.handle region hn.val
  match s.reqs.find? fun q => q.region == region && pktHandle q.pkt == hn.val && q.complete with
  | none => .next s
  | some q =>
    if h.st ≠ .filling then .next s
    else
      let lost := (s.launch q.launch).stage == .retired
      let s := s.setHandle region hn.val (if lost then {} else { h with st := .full })
      let s := if pktOp q.pkt = 2 && decide (q.units ≤ q.done.length) then
        (s.addCounts q.slice (fetchCounts q false)).noteAdds q.slot q.edge q.slice (fetchCounts q false) else s
      let s := ({ s with reqs := s.reqs.filter (·.id != q.id) } : State).promote q.slice
      let away := (s.launch (s.target q.launch (pktRvp q.pkt - 1)).1).region != q.region
      let at_ := if away then s.cycle + Config.crossDelay q.id else s.cycle
      .next (if pktRvp q.pkt = 0 then s else s.dueEff at_ 132 none (.rvSignal q.launch (pktRvp q.pkt - 1)))

/-- FETCH_DEADLINE (R247): unlanded planes are abandoned, and L is frozen. -/
def execFetchDeadline (id : Nat) (s : State) : Res :=
  match s.req id with
  | none => .next s
  | some q =>
    if q.complete ∨ pktOp q.pkt ≠ 2 ∨ s.cycle < q.at_ + 8 * extDeadline q.ext then .next s
    else
      let s := (s.setReq { q with st := .ended }).addCounts q.slice (fetchCounts q true)
      .next (s.dueOp s.cycle 120 none (.handleFull q.region ⟨pktHandle q.pkt % 64, Nat.mod_lt _ (by decide)⟩))

/-! ## The firmware path (R246) -/

/-- Whether the firmware path has waited 1,024 cycles in a region for a free cycle of its sequencer. -/
def State.maySteal (s : State) (region : Nat) : Bool :=
  let g := s.region region
  !g.steal && (s.reqs.any fun q => q.region == region && q.st == .firmware)
    && (match g.fwWait with | some t => decide (t + 1024 ≤ s.cycle) | none => false)

/-- FIRMWARE_CYCLE_STEAL: the next control word of the region's sequencer executes 8 cycles later. -/
def execFirmwareCycleSteal (region : Nat) (s : State) : Res :=
  .next (if s.maySteal region then s.modRegion region fun g => { g with steal := true, fwWait := some s.cycle } else s)

/-- A unit that still fails: zeros at its destination, ERR set, and a report (R246). -/
def State.zeroUnit (s : State) (q : Req) (u : Nat) : State :=
  let z := List.replicate 64 (0 : Byte)
  let h := s.handle q.region (pktHandle q.pkt)
  let s := s.setHandle q.region (pktHandle q.pkt) { h with err := true }
  let s := if pktDir q.pkt then (s.writeRemote q u .own z).1
    else match s.landUnit q u z none with
      | .landed s => s
      | .stopped s _ => s
  s.report 40 q.slice 0

/-- A unit that the firmware path moves, as its read brought it, or writes as zeros. -/
def State.fwUnit (s : State) (q : Req) (u : Nat) (r : UnitRead) : State :=
  if pktDir q.pkt then
    match s.readLocal q u with
    | (s, none) => (s.zeroUnit q u).unitDone q u
    | (s, some bs) => match s.writeRemote q u r bs with
      | (s, .data _ _) => s.unitDone q u
      | (s, _) => (s.zeroUnit q u).unitDone q u
  else match s.readRemote q u r with
    | (s, .data bs tag) => match s.landUnit q u bs tag with
      | .landed s => s.unitDone q u
      | .stopped s c => s.stopReq q c
    | (s, .fault (some 43)) => ((s.report 43 q.slice 0).zeroUnit q u).unitDone q u
    | (s, _) => (s.zeroUnit q u).unitDone q u

/-- The units that the path has moved, each while the request stands and its bank serves it: a bank serves one a cycle. -/
def State.fwUnits (s : State) (id : Nat) : List (Nat × UnitRead) → State
  | [] => s
  | (u, r) :: us =>
    match s.req id with
    | none => s
    | some q =>
      if q.st = .ended ∨ q.units ≤ u ∨ q.done.contains u ∨ !s.unitServed q u then s.fwUnits id us
      else ((s.fwUnit q u r).noteUnit q u s).fwUnits id us

/-- FIRMWARE_COPY_DONE (R246): units of the remainder have been moved or written as zeros; with the last of them the handle
goes full. -/
def execFirmwareCopyDone (id : Nat) (units : List (Nat × UnitRead)) (s : State) : Res :=
  match s.req id with
  | none => .next s
  | some q => .next (if q.st = .firmware then s.fwUnits id units else s)

/-- HANDLE_DRAIN_END (R242, R295): the handle is free. -/
def execHandleDrainEnd (region : Nat) (hn : Fin 64) (s : State) : Res :=
  let h := s.handle region hn.val
  if h.st ≠ .draining ∨ s.cycle < h.drainAt then .next s else .next (s.setHandle region hn.val {})

def State.runRvSignal (s : State) (l w : Nat) : State := s.signalPoint l w

end Sys2Proof.Machine
end

