-- ==== Sys2Proof/Machine/Host.lean ====
section
/-! DEFINITION. Host and peer ports (24 R351 to R355, 12 R231). -/

namespace Sys2Proof.Machine

/-! ## Host links (R351) -/

def hostUnit : HostPort → Nat
  | .A => 0
  | .B => 1

/-- The semaphores that a host port owns are released, each counted and reported (R75). -/
def State.releaseSems (s : State) (h : HostPort) : State :=
  (List.range 16).foldl (fun s n =>
    let w := look 0 s.hostSem n
    if field w 31 30 = hostCode h then
      ({ s with hostSem := put s.hostSem n (BitVec.ofNat 32 ((field w 15 0 + 1) % 65536)) } : State).report 89 n 0
    else s) s

/-- Running requests through a space meet an uncorrectable memory error (R245, R354). -/
def State.failSpace (s : State) (sp : Nat) : State :=
  (s.reqs.filter fun q => q.st == .running && pktSpace q.pkt == sp).foldl (fun s q => s.handOver q none) s

/-- A host port goes down: open streams are abandoned, its launches end with `HOST_RESET`, and its semaphores are
released (R65, R75, R351). -/
def State.hostReset (s : State) (h : HostPort) : State :=
  let s := { s with hostDown := if s.hostDown.contains h then s.hostDown else h :: s.hostDown }
  let s := s.releaseSems h
  let s := (List.range 16).foldl (fun s p => match (s.port p).stream with
    | some l => if (s.launch l).host = h then s.abandon p else s
    | none => s) s
  let s := (s.launches.filter fun e => e.2.host == h).foldl (fun s e => s.endLaunch e.1 120 0) s
  s.failSpace (hostCode h)

/-- HOST_LINK_RESET. -/
def execHostLinkReset (h : HostPort) (s : State) : Res := .next (s.hostReset h)

/-! ## Links (R354, R355) -/

/-- A link's place among the flit counters: the peer ports, then host ports A and B. -/
def linkKey : Link → Nat
  | .peer n => n.val
  | .host h => 16 + hostUnit h

/-- The index of a link's port as a report names it. -/
def linkUnit : Link → Nat
  | .peer n => n.val
  | .host h => hostUnit h

/-- Whether a link carries flits. -/
def State.linkIsUp (s : State) : Link → Bool
  | .peer n => field (look 0 s.peerStat n.val) 63 62 == 2
  | .host h => !s.hostDown.contains h

/-- Flits replayed on a peer port, counted in RETRY (R355). -/
def State.countReplays (s : State) (l : Link) (k : Nat) : State :=
  match l with
  | .peer n =>
    let w := look 0 s.peerStat n.val
    { s with peerStat := put s.peerStat n.val (putField w 31 16 (stopAt 65535 (field w 31 16 + k))) }
  | .host _ => s

/-- LINK_DOWN: the loss is reported, and what was outstanding on the link fails. -/
def execLinkDown (l : Link) (s : State) : Res :=
  match l with
  | .host h => .next ((s.hostReset h).report 106 (hostUnit h) 0)
  | .peer n =>
    let s := { s with peerStat := put s.peerStat n.val (putField (look 0 s.peerStat n.val) 63 62 3) }
    .next ((s.failSpace (16 + n.val)).report 106 n.val 0)

/-- LINK_UP: `PEER.STAT` names the peer (R355); a flit's SEQ counts from 0. -/
def execLinkUp (l : Link) (remote : BitVec 16) (rport : BitVec 4) (s : State) : Res :=
  match l with
  | .host h =>
    let k := 16 + hostUnit h
    .next { s with hostDown := s.hostDown.filter (· != h), peerSeq := put s.peerSeq k 0, peerNext := put s.peerNext k 0,
                   peerSent := del s.peerSent k }
  | .peer n =>
    let w := look 0 s.peerStat n.val
    let w := putField (putField (putField w 63 62 2) 55 40 remote.toNat) 39 36 rport.toNat
    .next { s with peerStat := put s.peerStat n.val w, peerSeq := put s.peerSeq n.val 0, peerNext := put s.peerNext n.val 0,
                   peerSent := del s.peerSent n.val }

/-! ## Host memory accesses (R352, R353) -/

/-- The physical address of an offset of the host's device-memory range: the enabled windows end to end. -/
def memwinAddr (m : Map Word) (off : Nat) : List Nat → Option Nat
  | [] => none
  | n :: ns =>
    let w := look 0 m n
    if !winEn w then memwinAddr m off ns
    else if off < winSize w then some (winBase w + off)
    else memwinAddr m (off - winSize w) ns

/-- What the device answers to a host port, kept. -/
def State.answerHost (s : State) (a : HostAnswer) : State := { s with answers := a :: s.answers }

/-- HOST_MEM_ACCESS: a line access at its pseudo-channel, a read with the bytes of R272; outside every window it changes
nothing and has an error response, as has a read that meets an uncorrectable word. -/
def execHostMemAccess (h : HostPort) (write : Bool) (addr : Nat) (d : BitVec 512) (s : State) : Res :=
  if s.hostDown.contains h ∨ addr % 64 ≠ 0 then .next s
  else match memwinAddr s.memwin addr (List.range 8) with
    | some a =>
      .next (if write then s.memStore a (bytesOf d.toNat 64)
             else if s.memBad a 64 then s.answerHost (.error h addr)
             else s.answerHost (.data h addr (s.nodeRead a 64)))
    | none => .next (s.answerHost (.error h addr))

/-- CXL_SNOOP: the device holds no host line, and answers "not held". -/
def execCxlSnoop (host : HostPort) (addr : Nat) (s : State) : Res :=
  .next (if s.hostDown.contains host then s else s.answerHost (.notHeld host addr))

/-! ## Peers (R231, R354) -/

/-- A flit has come in order: the flits that its ACK acknowledges are kept no longer, and an acknowledgement that brings
nothing new asks for the replay of the others. -/
def State.takeAck (s : State) (l : Link) (f : Flit) : State :=
  let k := linkKey l
  let out := look [] s.peerSent k
  match out.findIdx? fun g => g.seq == f.ack with
  | some i => { s with peerSent := put s.peerSent k (out.drop (i + 1)) }
  | none =>
    if f.type ≠ 3 ∨ out.isEmpty then s
    else
      let again := out.map fun g => { g with replays := g.replays + 1 }
      let s := { s with peerSent := put s.peerSent k again, flitsOut := (again.map fun g => (k, g)).reverse ++ s.flitsOut }
      s.countReplays l again.length

/-- A port that has met a failing flit for the 17th time: it retrains (R354, R355). -/
def State.retrain (s : State) (l : Link) : State :=
  let s := s.report 105 (linkUnit l) 0
  match l with
  | .peer n => { s with peerStat := put s.peerStat n.val (putField (look 0 s.peerStat n.val) 63 62 1) }
  | .host _ => s

/-- PEER_FLIT: a flit that is in order and whose CRC holds is taken and acknowledged; any other is dropped until the sender
replays from ACK + 1, which an acknowledgement asks of it. -/
def execPeerFlit (l : Link) (f : Flit) (s : State) : Res :=
  if !s.linkIsUp l then .next s
  else
    let s := if f.replays = 0 then s else s.countReplays l 1
    let next := look 0 s.peerSeq (linkKey l)
    if !f.crcOk then .next (if 16 ≤ f.replays then s.retrain l else s.sendFlit (linkKey l) 3 0)
    else if f.seq ≠ next then .next s
    else
      let s := ({ s with peerSeq := put s.peerSeq (linkKey l) (next + 1) } : State).takeAck l f
      .next (if f.type = 1 ∨ f.type = 2 then s.sendFlit (linkKey l) 3 0 else s)

/-- PEER_REQUEST: a peer's line access under the tables that system software set for peers, a read answered by a data flit;
one that they refuse changes nothing. -/
def execPeerRequest (n : Fin 16) (write : Bool) (off : Nat) (d : BitVec 512) (s : State) : Res :=
  if field (look 0 s.peerStat n.val) 63 62 ≠ 2 ∨ off % 64 ≠ 0 then .next s
  else match Config.peerTranslate n.val write off with
    | some a =>
      let a := a / 64 * 64
      .next (if !(inHbm a 64 || inSlices a 64) then s
             else if write then s.memStore a (bytesOf d.toNat 64)
             else s.sendFlit n.val 2 (Config.flitPayload false off (s.nodeRead a 64)))
    | none => .next s

end Sys2Proof.Machine
end

