-- ==== Sys2Proof/Machine/Verify.lean ====
section
/-! DEFINITION. The verifier (02 R28, R32 to R34, 06 R93 to R103, R107, and the verifier rules of chapters 08 to 17):
what refuses a word of a code object, beyond what refuses the word by itself. -/

namespace Sys2Proof.Machine

/-- Feature bits that a word needs (R28). -/
def needsBits : Instr → List Nat
  | .mjoin o => if bitAt o.imm 2 then [0, 5] else [0]
  | .mfb (.bp _) _ => [1]
  | .bpsplit _ | .bpjoin _ => [1]
  | .mfa t _ | .mfb (.ty t) _ => if t = .mxf8 ∨ t = .mxi8 ∨ t = .mxf4 then [2] else []
  | .mxq _ _ | .mxdq _ _ => [2]
  | .dtap _ | .dpatch .. | .dset .. | .dstep .. | .dstop .. | .dsave .. | .drest .. => [3]
  | .grp o => if bitAt o.imm 0 then [5] else []
  | .mload .. | .mswap .. | .mcancel => [9]
  | .mcast _ => [10]
  | _ => []

/-- The lowest feature bit that a use needs and USED has clear (R28); `b` names the record or word. -/
def featNeed (used : Nat) (bits : List Nat) (b : Blame) : Option Blame :=
  (bits.find? fun i => !nbit used i).map fun i => { b with cause := 1, number := some i }

/-- The bits of a schedule word's field (R92). -/
def fieldBits : WfErr → Nat × Nat
  | .cols => (64, 55) | .dst | .overlap => (54, 49) | .srcA => (48, 40) | .srcB => (39, 31) | .pred => (30, 27)
  | .win => (26, 21) | .flg => (20, 16) | .imm => (15, 0) | .fold => (67, 65) | .minor => (73, 68)
  | .notAWord => (79, 68)

/-- The bits of the first field of a control word that its form does not admit (R101, R103): of A and B, those that must be
zero for the form to read the word; otherwise IMM. -/
def ctrlFieldBits (f : CFields) : Nat × Nat :=
  let reads (a b imm : Bool) : Bool :=
    (ctrlOf { f with a := if a then 0 else f.a, b := if b then 0 else f.b, imm := if imm then 0 else f.imm }).isSome
  if (ctrlOf f).isSome then (17, 0)
  else if reads true false false then (27, 23)
  else if reads false true false then (22, 18)
  else if reads false false true then (17, 0)
  else if reads true true false || reads true false true then (27, 23)
  else if reads false true true then (22, 18)
  else if reads true true true then (27, 23)
  else (17, 0)

/-- What the checks of one word need of the object. -/
structure VCtx where
  obj : Obj
  gcnt : Nat
  qcnt : Nat
  /-- Key of the object's channels (R219). -/
  chan : Nat

/-- Whether a channel's route begins and ends on pages of the page set (R86). -/
def VCtx.endsInside (c : VCtx) (chan : Nat) : Bool :=
  let inside (place : Nat) : Bool := decide (place % 28 < 4 * c.obj.pcol ∧ place / 28 < 4 * c.obj.prow)
  inside (Config.channelSender c.chan chan) && inside (Config.channelReceiver c.chan chan)

/-- Whether n registers from a code belong to the slot (R136, R138). -/
def VCtx.regsOk (c : VCtx) (code n : Nat) : Bool :=
  if code < 16 then decide (code + n ≤ c.gcnt) else decide (code - 16 + n ≤ c.qcnt)

/-- Registers of the group that a form names by its destination and by its source A (R138). -/
def dstGroup : Instr → Nat
  | .mxq _ _ | .grp _ => 2
  | _ => 1
def srcGroup : Instr → Nat
  | .mxdq _ _ => 2
  | _ => 1

/-- Columns of the page set in which a word executes: a table word only at LUT elements (R139, R175). -/
def colsOf (i : Instr) (o : SOp) : List Nat :=
  ((List.range (o.colL.toNat + 1)).filter (o.colF.toNat ≤ ·)).filter fun k => match i with
    | .lut _ | .lutr _ | .lutc _ => k % 4 == 3
    | _ => true

/-- Whether a source's neighbour lies inside a page set of rows × cols elements at every executing element (R95). -/
def nbrInside (rows cols row : Nat) (ks : List Nat) : Src → Bool
  | .nbr .north _ => ks.isEmpty || row != 0
  | .nbr .south _ => ks.isEmpty || decide (row + 1 < rows)
  | .nbr .east _ => ks.all fun k => decide (k + 1 < cols)
  | .nbr .west _ => ks.all (· != 0)
  | _ => true

/-- The refusals of R93 and R95 that need the page set's shape. -/
def shapeOk (rows cols row : Nat) (i : Instr) : Option WfErr :=
  match formRule i, sopOf i with
  | some r, some o =>
    if cols ≤ o.colL.toNat then some .cols
    else if r.a != .unused && !nbrInside rows cols row (colsOf i o) o.a then some .srcA
    else if r.b != .unused && !nbrInside rows cols row (colsOf i o) o.b then some .srcB
    else none
  | _, _ => none

/-- Whether a source that a form reads names a register of the slot (R136). -/
def VCtx.srcOk (c : VCtx) (rule : SrcRule) (n : Nat) (x : Src) : Bool :=
  if rule == .unused then true
  else match x with
    | .g r => c.regsOk r.val n
    | .q r => c.regsOk (16 + r.val) n
    | _ => true

/-- The site checks of R217. -/
def VCtx.siteOk (c : VCtx) (i : Instr) (o : SOp) (row : Nat) (x : Site) : Bool :=
  (colsOf i o).all fun k =>
    let e := 4 * (row % 4) + k % 4
    row / 4 * c.obj.pcol + k / 4 == x.page && x.banks.getLsbD e && (shareOf x e).le != 0

/-- FILL values and the window kind that a windowed form admits (R240). -/
def winRule : Instr → Option (List Nat × (Nat → Option Nat))
  | .ldw _ => some ([3, 4], fun f => some (f - 3))
  | .ldsy _ => some ([3], fun _ => some 3)
  | .stw _ => some ([3, 4], fun _ => none)
  | .mcast _ => some ([3], fun _ => none)
  | .atomAdd .. | .atomMin .. | .atomMax .. | .atomAnd .. | .atomOr .. | .atomXor .. | .atomXchg .. | .atomCas .. | .atomInc .. =>
    some ([3], fun _ => some 2)
  | _ => none

/-- The window of a form that must be its site's own (R240). -/
def winOfSite : Instr → Bool
  | .ldw _ => true
  | _ => false

/-- The refusals about the site and window of a word; `b` gives the name of a field under a cause. -/
def VCtx.siteCheck (c : VCtx) (i : Instr) (o : SOp) (row : Nat) (b : Nat → WfErr → Blame) : Option Blame :=
  match siteOperand i with
  | none => none
  | some _ =>
    match c.obj.sites.find? (·.1 == siteNo o) with
    | none => some (b 3 .imm)
    | some (_, x) =>
      let lw := (x.lrows + 1) * (x.lcols + 1)
      let win := look (0, 0) c.obj.windows o.win.toNat
      firstOf
        [ need (b 3 .imm) (c.siteOk i o row x),
          match winRule i with
          | none => none
          | some (fills, kind) => firstOf
              [ need (b 3 .imm) (fills.contains x.fill),
                need (b 10 .win) (match kind x.fill with
                  | some k => win.2 == k && (!winOfSite i || o.win.toNat == x.win)
                  | none => true),
                need (b 10 .fold) (decide (8 * (o.fold.val + 1) ≤ lw)) ] ]

/-- Whether the rows of a group of rows carry the identical word (R183, R203). -/
def sameRows (line : List SchedWord) (row n : Nat) (w : SchedWord) : Bool :=
  let q := row / n * n
  (List.range n).all fun k => (line.drop (q + k)).head? == some w

/-- The refusals of one form that need the object. -/
def VCtx.formCheck (c : VCtx) (line : List SchedWord) (i : Instr) (o : SOp) (row : Nat) (w : SchedWord) (r : FormRule)
    (b : Nat → WfErr → Blame) : Option Blame :=
  match i with
  | .lut _ | .lutr _ | .lutc _ => firstOf
      [ need (b 10 .notAWord) (row % 4 == 3),
        need (b 3 .imm) ((List.range c.obj.pages).all fun p => decide (field o.imm 1 0 < (lutSites c.obj.sites p).length)) ]
  | .send _ => firstOf [ need (b 10 .cols) ((colsOf i o).all fun k => 28 * row + k == Config.channelSender c.chan (field o.imm 7 0)),
                         need (b 10 .imm) (c.endsInside (field o.imm 7 0)) ]
  | .recv _ => firstOf [ need (b 10 .cols) ((colsOf i o).all fun k => 28 * row + k == Config.channelReceiver c.chan (field o.imm 7 0)),
                         need (b 10 .imm) (c.endsInside (field o.imm 7 0)) ]
  | .mjoin _ => firstOf
      [ need (b 10 .notAWord) (c.obj.quad && sameRows line row 8 w),
        need (b 10 .cols) (o.colF.toNat % 8 == 0 && (o.colL.toNat + 1) % 8 == 0) ]
  | _ => if r.matrix then need (b 10 .notAWord) (sameRows line row 4 w) else none

/-- A schedule word's place: line l of the section, and the row. -/
def VCtx.at_ (c : VCtx) (l row cause : Nat) (f : WfErr) : Blame :=
  { cause := cause, sect := 2, off := 10 * (c.obj.rows * l + row), hi := (fieldBits f).1, lo := (fieldBits f).2, number := some row }

/-- One schedule word against the object. -/
def VCtx.word (c : VCtx) (line : List SchedWord) (l row : Nat) (w : SchedWord) : Option Blame :=
  let b := c.at_ l row
  match decodeSched w with
  | .error .rsvMajor => none
  | .error .illegalMinor => some (b 113 .notAWord)
  | .error (.badField .overlap) => some (b 11 .overlap)
  | .error (.badField f) => some (b 10 f)
  | .ok i =>
    match formRule i, sopOf i with
    | some r, some o =>
      let dreg := match dstReg o.dst with
        | some d => r.dst == .zero || c.regsOk d (dstGroup i)
        | none => true
      let win := c.obj.windows.find? (·.1 == o.win.toNat)
      firstOf
        [ (shapeOk c.obj.rows (4 * c.obj.pcol) row i).map (b 10),
          need (b 10 .dst) dreg,
          need (b 10 .srcA) (c.srcOk r.a (srcGroup i) o.a),
          need (b 10 .srcB) (c.srcOk r.b 1 o.b),
          need (b 3 .win) (o.win == 0 || win.isSome),
          need (b 10 .win) (o.win == 0 || (match win with | some x => decide (o.fold.val + 1 ≤ x.2.1) | none => true)),
          c.siteCheck i o row b,
          c.formCheck line i o row w r b,
          featNeed c.obj.used (needsBits i) (b 1 .notAWord) ]
    | _, _ => none

/-! ## Lines: SEQ destinations, and the words that neighbours read (R133, R135) -/

/-- The DST code under which a word writes the result register, and where; none for a form that writes no tag (R132). -/
def tagOfWord (w : SchedWord) : Option (Nat × List Nat) :=
  match instrOf w with
  | none => none
  | some i => match formRule i, sopOf i with
    | some r, some o => (match r.dst with
        | .zero | .only _ => none
        | _ => some (o.dst.code, colsOf i o))
    | _, _ => none

def nbrOf : Src → Option (Dir × Nat)
  | .nbr d c => some (d, c.toNat)
  | _ => none

/-- The place of the neighbour of row and column, as 28 × row + column. -/
def nbrPlace (d : Dir) (row col : Nat) : Nat :=
  match d with
  | .north => 28 * (row - 1) + col
  | .south => 28 * (row + 1) + col
  | .east => 28 * row + col + 1
  | .west => 28 * row + col - 1

/-- Whether a word has written its tag at one column when the next column reads its sources, a cycle later (R132, R169): not
a windowed word, and no reduction of several beats, which writes on its last beat what it read on its first. -/
def tagsAhead (i : Instr) (o : SOp) : Bool :=
  o.win == 0 && (match i with
    | .rsum .. | .rmax .. | .segscan .. | .grp _ => o.fold.val == 0
    | _ => true)

/-- The first source of a word whose neighbour index is not the DST code of the producing word: the last before it in the
lines of the kernel, or the word itself where it executes one column to the west and has written there (R133). A place that
no word before it writes is not refused: log entry 16. -/
def nbrBad (tags : Map Nat) (row : Nat) (w : SchedWord) : Option WfErr :=
  match instrOf w with
  | none => none
  | some i => match sopOf i with
    | none => none
    | some o =>
      let ok (x : Src) : Bool := match nbrOf x with
        | none => true
        | some (d, code) => (colsOf i o).all fun k =>
          let own := match d, tagOfWord w with
            | .west, some (c, ks) => if ks.contains (k - 1) && k != 0 && tagsAhead i o then some c else none
            | _, _ => none
          match own with
          | some c => c == code
          | none => match tags.find? (·.1 == nbrPlace d row k) with
            | some (_, c) => c == code
            | none => true
      if !ok o.a then some .srcA else if !ok o.b then some .srcB else none

/-- The tags after a line. -/
def tagsAfter (tags : Map Nat) (line : List SchedWord) : Map Nat :=
  (line.mapIdx fun r w => (r, w)).foldl (fun (m : Map Nat) (x : Nat × SchedWord) => match tagOfWord x.2 with
    | some (c, ks) => ks.foldl (fun m k => put m (28 * x.1 + k) c) m
    | none => m) tags

def isSeqWord (w : SchedWord) : Bool :=
  match (instrOf w).bind sopOf with
  | some o => o.dst == .seq
  | none => false

/-- One line against the object: each word; no second word with DST 55; the neighbours' producers. -/
def VCtx.line (c : VCtx) (tags : Map Nat) (l : Nat) (line : List SchedWord) : Option Blame :=
  firstOf
    [ eachOf line fun r w => c.word line l r w,
      eachOf line fun r w => need (c.at_ l r 10 .dst) (!isSeqWord w || !(line.take r).any isSeqWord),
      eachOf line fun r w => (nbrBad tags r w).map (c.at_ l r 10) ]

/-- Lines in order, with their places in the section. -/
def VCtx.lines (c : VCtx) (tags : Map Nat) : List (Nat × List SchedWord) → Option Blame
  | [] => none
  | (l, x) :: ls => match c.line tags l x with
    | some b => some b
    | none => c.lines (tagsAfter tags x) ls

/-! ## Control words (R103) -/

/-- The offset of a branch. -/
def branchOff : Instr → Option (BitVec 18)
  | .beq _ _ f | .bne _ _ f | .blt _ _ f | .bltu _ _ f | .bge _ _ f | .bgeu _ _ f => some f
  | .bk _ f | .bnk _ f | .j f | .call _ f => some f
  | _ => none

/-- Whether a branch at word n stays inside its kernel's program of `len` words (R103). -/
def branchInside (n len : Nat) (i : Instr) : Bool :=
  match branchOff i with
  | some f => decide (0 ≤ (n : Int) + f.toInt ∧ (n : Int) + f.toInt < len)
  | none => true

/-- One control word, at word `at_` of section 3: its place in its kernel's program, and the length of that program. -/
def ctrlWordCheck (used at_ n len : Nat) (w : CtrlWord) : Option Blame :=
  let b (cause : Nat) (f : Nat × Nat) : Blame := recAt cause 3 (5 * at_) f.1 f.2
  match decodeCtrl w with
  | .error .rsvMajor => none
  | .error .illegalMinor => some (b 113 (39, 28))
  | .error (.badField _) => some (b 10 (ctrlFieldBits (CFields.unpack w)))
  | .ok i => firstOf [ need (b 10 (17, 0)) (branchInside n len i), featNeed used (needsBits i) (b 1 (39, 28)) ]

/-! ## The whole object (R28, R32) -/

/-- Sites that schedule words name. -/
def Obj.named (o : Obj) : List Nat :=
  (o.lines.flatMap fun l => l.filterMap fun w => (instrOf w).bind fun i => (siteOperand i).map siteNo).eraseDups

def Obj.features (o : Obj) : Option Blame :=
  firstOf
    [ featNeed o.used (if o.quad then [0] else []) (hdrAt 199 199),
      featNeed o.used (if o.accprot = 1 then [8] else []) (hdrAt 198 197),
      eachOf (recsOf (o.sec 4) 16) fun i r => featNeed o.used (if nfield r 69 64 = 0 then [] else [4]) (recAt 1 4 (16 * i) 69 64),
      eachOf (recsOf (o.sec 6) 8) fun i r =>
        let c := nfield r 15 8
        featNeed o.used ((if 0x32 ≤ c ∧ c ≤ 0x38 then [1] else []) ++ if 0x20 ≤ c ∧ c ≤ 0x22 then [2] else []) (recAt 1 6 (8 * i) 15 8) ]

/-- The lines of the section with their places. -/
def Obj.placedLines (o : Obj) : List (Nat × List SchedWord) := o.lines.mapIdx fun l x => (l, x)

/-- Lines that no kernel owns are checked against the largest partition. -/
def Obj.freeLines (o : Obj) : List (Nat × List SchedWord) :=
  o.placedLines.filter fun e => !o.kernels.any fun k => decide (k.sloff ≤ e.1 ∧ e.1 < k.sloff + k.slcnt)

def Obj.schedCheck (o : Obj) (chan : Nat) : Option Blame :=
  firstOf ((o.kernels.map fun k =>
      ({ obj := o, gcnt := k.gcnt, qcnt := k.qcnt, chan := chan } : VCtx).lines [] (slice o.placedLines k.sloff k.slcnt))
    ++ [({ obj := o, gcnt := 16, qcnt := 32, chan := chan } : VCtx).lines [] o.freeLines])

/-- Words of section 3 before the lowest CPOFF are no kernel's: their branches are held to the whole section (log entry
17). -/
def Obj.ctrlCheck (o : Obj) : Option Blame :=
  eachOf o.ctrl fun n w =>
    match (o.kernels.filter fun k => decide (k.cpoff ≤ 5 * n ∧ 5 * n < k.cpoff + 5 * k.words)) with
    | k :: _ => ctrlWordCheck o.used n (n - k.cpoff / 5) k.words w
    | [] => ctrlWordCheck o.used n n o.ctrl.length w

/-- Step 5: every word, and the records that the words leave unnamed (R32). -/
def Obj.step5 (o : Obj) (chan : Nat) : Option Blame :=
  firstOf [ o.features, o.schedCheck chan, o.ctrlCheck,
            eachOf (recsOf (o.sec 4) 16) fun i r =>
              need (recAt 3 4 (16 * i) 127 120) (nfield r 71 70 == 2 || o.named.contains (nfield r 127 120)) ]

/-! ## The load report -/

/-- Words of majors 56 to 63 (R107). -/
def laterWords (ms : List Nat) : Nat := (ms.filter (56 ≤ ·)).length

/-- Channels that a word names (R219). -/
def Obj.channels (o : Obj) : List Nat :=
  (o.lines.flatMap fun l => l.filterMap fun w => match instrOf w with
    | some (.send x) | some (.recv x) => some (field x.imm 7 0)
    | _ => none).eraseDups

/-- What the loader reports of an object that it has read: its refusal, or what R27, R31, R107, R219 and R249 list. `gen` is
the copy that it makes in the region. -/
def Obj.report (o : Obj) (region gen : Nat) (refused : Option Blame) : LoadReport :=
  { ident := BitVec.ofNat 128 o.ident, region := region, gen := gen, refused := refused,
    versions := if featureVersion < o.featver then some (featureVersion, o.featver) else none,
    rounded := o.rounded,
    laterSched := laterWords (o.lines.flatten.map fun w => field w 79 74),
    laterCtrl := laterWords (o.ctrl.map fun w => field w 39 34),
    delays := o.channels.map fun n => (n, chanDelay (gen * 48 + region) n),
    counterDelays := (List.range 448).flatMap fun e => (List.range 4).map fun h => (4 * e + h, Config.counterDelay e (homeSlice region h)) }

end Sys2Proof.Machine
end

