-- ==== Sys2Proof/Machine/Loader.lean ====
section
/-! DEFINITION. The loader (02 R36 to R39, 04 R66, R68, 23 R343): pinning, relocation, the schedule store of a region, and
the end of a load. -/

namespace Sys2Proof.Machine

/-! ## The kiln's measure of a configuration (R88) -/

/-- res := ceil(EPI × P × Σ(SLOTS_k × 25,000 / II_k) / 1,000,000), exactly. -/
def reservation (epi pages : Nat) (ks : List Kernel) : Nat :=
  let d := ks.foldl (fun a k => a * k.ii) 1
  let n := sumNat (ks.map fun k => k.slots * (d / k.ii))
  ceilDiv (epi * pages * 25000 * n) (1000000 * d)

/-! ## Pinning (R37) -/

/-- A patch record's range: space, offset, length, WR. -/
def patchRange (r : Nat) : Nat × Nat × Nat × Bool := (nfield r 191 184, nfield r 183 120, nfield r 119 80, nbit r 79)

def Obj.patches (o : Obj) : List Nat := recsOf (o.sec 8) 24

/-- The physical address of a pinned range; none where it cannot be pinned. -/
def State.pinRange (s : State) (g : BitVec 12) (r : Nat) : Option (Nat × Nat × Bool) :=
  let (sp, off, len, wr) := patchRange r
  if sp ≠ 0 then none
  else match s.xlatPlain g 0 off wr with
    | .pa a =>
      let pages := (off + len - 1) / 65536 - off / 65536
      let ok := (List.range pages).all fun i =>
        let v := (off / 65536 + 1 + i) * 65536
        s.xlatPlain g 0 v wr == .pa (a + (v - off))
      if ok && inHbm a len then some (a, len, wr) else none
    | _ => none

/-- The pinned ranges of the patch records, or the first record that cannot be pinned. -/
def State.pinAll (s : State) (g : BitVec 12) (rs : List Nat) : Except Blame (List (Nat × Nat × Bool)) :=
  match eachOf rs fun i r => need (recAt 5 8 (24 * i) 191 79) (s.pinRange g r).isSome with
  | some b => .error b
  | none => .ok (rs.filterMap (s.pinRange g))

/-! ## Relocation (R36) -/

/-- The bit of the object at which a relocated field stands, and the bit that a kind-0 record keeps: in section 9,
among the images' bytes alone. None for a field that its section does not hold. -/
def Obj.fieldPlace (o : Obj) (sect off width : Nat) : Option (Nat × Nat) :=
  if sect = 9 then
    let go (acc : Nat × Nat × Option (Nat × Nat)) (d : SecEntry) : Nat × Nat × Option (Nat × Nat) :=
      let (pos, data, found) := acc
      let lo := pos + 128
      let hi := pos + 8 * d.len
      let here := if lo ≤ off ∧ off + width ≤ hi then some (8 * d.off + (off - pos), data + (off - lo)) else none
      (hi, data + 8 * (d.len - 16), if found.isSome then found else here)
    ((o.dirs.filter (·.type == 9)).foldl go (0, 0, none)).2.2
  else match o.dirs.find? (·.type == sect) with
    | some d => if off + width ≤ 8 * d.len then some (8 * d.off + off, off) else none
    | none => none

/-- One relocation record applied; kinds 1 to 4 at load, kind 0 at each placement, which applies them all again. None where it
is refused: also for an ARG that names no page, home slice or patch, of which R36 states no outcome (log entry 31). -/
def Obj.relocOne (o : Obj) (region base : Nat) (pas : List Nat) (r : Nat) : Option (Obj × Reloc) :=
  let kind := nfield r 63 60
  let sect := nfield r 59 56
  let width := nfield r 23 18 + 1
  let arg := nfield r 17 0
  match (if 9 < sect then none else o.fieldPlace sect (nfield r 55 24) width) with
  | none => none
  | some (bit, keep) =>
    let old := getBits o.bytes bit width
    let rel (v : RelValue) : Reloc := { sect := sect, off := keep, width := width, val := v }
    let add (v : Nat) : Option (Obj × Reloc) :=
      if 2 ^ width ≤ old + v then none else some ({ o with bytes := putBits o.bytes bit width (old + v) }, rel (.num v))
    if kind = 0 then (if arg < o.pages then some (o, rel (.page arg)) else none)
    else if kind = 1 then (if arg < 4 then add (homeSlice region arg) else none)
    else if kind = 2 then add region
    else if kind = 3 then add base
    else if kind = 4 then (match pas[arg]? with | some a => add a | none => none)
    else none

/-- The relocation records from the i-th on. They are read before any is applied, so one that writes into section 7 changes no
later record of the load: log entry 31. -/
def Obj.relocate (o : Obj) (region base : Nat) (pas : List Nat) (i : Nat) : List Nat → Except Blame (Obj × List Reloc)
  | [] => .ok (o, [])
  | r :: rs => match o.relocOne region base pas r with
    | none => .error (recAt 0 7 (8 * i) 63 0)
    | some (o, k) => match o.relocate region base pas (i + 1) rs with
      | .error b => .error b
      | .ok (o, ks) => .ok (o, k :: ks)

/-! ## Schedule store (R77, R343) -/

def storeSize : Nat := 2 ^ 21

/-- Bytes of the store that an object's sections 2 and 3 take: rounded up to 4 KiB. -/
def Obj.storeBytes (o : Obj) : Nat := ceilDiv ((o.sec 2).length + (o.sec 3).length) 4096 * 4096

def fitsAt (cs : List Copy) (size b : Nat) : Bool :=
  decide (b + size ≤ storeSize) && cs.all fun c => decide (b + size ≤ c.base ∨ c.base + c.bytes ≤ b)

/-- The lowest base at which a copy fits. -/
def lowestBase (cs : List Copy) (size : Nat) : Option Nat :=
  match ((0 :: cs.map fun c => c.base + c.bytes).filter (fitsAt cs size)) with
  | [] => none
  | b :: bs => some (bs.foldl Nat.min b)

/-- Room for a copy: evictable copies go, oldest generation first, until it fits. -/
def makeRoom (cs : List Copy) (size : Nat) : List Nat → Option (Nat × List Copy)
  | [] => (lowestBase cs size).map fun b => (b, cs)
  | g :: gs => match lowestBase cs size with
    | some b => some (b, cs)
    | none => makeRoom (cs.filter (·.gen != g)) size gs

/-- The bytes of an object that relocations of kind 0 start from at each placement. -/
def Obj.rawSections (o : Obj) : Map (List Byte) :=
  ([1, 2, 3, 4, 5].map fun n => (n, o.sec n)) ++ [(9, o.images.flatMap (·.2.2))]

def insertNat (x : Nat) : List Nat → List Nat
  | [] => [x]
  | y :: ys => if x ≤ y then x :: y :: ys else y :: insertNat x ys
def sortNat (l : List Nat) : List Nat := l.foldr insertNat []

/-- Copies of a region that nothing refers to, oldest first (R343): a region lists its copies in the order of their loads. -/
def State.evictable (s : State) (region : Nat) : List Nat :=
  ((s.region region).copies.map (·.gen)).filter fun g => !(s.refs region).contains g

/-- Whether 2 MiB minus the bytes in use, with evictable copies counted as free, hold a size (R66, R77). -/
def State.storeHolds (s : State) (region size : Nat) : Bool :=
  let used := sumNat (((s.region region).copies.filter fun c => (s.refs region).contains c.gen).map (·.bytes))
  decide (used + size ≤ storeSize)

/-- The contiguous range that a new copy takes (R36), and the copies that stay. -/
def State.roomIn (s : State) (region size : Nat) : Option (Nat × List Copy) :=
  makeRoom (s.region region).copies size (s.evictable region)

/-- The generation of a region's next copy (R343). -/
def nextGen (g : Nat) : Nat := if g = 0xFFFFFFFF then 1 else g + 1

/-! ## Loading (R38) -/

/-- Sites with their store marks (R224). -/
def Obj.markedSites (o : Obj) : Map Site :=
  let stores := (o.lines.flatMap fun l => l.filterMap instrOf).filterMap fun i => match i with
    | .sts _ x | .stx x | .stw x | .mcast x => some (siteNo x)
    | .atomAdd _ x | .atomMin _ x | .atomMax _ x | .atomAnd x | .atomOr x | .atomXor x | .atomXchg x | .atomCas x | .atomInc x =>
      some (siteNo x)
    | _ => none
  o.sites.map fun e => (e.1, { e.2 with store := stores.contains e.1 })

/-- Whether a relocation waits for a placement. -/
def Reloc.isPage (r : Reloc) : Bool := match r.val with | .page _ => true | .num _ => false

/-- The copy that a relocated object makes; `raw` is the object before its relocation. -/
def Obj.toCopy (o raw : Obj) (gen base : Nat) (ident : BitVec 128) (g : Option (BitVec 12)) (rels : List Reloc)
    (pins : List (Nat × Nat × Bool)) : Copy :=
  { gen := gen, ident := ident, saggar := g, base := base, bytes := o.storeBytes, progOff := (o.sec 2).length,
    progLen := (o.sec 3).length, used := BitVec.ofNat 64 o.used, epi := o.epi, pcol := o.pcol, prow := o.prow, quad := o.quad,
    accprot := o.accprot == 1, kernels := o.kernels, sites := o.markedSites, windows := o.windows,
    recs := [(1, o.sec 1), (4, o.sec 4), (5, o.sec 5)], images := o.images, pins := pins,
    rels := if rels.any Reloc.isPage then rels else [], raw := if rels.any Reloc.isPage then raw.rawSections else [],
    reserved := reservation o.epi o.pages o.kernels,
    fmax := maxNat (o.lines.flatMap fun l => l.map fun w => field w 67 65 + 1), wmax := maxNat (o.windows.map (·.2.1)) }

/-- Steps 1 to 5, then pinning, relocation and the region's schedule store (R38): the new copy's generation, the
refusal, or none while the region has no room. `ecc` is a page whose read-back is uncorrectable (R325); `more` adds the
refusals of R129. -/
def State.loadInto (s : State) (o : Obj) (region : Nat) (ident : BitVec 128) (g : BitVec 12) (ecc : Option Nat) (more : Option Blame) :
    Except Blame (Option (State × Nat)) :=
  let gen := nextGen (s.region region).lastGen
  match firstOf [o.step1, o.step2, o.step3, o.step4, o.step5 (gen * 48 + region), more] with
  | some b => .error b
  | none =>
    match s.pinAll g o.patches with
    | .error b => .error b
    | .ok pins =>
      match s.roomIn region o.storeBytes with
      | none => .ok none
      | some (base, cs) =>
        match o.relocate region base (pins.map (·.1)) 0 (recsOf (o.sec 7) 8) with
        | .error b => .error b
        | .ok (o', rels) =>
          match ecc with
          | some page => .error { cause := 12, number := some page }
          | none =>
            let c := o'.toCopy o gen base ident (if o.patches.isEmpty then none else some g) rels pins
            let bs := (o'.sec 2 ++ o'.sec 3).mapIdx fun i b => (base + i, b)
            let s := s.modRegion region fun r =>
              { r with store := bs.foldl (fun m e => put m e.1 e.2) r.store, copies := cs ++ [c], lastGen := gen }
            let s := { s with ecc := s.ecc.filter fun e => match e.1 with
              | .sched r b => !(r == region && decide (base ≤ b ∧ b < base + c.bytes))
              | _ => true }
            .ok (some (s, gen))

/-- A report of the loader kept, the newest first. -/
def State.addReport (s : State) (r : LoadReport) : State := { s with reports := r :: s.reports }

/-! ## The end of a load (R38, R39, R66) -/

/-- The region that the loader takes (R66): the lowest whose free and evictable store holds the object. -/
def State.loadRegion (s : State) (size : Nat) : Option Nat := (List.range 48).find? fun r => s.storeHolds r size

/-- Launches that wait on a load. -/
def State.waitingOn (s : State) (ld : Nat) : List Nat :=
  (s.launches.filter fun e => e.2.load == some ld && e.2.stage != .retired).map (·.1)

def State.dropLoad (s : State) (ld : Nat) : State := { s with loads := s.loads.filter (·.id != ld) }

/-- The launches that share a load's refusal get its cause (R39). A stream that is still open makes its launch at its
CLOSE (R65): the cause is kept for it. -/
def State.refuseLoad (s : State) (ws : List Nat) (cause : Nat) : State :=
  ws.foldl (fun (s : State) l =>
    if (s.launch l).stage = .open then s.modLaunch l fun x => { x with load := none, status := 2, cause := cause }
    else s.refuseAny l cause) s

/-- A launch goes on after a load: bound to the copy of the region it was placed in, or free to be checked and
placed. -/
def State.afterLoad (s : State) (region gen l : Nat) : State :=
  let x := s.launch l
  if x.stage = .waiting then
    if x.region = region then
      (s.modLaunch l fun y => { y with load := none, gen := gen, stage := .placed }).startArming l
    else s
  else s.modLaunch l fun y => { y with load := none }

/-- A launch that cannot bind the copy that a load makes leaves it (R39): it loads a copy of its own, where it is placed
already at once, otherwise once its argument check finds none. -/
def State.leaveLoad (s : State) (l : Nat) : State :=
  if (s.launch l).stage = .waiting then
    let x := s.launch l
    let (id, s) := s.nextSerial
    let d : Load := { id := id, region := x.region, ident := x.ident, va := x.objVa, len := x.objLen, launch := l, fresh := false }
    ({ s with loads := s.loads ++ [d] } : State).modLaunch l fun y => { y with load := some id }
  else s.modLaunch l fun y => { y with load := none }

/-- Whether a launch can bind a copy that exists (R39); its saggar comes with its PARAM token. -/
def State.canBind (s : State) (l : Nat) : Bool :=
  let x := s.launch l
  s.anyCopy x.ident || (x.gotParam && !(s.bindings x.ident (saggarOf x)).isEmpty)

/-- What a load does with its launches: those that share its outcome and those that leave it (R39). An object with patch
records is loaded for one saggar, the owner's, which its PARAM token gives. -/
def State.sharers (s : State) (o : Obj) (owner : Option Nat) (ws : List Nat) : List Nat × List Nat :=
  let g := match owner with | some l => saggarOf (s.launch l) | none => 0
  let told := match owner with | some l => (s.launch l).gotParam | none => false
  let shares (l : Nat) : Bool :=
    o.patches.isEmpty || owner == some l || (told && (s.launch l).gotParam && saggarOf (s.launch l) == g)
  (ws.filter shares, ws.filter fun l => !shares l)

/-- The bindable copy that a region already holds in place of the one that a load would make (R39). -/
def State.twinOf (s : State) (region : Nat) (ident : BitVec 128) (g : Option (BitVec 12)) : Option Copy :=
  (s.region region).copies.find? fun c => c.bindable && c.ident == ident && c.saggar == g

/-- A load refused: its report, and the refusal of those that share it; the others load for themselves. -/
def State.endRefused (s : State) (d : Load) (shared left : List Nat) (rep : LoadReport) (b : Blame) : State :=
  (left.foldl (fun s l => s.leaveLoad l) ((s.dropLoad d.id).addReport { rep with refused := some b })).refuseLoad shared b.cause

/-- A load that has a copy to give: the launches that share it go on with it. -/
def State.endLoaded (s : State) (d : Load) (shared left : List Nat) (region gen : Nat) : State :=
  shared.foldl (fun s l => s.afterLoad region gen l) (left.foldl (fun s l => s.leaveLoad l) (s.dropLoad d.id))

/-- The steps of R38 of a load whose object has been read: the launches that wait on it are `ws`. -/
def State.loadObject (s : State) (d : Load) (o : Obj) (ecc : Option Nat) (ws : List Nat) : State :=
  let owner := if ws.contains d.launch then some d.launch else ws.head?
  let (shared, left) := s.sharers o owner ws
  let refuse (region : Nat) (b : Blame) : State := s.endRefused d shared left (o.report region 0 none) b
  match firstOf [need (hdrAt 511 0) (o.bytes.length == d.len), o.step1, o.step2, o.step3, o.step4] with
  | some b => refuse 0 b
  | none =>
    let g := match owner with | some l => saggarOf (s.launch l) | none => 0
    let key := if o.patches.isEmpty then none else some g
    if !o.patches.isEmpty && owner.isNone then s.dropLoad d.id
    else if !o.patches.isEmpty && !(match owner with | some l => (s.launch l).gotParam | none => true) then s
    else if storeSize < o.storeBytes then refuse 0 { cause := 6 }
    else match (if d.fresh then s.loadRegion o.storeBytes else some d.region) with
      | none => s
      | some region => match s.twinOf region d.ident key with
        | some c => s.endLoaded d shared left region c.gen
        | none => match s.loadInto o region d.ident g ecc none with
          | .error b => refuse region b
          | .ok none => s
          | .ok (some (s, gen)) => (s.addReport (o.report region gen none)).endLoaded d shared left region gen

/-- OBJECT_LOAD: the read of a load's object has ended. What was read of an object with patch records is discarded for the
launches that can bind a copy that exists (R66); such an object's pinning waits for the PARAM token of the launch that woke
the load (R37). Where that launch has gone, the first other that waits takes its place, and with none the load is dropped:
log entry 30. -/
def execObjectLoad (ld : Nat) (r : LoadRead) (s : State) : Res :=
  match s.loads.find? fun d => d.id == ld && !d.phase with
  | none => .next s
  | some d =>
    match r with
    | .fails cause =>
      let s := match cause with | .fault => s | .abort => s.report 43 d.region 0
      .next (s.endRefused d (s.waitingOn ld) [] { ident := d.ident } { cause := 13 })
    | .bytes b | .ecc _ b =>
      let o := objOf b
      let ecc := match r with | .ecc page _ => some page | _ => none
      let served := if d.fresh && !o.patches.isEmpty then (s.waitingOn ld).filter s.canBind else []
      let s := served.foldl (fun s l => s.modLaunch l fun y => { y with load := none }) s
      let ws := s.waitingOn ld
      .next (if !served.isEmpty && ws.isEmpty then s.dropLoad ld else s.loadObject d o ecc ws)

/-! ## The checks that need the object (R68) -/

/-- Whether a launch is ready for its check: a copy that it can bind exists, or the load that it waited on has ended. -/
def State.argReady (s : State) (l : Nat) : Bool :=
  let x := s.launch l
  x.stage == .closed && !x.argChecked && (x.load.isNone || !(s.bindings x.ident (saggarOf x)).isEmpty)

/-- LAUNCH_ARG_CHECK (R68): ARGSITE is a site of LIFE 2 and ARGLEN no more than its size. A load under way runs on, with the
launch (R66, R69), but for one of an object with patch records, which the launch leaves. With no copy left that it can bind,
the loader is woken again. -/
def execLaunchArgCheck (l : Nat) (s : State) : Res :=
  let x := s.launch l
  if !s.argReady l then .next s
  else match s.bindings x.ident (saggarOf x) with
    | [] => .next (s.wakeLoader l)
    | (r, gen) :: _ =>
      let ok := !x.argv || (match (s.copy r gen).sites.find? (·.1 == x.argSite) with
        | some (_, y) => y.life == 2 && decide (x.argLen ≤ siteBytes y)
        | none => false)
      let s := match x.load with
        | some d =>
          if (s.copy r gen).saggar.isNone then s
          else
            let s := s.modLaunch l fun y => { y with load := none }
            if (s.waitingOn d).isEmpty then s.dropLoad d else s
        | none => s
      .next (if ok then s.modLaunch l fun y => { y with argChecked := true } else s.refuse l 9)

end Sys2Proof.Machine
end

