-- ==== Sys2Proof/Machine/Place.lean ====
section
/-! DEFINITION. The allocator (05 R76 to R88): where a head launch goes, its slots, its reservation, and moves. -/

namespace Sys2Proof.Machine

/-! ## What a region offers (R77) -/

/-- A cluster free and not fenced, power-gated or not; a move wakes no cluster that it takes: log entry 33. -/
def State.freeCluster (s : State) (cl : Nat) : Bool := (s.cluster cl).launch.isNone && (s.cluster cl).fencedAt.isNone

def State.freeRect (s : State) (region pcol prow : Nat) : Option (Nat × Nat) :=
  (originsOf pcol prow).find? fun o => (rectOf region o.1 o.2 pcol prow).all s.freeCluster

def State.freeSlotsOf (s : State) (region : Nat) : List Nat := (List.range 8).filter fun i => !(s.slot (slotKey region i)).bound

/-- Whether a launch holds a place in a region. -/
def Launch.placedIn (x : Launch) (region : Nat) : Bool :=
  x.region == region && (x.stage == .waiting || x.stage == .placed || x.stage == .running)

/-- Registers of every element that the launches placed in a region take (R31). -/
def State.regsTaken (s : State) (region : Nat) : Nat :=
  sumNat (s.launches.map fun e => if e.2.placedIn region then e.2.regs else 0)

/-- Whether a region's DDA is claimed, or will be by a launch already placed (R251). -/
def State.ddaTaken (s : State) (region : Nat) : Bool :=
  (s.region region).ddaOwner.isSome || s.launches.any fun e => e.2.placedIn region && e.2.dda

/-- Store that placement has taken for loads still under way, once for each load. -/
def State.roomTaken (s : State) (region : Nat) : Nat :=
  sumNat (s.loads.map fun d => if d.region == region && !d.fresh then (s.launch d.launch).room else 0)

/-- The conditions of R77 in a region, energy apart, for a launch whose configuration is c: the origin it takes. -/
def State.regionTakes (s : State) (l : Nat) (c : Copy) (region : Nat) : Option (Nat × Nat) :=
  let x := s.launch l
  let held := (s.region region).copies.any fun d => d.binds x.ident (saggarOf x)
  let slots := sumNat (c.kernels.map (·.slots))
  let regs := sumNat (c.kernels.map fun k => k.slots * (k.gcnt + k.qcnt))
  if decide (slots ≤ (s.freeSlotsOf region).length) && decide (s.regsTaken region + regs ≤ 48)
      && (held || s.storeHolds region (c.bytes + s.roomTaken region)) && !(bitAt c.used 3 && s.ddaTaken region)
  then s.freeRect region c.pcol c.prow else none

/-- The region and origin that the allocator takes: regions that hold a copy first, each group ascending. -/
def State.findPlace (s : State) (l : Nat) (c : Copy) : Option (Nat × Nat × Nat) :=
  let x := s.launch l
  let held := (s.bindings x.ident (saggarOf x)).map (·.1)
  let rest := (List.range 48).filter fun r => !held.contains r
  (held ++ rest).findSome? fun r => (s.regionTakes l c r).map fun o => (r, o.1, o.2)

/-- BUDGET as the kiln admits against it (R359). -/
def State.budget (s : State) : Nat := if s.hot then s.kilnBudget.toNat / 2 else s.kilnBudget.toNat

/-! ## The head launches (R72, R73) -/

/-- What the allocator does with a head launch now. -/
inductive PlaceAct | wait | refuse (cause : Nat) | reload | place (region cc0 cr0 : Nat)
deriving DecidableEq, Repr

/-- The configuration of a launch, from a copy it can bind. -/
def State.shapeOf (s : State) (l : Nat) : Option Copy :=
  match s.bindings (s.launch l).ident (saggarOf (s.launch l)) with
  | (r, g) :: _ => some (s.copy r g)
  | [] => none

def State.placeAct (s : State) (l : Nat) : PlaceAct :=
  let x := s.launch l
  if !(s.isHead l && x.units != 0 && x.argChecked && x.load.isNone) then .wait
  else match s.shapeOf l with
    | none => .reload
    | some c =>
      if !(List.range 48).any fun r => s.admitsShape r c.pcol c.prow then .refuse 6
      else if s.kilnBudget.toNat < s.kilnBase.toNat + c.reserved then .refuse 7
      else if s.budget < s.kilnReserved + s.kilnBase.toNat + c.reserved then .wait
      else match s.findPlace l c with
        | some (r, cc, cr) => .place r cc cr
        | none => .wait

/-- Whether launch a is served before launch b (R73). -/
def State.before (s : State) (a b : Nat) : Bool :=
  let x := s.launch a
  let y := s.launch b
  decide (y.eff < x.eff) || (x.eff == y.eff && (decide (x.closeAt < y.closeAt) || (x.closeAt == y.closeAt && decide (x.port < y.port))))

def State.bestOf (s : State) : List Nat → Option Nat
  | [] => none
  | l :: ls => match s.bestOf ls with
    | none => some l
    | some m => if s.before l m then some l else some m

/-- The head launch that the allocator can act on, if any. -/
def State.nextHead (s : State) : Option Nat :=
  s.bestOf (((List.range 16).filterMap fun p => (s.port p).queue.head?).filter fun l => s.placeAct l != .wait)

/-! ## Placing (R76, R77, R84) -/

/-- Slots bound to kernels in KID order, each the lowest-numbered free ones (R84); ranks ascend. -/
def State.bindSlots (s : State) (l region : Nat) (c : Copy) : State :=
  let ks := (c.kernels.mapIdx fun k x => List.replicate x.slots k).flatten
  let free := (s.freeSlotsOf region).take ks.length
  let s := (free.zip ks).zipIdx.foldl (fun s e =>
    s.modSlot (slotKey region e.1.1) fun _ => { bound := true, launch := l, kernel := e.1.2, rank := e.2 }) s
  s.modLaunch l fun x => { x with slots := free }

/-- The seam ports of a page that join it to another page of its set (R82): bit 0 north, 1 east, 2 south, 3 west. -/
def stitched (pcol prow page : Nat) : BitVec 4 :=
  BitVec.ofNat 4 ((if 0 < page / pcol then 1 else 0) + (if page % pcol + 1 < pcol then 2 else 0)
    + (if page / pcol + 1 < prow then 4 else 0) + (if 0 < page % pcol then 8 else 0))

/-- A launch placed: pages, slots and reservation are taken together; where the region holds no copy, a load of its
own begins or one under way is joined (R39, R66). -/
def State.placeAt (s : State) (l : Nat) (c : Copy) (region cc0 cr0 : Nat) : State :=
  let x := s.launch l
  let g := saggarOf x
  let held := (s.region region).copies.find? fun d => d.binds x.ident g
  let s := s.modLaunch l fun y => { y with
    region := region, cc0 := cc0, cr0 := cr0, res := c.reserved, dda := bitAt c.used 3,
    regs := sumNat (c.kernels.map fun k => k.slots * (k.gcnt + k.qcnt)), room := if held.isSome then 0 else c.bytes }
  let s := (rectOf region cc0 cr0 c.pcol c.prow).zipIdx.foldl (fun s e => s.modCluster e.1 fun k =>
    { k with launch := some l, page := e.2, saggar := g, armed := false, seams := stitched c.pcol c.prow e.2 }) s
  let s := ({ s with kilnReserved := s.kilnReserved + c.reserved } : State).bindSlots l region c
  match held with
  | some d => (s.modLaunch l fun y => { y with gen := d.gen, stage := .placed }).startArming l
  | none =>
    match s.loads.find? fun d => !d.phase && !d.fresh && d.region == region && d.ident == x.ident
        && (c.saggar.isNone || saggarOf (s.launch d.launch) == g) with
    | some d => s.modLaunch l fun y => { y with stage := .waiting, load := some d.id }
    | none =>
      let (id, s) := s.nextSerial
      let d : Load := { id := id, region := region, ident := x.ident, va := x.objVa, len := x.objLen, launch := l, fresh := false }
      ({ s with loads := s.loads ++ [d] } : State).modLaunch l fun y => { y with stage := .waiting, load := some id }

/-- PLACEMENT: the head launch chosen under R73 is placed, or refused. -/
def execPlacement (s : State) : Res :=
  match s.nextHead with
  | none => .next s
  | some l => match s.placeAct l with
    | .wait => .next s
    | .refuse c => .next (s.refuse l c)
    | .reload => .next (s.wakeLoader l)
    | .place r cc cr => match s.shapeOf l with
      | some c => .next (s.placeAt l c r cc cr)
      | none => .next s

/-! ## Moves (R79 to R81) -/

/-- Head launches that wait for room alone. -/
def State.crowded (s : State) : List (Nat × Copy) :=
  ((List.range 16).filterMap fun p => (s.port p).queue.head?).filterMap fun l =>
    let x := s.launch l
    if s.isHead l && x.units != 0 && x.argChecked && x.load.isNone then
      match s.shapeOf l with
      | some c =>
        if (s.findPlace l c).isNone && decide (s.kilnReserved + s.kilnBase.toNat + c.reserved ≤ s.budget) then some (l, c) else none
      | none => none
    else none

/-- The state with a page set on another rectangle, as far as the allocator's search reads it. -/
def State.asMoved (s : State) (l cc0 cr0 : Nat) : State :=
  let x := s.launch l
  let c := s.copyOf l
  let s := (rectOf x.region x.cc0 x.cr0 c.pcol c.prow).foldl (fun s cl => s.modCluster cl fun k => { k with launch := none }) s
  (rectOf x.region cc0 cr0 c.pcol c.prow).foldl (fun s cl => s.modCluster cl fun k => { k with launch := some l }) s

/-- Whether a page set may move to an origin at all (R79). The whole new rectangle is free, so it shares no cluster with
the old one, and a milestone bars a move until M + H: log entry 33. -/
def State.mayMove (s : State) (l cc0 cr0 : Nat) : Bool :=
  let x := s.launch l
  let c := s.copyOf l
  x.stage == .running && x.moving.isNone && !x.halted && !x.terminated && field (s.region x.region).preempt 57 56 == 0
    && !(s.launches.any fun e => e.2.region == x.region && (e.2.stage == .running) && (e.2.mpend || e.2.oldGen.isSome))
    && x.mload.isNone && x.shadow.isNone && relFits { x with cc0 := cc0, cr0 := cr0 } c
    && decide (cc0 + c.pcol ≤ 7 ∧ cr0 + c.prow ≤ 4) && (rectOf x.region cc0 cr0 c.pcol c.prow).all s.freeCluster

/-- Whether the page sets, each moved once in some order, make room in their region for a waiting head launch; `fuel` is
their number. -/
def State.roomAfter (heads : List (Nat × Copy)) (region : Nat) : (fuel : Nat) → State → List Nat → Bool
  | 0, s, _ => heads.any fun h => (s.regionTakes h.1 h.2 region).isSome
  | n + 1, s, ls => ls.any fun l =>
    let c := s.copyOf l
    (originsOf c.pcol c.prow).any fun o => s.mayMove l o.1 o.2 && roomAfter heads region n (s.asMoved l o.1 o.2) (ls.erase l)

/-- Sublists of k members, those with earlier members first. -/
def choose (k : Nat) : List Nat → List (List Nat)
  | [] => if k = 0 then [[]] else []
  | x :: xs => if k = 0 then [[]] else (choose (k - 1) xs).map (x :: ·) ++ choose k xs

/-- Running launches of a region, latest arming first (R79). -/
def State.moveOrder (s : State) (region : Nat) : List Nat :=
  let mine := s.launches.filter fun e => e.2.stage == .running && e.2.region == region
  ((sortNat (mine.map (·.2.armAt))).eraseDups.reverse).flatMap fun t => (mine.filter (·.2.armAt == t)).map (·.1)

/-- The page sets that the allocator moves (R79): the fewest that make room for a waiting head launch, those of the lowest
region index and the latest arming first; with the region. A region has eight slots, so at most eight launches. -/
def State.moveChoice (s : State) : Option (Nat × List Nat) :=
  (List.range 8).findSome? fun k => (List.range 48).findSome? fun r =>
    ((choose (k + 1) (s.moveOrder r)).find? fun ls => State.roomAfter s.crowded r (k + 1) s ls).map fun ls => (r, ls)

/-- Whether the allocator may start this move (R79): it is one of those that it makes, and the others still make room
after it. No other page set is on the move. -/
def State.moveAllowed (s : State) (l cc0 cr0 : Nat) : Bool :=
  !(s.crowded.isEmpty || s.launches.any fun e => e.2.moving.isSome || e.2.moveBy.isSome) && s.mayMove l cc0 cr0
    && (match s.moveChoice with
      | some (r, ls) => ls.contains l && State.roomAfter s.crowded r (ls.length - 1) (s.asMoved l cc0 cr0) (ls.erase l)
      | none => false)

/-- The boundary of R80: no window of the launch is open, and none of its handles is filling or draining. -/
def State.quiet (s : State) (l : Nat) : Bool :=
  !s.openWindows l && (List.range 64).all fun h =>
    let y := s.handle (s.launch l).region h
    y.owner != l || (y.st != .filling && y.st != .draining)

/-- Cycles for which a move waits for its boundary: 64 µs (R80). -/
def moveWait : Nat := 128000

/-- The limits of a launch's held channel beats. -/
def State.holdDue (s : State) (l : Nat) (d : Due) : Bool :=
  match d.act with
  | .inl (.recvHoldExpiry b) => s.beats.any fun x => x.id == b && x.launch == l
  | _ => false

/-- They stand still for the hold of a move, and run on after it: the hold changes no value (R80). -/
def State.stopHolds (s : State) (l : Nat) : State :=
  { s with frozen := s.frozen ++ s.agenda.filter (s.holdDue l), agenda := s.agenda.filter fun d => !s.holdDue l d }
def State.runHolds (s : State) (l : Nat) : State :=
  let n := s.cycle - (s.launch l).movedAt
  { s with agenda := s.agenda ++ (s.frozen.filter (s.holdDue l)).map (fun d => { d with at_ := d.at_ + n }),
           frozen := s.frozen.filter fun d => !s.holdDue l d }

/-- The hold of a move, and its copy to the new rectangle begun. -/
def State.startMove (s : State) (l cc0 cr0 : Nat) : State :=
  let x := s.launch l
  let c := s.copyOf l
  let s := (rectOf x.region cc0 cr0 c.pcol c.prow).foldl (fun s cl => s.modCluster cl fun k =>
    { k with launch := some l, saggar := saggarOf x, armed := false }) s
  let s := (s.slotKeys l).foldl (fun s k => s.modSlot k fun sl => { sl with moved := true }) s
  (s.stopHolds l).modLaunch l fun y => { y with moving := some (cc0, cr0), movedAt := s.cycle, moveBy := none }

/-- MOVE (R80): every slot of the launch is held at the next wheel-turn boundary at which it is quiet. The allocator looks
at each boundary for 64 µs, then abandons the move. -/
def execMove (l cc0 cr0 : Nat) (s : State) : Res :=
  let x := s.launch l
  let again (s : State) : State := s.dueOp (s.cycle + 8 - s.cycle % 8) 9 none (.move l cc0 cr0)
  match x.moveBy with
  | some last =>
    if x.moving.isSome then .next s
    else if !s.mayMove l cc0 cr0 ∨ last < s.cycle then .next ((s.modLaunch l fun y => { y with moveBy := none }).report 29 x.region 0)
    else .next (if s.cycle % 8 = 0 && s.quiet l then s.startMove l cc0 cr0 else again s)
  | none =>
    if !s.moveAllowed l cc0 cr0 then .next s
    else if s.cycle % 8 = 0 && s.quiet l then .next (s.startMove l cc0 cr0)
    else .next (again (s.modLaunch l fun y => { y with moveBy := some (s.cycle + moveWait) }))

/-- The clusters of a move's new rectangle given back. -/
def State.dropMove (s : State) (l : Nat) : State :=
  let x := s.launch l
  let c := s.copyOf l
  match x.moving with
  | none => s
  | some (cc, cr) =>
    let s := (rectOf x.region cc cr c.pcol c.prow).foldl (fun s cl => s.modCluster cl fun k =>
      { k with launch := none, saggar := 0xFFF, armed := false }) s
    let s := (s.slotKeys l).foldl (fun s k => s.modSlot k fun sl => { sl with moved := false }) s
    (s.runHolds l).modLaunch l fun y => { y with moving := none }

/-- A move, begun or waiting for its boundary, abandoned and reported: the launch stays on its old pages. -/
def State.abortMove (s : State) (l : Nat) : State :=
  let s := (s.dropMove l).modLaunch l fun y => { y with moveBy := none }
  let mine (d : Due) : Bool := match d.act with | .inl (.move m ..) => m == l | _ => false
  ({ s with agenda := s.agenda.filter fun d => !mine d } : State).report 29 (s.launch l).region 0

/-- MOVE_ABORT (R80, R81, R321). -/
def execMoveAbort (l : Nat) (s : State) : Res :=
  let x := s.launch l
  if x.moving.isNone ∧ x.moveBy.isNone then .next s else .next (s.abortMove l)

/-- What a page's cluster holds of its launch, on another cluster (R80): the fence, the voters and the power gate stay
with the cluster. -/
def Cluster.carry (old new : Cluster) : Cluster :=
  { old with
    gated := new.gated, wakeAt := new.wakeAt, fence0 := new.fence0, fence1 := new.fence1,
    reason := new.reason, voters := new.voters, told := new.told, votes := new.votes, beatAt := new.beatAt, missed := new.missed,
    fencedAt := new.fencedAt,
    scrubAt := new.scrubAt }

/-- An address of an element or cluster on the new rectangle. -/
def movedElem (ps : List (Nat × Nat)) (e : Nat) : Nat :=
  match ps.find? (·.1 == e / 16) with
  | some (_, n) => 16 * n + e % 16
  | none => e

/-- A stored word of a page on its new cluster. -/
def movedEcc (ps : List (Nat × Nat)) : EccAt → EccAt
  | .reg e k => .reg (movedElem ps e) k
  | .res e i => .res (movedElem ps e) i
  | .mask e m => .mask (movedElem ps e) m
  | .lut e k => .lut (movedElem ps e) k
  | .tile c k => .tile (movedElem ps (16 * c) / 16) k
  | .wbuf c k => .wbuf (movedElem ps (16 * c) / 16) k
  | .feed c => .feed (movedElem ps (16 * c) / 16)
  | e => e

/-- An entry of the agenda that names an element or a cluster of a page, on its new place. -/
def movedDue (ps : List (Nat × Nat)) (d : Due) : Due :=
  match d.act with
  | .inl (.matrixStep k) => { d with act := .inl (.matrixStep (movedElem ps (16 * k) / 16)) }
  | .inl (.writeBackRead e) => { d with act := .inl (.writeBackRead (movedElem ps e)) }
  | .inl (.windowClose e n) => { d with act := .inl (.windowClose (movedElem ps e) n) }
  | .inr (.merge k e g n b) => { d with act := .inr (.merge k (movedElem ps e) g n b) }
  | .inr (.mend es) => { d with act := .inr (.mend (es.map (movedEcc ps))) }
  | _ => d

/-- A slot of a launch that has moved: its hold clears, and what it names by element is on the new rectangle. -/
def movedSlot (ps : List (Nat × Nat)) (sl : Slot) : Slot :=
  let path (p : Nat × Nat) : Nat × Nat := (256 * movedElem ps (p.1 / 256) + p.1 % 256, p.2)
  { sl with
    moved := false, paths := putAll [] (sl.paths.map path), waymarks := sl.waymarks.map fun p => 256 * movedElem ps (p / 256) + p % 256
    failed := sl.failed.map path, late := sl.late.map fun w => { w with elem := movedElem ps w.elem } }

/-- The watch sets of a launch that has moved: members are keyed 256 × element + site. -/
def movedWatches (ps : List (Nat × Nat)) (m : Map (List Watch)) : Map (List Watch) :=
  m.map fun (g : Nat × List Watch) => (g.1, g.2.map fun w =>
    { w with members := w.members.map fun x => (256 * movedElem ps (x.1 / 256) + x.1 % 256, x.2) })

/-- MOVE_DONE (R80, R82): the pages' storage stands on the new clusters, the seams of the new rectangle are stitched,
kind-0 relocations are applied again, and the old pages are free. Beats that left before the hold reach their last column
first. -/
def execMoveDone (l : Nat) (s : State) : Res :=
  let x := s.launch l
  match (if s.flights.any (·.launch == l) then none else x.moving) with
  | none => .next s
  | some (cc, cr) =>
    let c := s.copyOf l
    let ps := (rectOf x.region x.cc0 x.cr0 c.pcol c.prow).zip (rectOf x.region cc cr c.pcol c.prow)
    let old := s
    let s := ps.foldl (fun s p =>
      let k := old.cluster p.1
      let s := s.setCluster p.2 (k.carry (old.cluster p.2))
      let s := (List.range 16).foldl (fun s e => s.setElem (16 * p.2 + e) (old.elem (16 * p.1 + e))) s
      let s := (List.range 16).foldl (fun s e => s.modElem (16 * p.1 + e) fun x => { x with landing := [], tag := none, tagOld := none }) s
      s.modCluster p.1 fun k => { k with launch := none, saggar := 0xFFF, armed := false, seams := 0 }) s
    let s := { s with
      agenda := s.agenda.map (movedDue ps), accs := s.accs.map fun (a : Access) => { a with elem := movedElem ps a.elem }
      refused := s.refused.map fun (x : RefusedTag) => { x with elem := movedElem ps x.elem }
      beats := s.beats.map fun (b : ChanBeat) => { b with src := movedElem ps b.src, dst := movedElem ps b.dst }
      ecc := s.ecc.map fun (e : EccAt × EccState) => (movedEcc ps e.1, e.2) }
    let s := (s.runHolds l).modLaunch l fun y =>
      { y with cc0 := cc, cr0 := cr, moving := none, watches := movedWatches ps y.watches }
    let s := (s.slotKeys l).foldl (fun (s : State) k => s.modSlot k (movedSlot ps)) s
    .next ((s.relocStore l).relocBanks l)

end Sys2Proof.Machine
end

