-- ==== Sys2Proof/Machine/Kiln.lean ====
section
/-! DEFINITION. The kiln at the end of a firing window (05 R87, R89, 23 R346, R347). -/

namespace Sys2Proof.Machine

/-- Cycles of a firing window (R87). -/
def firingWindow : Nat := 200000

/-- n of R89 for what was drawn against what was allowed. -/
def overOf (m res : Nat) : Nat := Nat.min 15 (ceilDiv (16 * (m - res)) m)

/-- Turns held of every 16 of a launch that drew `m` against `res`: none unless it drew more by more than a sixteenth. -/
def gateOf (m res : Nat) : Nat := if res < 16 * (m - res) then overOf m res else 0

/-- A launch's share of the window that ends (R347): the energy of its counted operations, scaled by the ratio of sensed to
counted energy, in whole µJ. -/
def State.energyShare (s : State) (l sensed : Nat) : Nat :=
  if s.counted = 0 then 0 else ceilDiv ((s.launch l).drawn * sensed) s.counted

/-- Launches whose account is open: armed and not retired. -/
def State.drawing (s : State) : List Nat :=
  (s.launches.filter fun e => e.2.armed && e.2.stage != .retired).map (·.1)

/-- Whether a launch's slots were gated in the window that ends. -/
def State.gated (s : State) (l : Nat) : Bool := (s.slotKeys l).all fun k => (s.slot k).gate != 0

/-- A launch's account brought to the window's end, and its gate for the next one (log entry 18). -/
def State.reconcile (s : State) (l m exceeds : Nat) : State :=
  let n := Nat.max (gateOf m (s.launch l).res) exceeds
  let s := s.modLaunch l fun x => { x with energy := x.energy + m, windows := x.windows + 1, drawn := 0 }
  (s.slotKeys l).foldl (fun s k => s.modSlot k fun sl => { sl with gate := n }) s

/-- KILN_RECONCILE (R89, R347): at the end of a firing window, with the compute dies' sensed energy and the module's total. When
the total exceeds BUDGET, every launch is gated by the same formula, from the first such window on: what it drew against its
part of BUDGET, in the ratio of the total to BUDGET (log entry 18). -/
def execKilnReconcile (sensed total : Nat) (s : State) : Res :=
  if (s.cycle + 1) % firingWindow ≠ 0 then .next s
  else
    let exceeds := if s.budget < total then overOf total s.budget else 0
    let ls := s.drawing
    let s := if s.budget < total && ls.all s.gated then s.report 121 0 0 else s
    let s := ls.foldl (fun s l => s.reconcile l (s.energyShare l sensed) exceeds) s
    let w := (field s.kilnWindow 63 32 + 1) % 2 ^ 32 * 2 ^ 32 + stopAt (2 ^ 20 - 1) total
    .next { s with kilnWindow := BitVec.ofNat 64 w, counted := 0 }

/-- KILN_BUDGET_WRITE (R87): a value above 380,000 stores 380,000. -/
def execKilnBudgetWrite (v : BitVec 32) (s : State) : Res :=
  .next { s with kilnBudget := BitVec.ofNat 20 (Nat.min 380000 (field v 19 0)) }

end Sys2Proof.Machine
end

