-- ==== Sys2Proof/Machine/Milestone.lean ====
section
/-! DEFINITION. Phase images and milestones (07 R129 to R131, 20 R325). -/

namespace Sys2Proof.Machine

/-! ## The load of a phase image (R129) -/

/-- STATE 3 with a cause: the image is not loaded. -/
def State.mloadFail (s : State) (l cause : Nat) : State :=
  (s.dropShadow l).modLaunch l fun x => (x.setMstate 3).setMcause cause

/-- Whether an image has the active configuration's shape (R129); register counts are compared as R31 rounds them: log entry 59. -/
def sameShape (o : Obj) (c : Copy) : Bool :=
  o.pcol == c.pcol && o.prow == c.prow && o.quad == c.quad && o.nkern == c.kernels.length
    && (o.kernels.zip c.kernels).all fun k => k.1.slots == k.2.slots && k.1.gcnt == k.2.gcnt && k.1.qcnt == k.2.qcnt

/-- Bytes of one 64 KiB page at an offset of space 0x00 under a saggar: none at a translation fault, outside memory, or
where they are uncorrectable (R129). -/
def State.readPart (s : State) (g : BitVec 12) (va n : Nat) : Option (List Byte) :=
  match s.xlatPlain g 0 va false with
  | .pa a => if (inHbm a n || inSlices a n) && !s.memBad a n then some (s.nodeRead a n) else none
  | _ => none

/-- Bytes at an offset of space 0x00, page by page. -/
def State.readVa (s : State) (g : BitVec 12) (va n : Nat) : Option (List Byte) :=
  (List.range ((va + n + 65535) / 65536 - va / 65536)).foldl (fun b i =>
    let lo := Nat.max va (65536 * (va / 65536 + i))
    let hi := Nat.min (va + n) (65536 * (va / 65536 + i + 1))
    match b, s.readPart g lo (hi - lo) with
    | some b, some c => some (b ++ c)
    | _, _ => none) (some [])

/-- The bytes of the phase image at an offset. No register holds its length: it ends where the last of its directory's
sections ends (log entry 59). -/
def State.imageAt (s : State) (g : BitVec 12) (va : Nat) : Option (List Byte) :=
  match s.readVa g va 64 with
  | none => none
  | some h =>
    let n := 64 + 16 * nfield (bytesAt h 0 64) 180 176
    match s.readVa g va n with
    | none => none
    | some d => s.readVa g va (maxNat (n :: (objOf d).dirs.map fun e => e.off + e.len))

/-- MLOAD_DONE: the load of a launch's phase image ends (R129, R325); `cfg` is a page that reads back uncorrectable. -/
def execMloadDone (l : Nat) (cfg : Option Nat) (s : State) : Res :=
  let x := s.launch l
  match s.loads.find? fun d => x.mload == some d.id with
  | none => .next s
  | some d =>
    if x.mstate ≠ 1 then .next s
    else match s.imageAt (saggarOf x) d.va.toNat with
      | none => .next ((s.addReport { region := x.region, refused := some { cause := 13 } }).mloadFail l 13)
      | some b =>
        let o := objOf b
        let ident := BitVec.ofNat 128 o.ident
        let res' := reservation o.epi o.pages o.kernels
        let more := firstOf
          [ need (hdrAt 208 199) (sameShape o (s.copyOf l)),
            need { cause := 7, hi := 255, lo := 224 } (decide (s.kilnReserved - x.res + res' + s.kilnBase.toNat ≤ s.budget)) ]
        let refuse (c : Blame) : Res := .next ((s.addReport (o.report x.region 0 (some c))).mloadFail l c.cause)
        match s.loadInto o x.region ident (saggarOf x) cfg more with
        | .error c => refuse c
        | .ok none => refuse { cause := 6 }
        | .ok (some (s', gen)) =>
          let c := s'.copy x.region gen
          if !relFits x c then refuse (recAt 0 7 0 63 0)
          else
            let twin := (s.region x.region).copies.any fun e => e.binds ident (saggarOf x)
            let s := (s'.addReport (o.report x.region gen none)).modRegion x.region fun g =>
              { g with copies := g.copies.map fun e => if e.gen = gen then { e with bindable := !twin } else e }
            let s := ({ s with loads := s.loads.filter fun e => e.id != d.id } : State).relocCopy x c
            .next (s.modLaunch l fun y => ({ y with mload := none, shadow := some gen } : Launch).setMstate 2)

/-! ## Commit (R130, R325) -/

/-- A milestone cancelled with LAST 2, reported (R313, cause 93). -/
def State.cancelReport (s : State) (l unit : Nat) : State :=
  let s := s.modLaunch l fun x => ({ x with committed := false } : Launch).setMpend false |>.setMlast 2
  s.report 93 unit (s.launch l).mstat.toNat

/-- MILESTONE_COMMIT: cycle M − 256. -/
def execMilestoneCommit (l : Nat) (s : State) : Res :=
  let x := s.launch l
  if !x.mpend ∨ x.committed ∨ x.milestone.toNat ≠ s.cycle + 256 then .next s
  else if x.mstate = 2 then
    let s := s.modLaunch l fun y => { y with committed := true, stretch := (s.region x.region).winstretch.toNat }
    .next (s.dueOp x.milestone.toNat 6 (some x.region) (.milestoneSwitch l))
  else .next (s.cancelReport l x.region)

/-- MILESTONE_CANCEL: a unit found an uncorrectable word of its shadow plane between commit and M − 8 (R325). -/
def execMilestoneCancel (l page : Nat) (s : State) : Res :=
  let x := s.launch l
  if !x.mpend ∨ !x.committed ∨ x.milestone.toNat < s.cycle + 8 then .next s
  else
    let s := s.cancelReport l (pageCluster x (s.copyOf l) page)
    .next (s.mloadFail l 12)

/-! ## Switch and release (R131) -/

/-- Live line issues of a loop or run not yet sent; a line mid-fold counts as sent. -/
def Issue.unsent (x : Issue) : Nat :=
  let from_ := x.line + (if x.beat = 0 then 0 else 1)
  match x.kind with
  | .idle => 0
  | .run => x.lines - from_
  | .loop => sumNat ((List.range x.lines).map fun j =>
      let g := loopStage x.desc j
      let i := if from_ ≤ j then x.iter else x.iter + 1
      x.n + g - Nat.max g i)

/-- The rest of the words that a switch finds mid-fold; an idle turn's line has none. -/
def Issue.midFold (x : Issue) (gen : Nat) : Issue :=
  if x.kind = .idle ∨ x.beat = 0 ∨ !x.live x.iter x.line then {}
  else
    let line := descLine0 x.desc + x.line
    { kind := .run, desc := BitVec.ofNat 64 (line * 2 ^ 48), beat := x.beat, startAt := x.startAt, started := true,
      serial := x.serial, old := some (x.old.getD gen) }

/-- A slot that goes over to the new plane: its issue and its wait are abandoned, and it leaves its handler. -/
def Slot.switch (sl : Slot) (gen now : Nat) : Slot :=
  if sl.ended then { sl with tvec := 0 }
  else
    { sl with
      pc := 0, tvec := 0, wait := .none, busy := now, waymarks := [], wayErr := false, failed := [], following := [],
      cur := if sl.active then {} else sl.cur.midFold gen,
      epc := if sl.active then 0 else sl.epc,
      cause := if sl.active then putField sl.cause 63 62 0 else sl.cause }

/-- Effects of the launch's control words when they are abandoned at a switch: a committed rendezvous word performs and
moves no PC. -/
def switchDue (keys : List Nat) (d : Due) : Due :=
  match d.act with
  | .inr (.rvInit k l w v _) => if keys.contains k then { d with act := .inr (.rvInit k l w v false) } else d
  | .inr (.rvArrive k l w ac _) => if keys.contains k then { d with act := .inr (.rvArrive k l w ac false) } else d
  | _ => d

def isTvec (keys : List Nat) (d : Due) : Bool :=
  match d.act with
  | .inr (.tvec k _) => keys.contains k
  | _ => false

/-- H of a configuration (R131). -/
def planeHold (c : Copy) (region stretch : Nat) : Nat :=
  27 + 8 * c.fmax + Config.longestRoute (c.gen * 48 + region) + 8 * (c.wmax + stretch)

/-- The tables of the old plane, which its beats still use. -/
def Elem.keepTables (e : Elem) : Elem := { e with oldTable := e.slotTable, oldLut := e.lut }

/-- The planes of a launch switched. -/
def State.switchPlanes (s : State) (l new : Nat) : State :=
  let x := s.launch l
  let old := s.copyOf l
  let c := s.copy x.region new
  let ks := s.slotKeys l
  let unsent := sumNat (ks.map fun k =>
    let sl := s.slot k
    if sl.ended then 0 else sl.cur.unsent + sumNat (sl.following.map Issue.unsent))
  let drop := stopAt 65535 unsent
  let s := { s with
    agenda := (ks.foldl (fun a k => dropWord k a) s.agenda).filter (fun d => !isTvec ks d) |>.map (switchDue ks),
    flights := s.flights.map fun (f : Flight) => if f.launch = l then { f with pos := { f.pos with old := some f.gen } } else f,
    kilnReserved := s.kilnReserved - x.res + c.reserved }
  let s := ks.foldl (fun s k => s.modSlot k fun sl => sl.switch old.gen s.cycle) s
  let s := s.modLaunch l fun y =>
    let y : Launch := { y with gen := new, shadow := none, oldGen := some old.gen, committed := false, res := c.reserved }
    let y := ((y.setMpend false).setMlast 1).setMstate 0
    { y with mstat := putField y.mstat 31 16 drop }
  let s := (s.clustersOf l).zipIdx.foldl (fun s p => ((List.range 16).foldl (fun (s : State) e =>
      s.modElem (16 * p.1 + e) Elem.keepTables) s).copyTables c p.2 p.1 |>.modCluster p.1 fun k => { k with accprot := c.accprot }) s
  s.dueOp (s.cycle + planeHold old x.region x.stretch) 6 (some x.region) (.planeRelease l)

/-- MILESTONE_SWITCH: cycle M. -/
def execMilestoneSwitch (l : Nat) (s : State) : Res :=
  let x := s.launch l
  if !x.mpend ∨ !x.committed ∨ x.milestone.toNat ≠ s.cycle then .next s
  else match x.shadow with
    | none => .next s
    | some g => .next (s.switchPlanes l g)

/-- Whether a beat or token of a plane is still in flight, a beat whose window is open among them (R131). -/
def State.planeBusy (s : State) (l gen : Nat) : Bool :=
  (s.elems.any fun e => e.2.landing.any fun w => w.2.isOpen && w.2.launch == l && w.2.gen == gen)
    || (s.flights.any fun f => f.launch == l && f.gen == gen) || s.beats.any fun b => b.launch == l && b.gen == gen && !b.held

/-- The pinned ranges of a copy that nothing refers to any more unpinned: no launch binds it from now on (log entry 60). -/
def State.unpin (s : State) (region gen : Nat) : State :=
  if (s.refs region).contains gen then s
  else s.modRegion region fun g => { g with copies := g.copies.map fun c =>
    if c.gen = gen && !c.pins.isEmpty then { c with pins := [], bindable := false } else c }

/-- PLANE_RELEASE: cycle M + H; the old plane's shadow planes become free and its pinned ranges are unpinned, and a beat or
token still in flight is `PLANE_DRAIN` (R313, cause 28). -/
def execPlaneRelease (l : Nat) (s : State) : Res :=
  match (s.launch l).oldGen with
  | none => .next s
  | some g =>
    let busy := s.planeBusy l g
    let s := (s.modLaunch l fun x => { x with oldGen := none }).unpin (s.launch l).region g
    .next (if busy then (s.slotKeys l).foldl (fun s k => s.raise k { num := 28, kind := 6 }) s else s)

end Sys2Proof.Machine
end

