-- ==== Sys2Proof/Machine/Sha.lean ====
section
/-! DEFINITION. SHA-384, and the verification of an ECDSA P-384 signature (24 R356 to R358, which name the two standards:
FIPS 180-4 and FIPS 186-5). -/

namespace Sys2Proof

/-! ## SHA-384 -/

def shaMod : Nat := 2 ^ 64
def rotr (x n : Nat) : Nat := (x >>> n ||| x <<< (64 - n)) % shaMod

/-- The round constants: the first 64 bits of the fractions of the cube roots of the first 80 primes. -/
def shaK0 : List Nat :=
  [0x428a2f98d728ae22, 0x7137449123ef65cd, 0xb5c0fbcfec4d3b2f, 0xe9b5dba58189dbbc,
   0x3956c25bf348b538, 0x59f111f1b605d019, 0x923f82a4af194f9b, 0xab1c5ed5da6d8118,
   0xd807aa98a3030242, 0x12835b0145706fbe, 0x243185be4ee4b28c, 0x550c7dc3d5ffb4e2,
   0x72be5d74f27b896f, 0x80deb1fe3b1696b1, 0x9bdc06a725c71235, 0xc19bf174cf692694,
   0xe49b69c19ef14ad2, 0xefbe4786384f25e3, 0x0fc19dc68b8cd5b5, 0x240ca1cc77ac9c65,
   0x2de92c6f592b0275, 0x4a7484aa6ea6e483, 0x5cb0a9dcbd41fbd4, 0x76f988da831153b5,
   0x983e5152ee66dfab, 0xa831c66d2db43210, 0xb00327c898fb213f, 0xbf597fc7beef0ee4,
   0xc6e00bf33da88fc2, 0xd5a79147930aa725, 0x06ca6351e003826f, 0x142929670a0e6e70,
   0x27b70a8546d22ffc, 0x2e1b21385c26c926, 0x4d2c6dfc5ac42aed, 0x53380d139d95b3df,
   0x650a73548baf63de, 0x766a0abb3c77b2a8, 0x81c2c92e47edaee6, 0x92722c851482353b]
def shaK1 : List Nat :=
  [0xa2bfe8a14cf10364, 0xa81a664bbc423001, 0xc24b8b70d0f89791, 0xc76c51a30654be30,
   0xd192e819d6ef5218, 0xd69906245565a910, 0xf40e35855771202a, 0x106aa07032bbd1b8,
   0x19a4c116b8d2d0c8, 0x1e376c085141ab53, 0x2748774cdf8eeb99, 0x34b0bcb5e19b48a8,
   0x391c0cb3c5c95a63, 0x4ed8aa4ae3418acb, 0x5b9cca4f7763e373, 0x682e6ff3d6b2b8a3,
   0x748f82ee5defb2fc, 0x78a5636f43172f60, 0x84c87814a1f0ab72, 0x8cc702081a6439ec,
   0x90befffa23631e28, 0xa4506cebde82bde9, 0xbef9a3f7b2c67915, 0xc67178f2e372532b,
   0xca273eceea26619c, 0xd186b8c721c0c207, 0xeada7dd6cde0eb1e, 0xf57d4f7fee6ed178,
   0x06f067aa72176fba, 0x0a637dc5a2c898a6, 0x113f9804bef90dae, 0x1b710b35131c471b,
   0x28db77f523047d84, 0x32caab7b40c72493, 0x3c9ebe0a15c9bebc, 0x431d67c49c100d4c,
   0x4cc5d4becb3e42b6, 0x597f299cfc657e2a, 0x5fcb6fab3ad6faec, 0x6c44198c4a475817]

/-- The initial hash value. -/
def shaH0 : List Nat :=
  [0xcbbb9d5dc1059ed8, 0x629a292a367cd507, 0x9159015a3070dd17, 0x152fecd8f70e5939,
   0x67332667ffc00b31, 0x8eb44a8768581511, 0xdb0c2e0d64f98fa7, 0x47b5481dbefa4fa4]

/-- The eight working words after some rounds; `w` holds the next 16 words of the message schedule. -/
def shaRounds : List Nat → List Nat → List Nat → List Nat
  | k :: ks, w, [a, b, c, d, e, f, g, h] =>
    let at_ (i : Nat) : Nat := w.getD i 0
    let t1 := h + (rotr e 14 ^^^ rotr e 18 ^^^ rotr e 41) + ((e &&& f) ^^^ ((shaMod - 1 - e) &&& g)) + k + at_ 0
    let t2 := (rotr a 28 ^^^ rotr a 34 ^^^ rotr a 39) + ((a &&& b) ^^^ (a &&& c) ^^^ (b &&& c))
    let s0 := rotr (at_ 1) 1 ^^^ rotr (at_ 1) 8 ^^^ at_ 1 >>> 7
    let s1 := rotr (at_ 14) 19 ^^^ rotr (at_ 14) 61 ^^^ at_ 14 >>> 6
    shaRounds ks (w.drop 1 ++ [(at_ 0 + s0 + at_ 9 + s1) % shaMod])
      [(t1 + t2) % shaMod, a, b, c, (d + t1) % shaMod, e, f, g]
  | _, _, h => h

/-- The number that big-endian bytes hold. -/
def natOfBig (b : List Byte) : Nat := natOfBytes b.reverse

/-- One block of 128 bytes. -/
def shaBlock (h : List Nat) (b : List Byte) : List Nat :=
  let w := (List.range 16).map fun i => natOfBig (slice b (8 * i) 8)
  (h.zip (shaRounds (shaK0 ++ shaK1) w h)).map fun p => (p.1 + p.2) % shaMod

def shaBlocks : Nat → List Nat → List Byte → List Nat
  | 0, h, _ => h
  | n + 1, h, b => shaBlocks n (shaBlock h (b.take 128)) (b.drop 128)

/-- The message with its padding: a one bit, zeros, and its length in bits as 16 bytes. -/
def shaPad (b : List Byte) : List Byte :=
  b ++ [0x80] ++ List.replicate ((239 - b.length % 128) % 128) 0 ++ (bytesOf (8 * b.length) 16).reverse

/-- The digest as a 48-byte register holds it: its first byte is the lowest. -/
def sha384 (b : List Byte) : BitVec 384 :=
  let m := shaPad b
  BitVec.ofNat 384 (natOfBytes (((shaBlocks (m.length / 128) shaH0 m).take 6).flatMap fun x => (bytesOf x 8).reverse))

/-! ## ECDSA over P-384 -/

def p384P : Nat := 2 ^ 384 - 2 ^ 128 - 2 ^ 96 + 2 ^ 32 - 1
def p384N : Nat := 0xffffffffffffffffffffffffffffffffffffffffffffffffc7634d81f4372ddf581a0db248b0a77aecec196accc52973
def p384B : Nat := 0xb3312fa7e23ee7e4988e056be3f82d19181d9c6efe8141120314088f5013875ac656398d8a2ed19d2a85c8edd3ec2aef
def p384G : Nat × Nat :=
  (0xaa87ca22be8b05378eb1c71ef320ad746e1d3b628ba79b9859f741e082542a385502f25dbf55296c3a545e3872760ab7,
   0x3617de4a96262c6f5d9e98bf9292dc29f8f41dbd289a147ce9da3113b5f0b8c00a60b1ce1d7e819d7a431d7c90ea0e5f)

/-- x to the power e modulo m, over the lowest `n` bits of e. -/
def powMod (m : Nat) : Nat → Nat → Nat → Nat
  | 0, _, _ => 1
  | n + 1, x, e => (if e % 2 = 1 then x else 1) * powMod m n (x * x % m) (e / 2) % m

/-- The inverse modulo a prime below 2^384. -/
def invMod (m x : Nat) : Nat := powMod m 384 (x % m) (m - 2)

/-- The sum of two points; none is the point at infinity. -/
def ecAdd : Option (Nat × Nat) → Option (Nat × Nat) → Option (Nat × Nat)
  | none, q => q
  | p, none => p
  | some (x1, y1), some (x2, y2) =>
    let m := p384P
    if x1 = x2 ∧ (y1 + y2) % m = 0 then none
    else
      let l := if x1 = x2 then (3 * x1 * x1 + (m - 3)) * invMod m (2 * y1) % m
               else (y2 + (m - y1)) * invMod m (x2 + (m - x1)) % m
      let x := (l * l + (m - x1) + (m - x2)) % m
      some (x, (l * (x1 + (m - x)) + (m - y1)) % m)

/-- A multiple of a point, over the lowest `n` bits of k. -/
def ecMul : Nat → Nat → Option (Nat × Nat) → Option (Nat × Nat)
  | 0, _, _ => none
  | n + 1, k, p => ecAdd (if k % 2 = 1 then p else none) (ecMul n (k / 2) (ecAdd p p))

/-- Whether a point with coordinates below p lies on the curve. -/
def onCurve (q : Nat × Nat) : Bool :=
  q.1 < p384P && q.2 < p384P && (q.2 * q.2) % p384P == (q.1 * q.1 * q.1 + (p384P - 3) * q.1 + p384B) % p384P

/-- Whether (r, s) is a signature of the digest under the public key q. -/
def ecdsaVerify (q : Nat × Nat) (digest : BitVec 384) (r s : Nat) : Bool :=
  let z := natOfBig (bytesOf digest.toNat 48)
  let w := invMod p384N s
  onCurve q && 0 < r && r < p384N && 0 < s && s < p384N
    && match ecAdd (ecMul 384 (z * w % p384N) (some p384G)) (ecMul 384 (r * w % p384N) (some q)) with
       | none => false
       | some (x, _) => x % p384N == r

end Sys2Proof
end

