-- ==== Sys2Proof/Machine/Module.lean ====
section
/-! DEFINITION. Firmware, trust, module limits, the debug path and module reset (06 R107, 20 R313, 24 R356 to R359). -/

namespace Sys2Proof.Machine

/-! ## Trust (R356 to R358) -/

/-- M := SHA-384(M ‖ d). -/
def State.extend (s : State) (j : Nat) (d : BitVec 384) : State :=
  let m := look 0 s.trustMeas j
  { s with trustMeas := put s.trustMeas j (sha384 (bytesOf m.toNat 48 ++ bytesOf d.toNat 48)) }

/-- Whether the ROM starts an image (R356): the key has the digest fused into the root of trust, and it signed the image's
digest. -/
def bootOk (image : List Byte) (w : Signed) : Bool :=
  let half (b : List Byte) (i : Nat) : Nat := natOfBig (Sys2Proof.slice b (48 * i) 48)
  sha384 w.key == Config.vendorKeyDigest && ecdsaVerify (half w.key 0, half w.key 1) (sha384 image) (half w.sig 0) (half w.sig 1)

/-- FIRMWARE_BOOT: an image in the one slot, first or updated in place. The ROM extends registers 0 and 1, and starts a valid
image, whose settings extend register 2; an invalid one leaves the device in ROM recovery. -/
def execFirmwareBoot (image : List Byte) (signed : Signed) (settings : BitVec 384) (s : State) : Res :=
  let s := (({ s with fwImage := image } : State).extend 0 Config.romDigest).extend 1 (sha384 image)
  .next (if bootOk image signed then { s.extend 2 settings with fwRunning := true, fwVersion := Config.imageVersion image }
         else ({ s with fwRunning := false } : State).report 124 0 0)

/-- TRUST_EXTEND: registers 4 to 7 alone. -/
def execTrustExtend (j : BitVec 8) (d : BitVec 384) (s : State) : Res :=
  .next (if 4 ≤ j.toNat ∧ j.toNat ≤ 7 then s.extend j.toNat d else s)

/-- TRUST_ATTEST: a report follows within 10 ms; a second request before it replaces the nonce. -/
def execTrustAttest (s : State) : Res :=
  let s := { s with attestNonce := s.trustNonce }
  if s.trustAttest = 1 then .next s
  else
    let (id, s) := s.nextSerial
    .next (({ s with trustAttest := 1 } : State).dueOp (s.cycle + 1 + Config.attestCycles id % 20000000) 4 none .attestReport)

/-- The report without its signature. -/
def State.attestBody (s : State) : List Byte :=
  bytesOf s.attestNonce.toNat 32 ++ (List.range 8).flatMap (fun j => bytesOf (look 0 s.trustMeas j).toNat 48)
    ++ bytesOf Config.serial.toNat 8 ++ bytesOf s.fwVersion.toNat 8

/-- The signature by the device identity key (R358): r, then s. -/
def identitySign (d : BitVec 384) : List Byte :=
  let k := 1 + Config.signNumber d % (p384N - 1)
  let r := match ecMul 384 k (some p384G) with | some (x, _) => x % p384N | none => 0
  let s := invMod p384N k * (natOfBig (bytesOf d.toNat 48) + r * Config.identityKey) % p384N
  (bytesOf r 48).reverse ++ (bytesOf s 48).reverse

/-- ATTEST_REPORT. -/
def execAttestReport (s : State) : Res :=
  if s.trustAttest ≠ 1 then .next s
  else
    let b := s.attestBody
    .next { s with trustReport := b ++ identitySign (sha384 b), trustAttest := 2 }

/-! ## Limits (R359) -/

/-- THERMAL: a die past 105 °C halves BUDGET for the kiln. -/
def execThermal (w : Hot) (s : State) : Res :=
  match w with
  | .inlet => .next (s.report 122 0 0)
  | .flow => .next (s.report 122 1 0)
  | .die n => .next (({ s with hot := true } : State).report 122 n.val 0)

/-- THERMAL_RECOVERY: every die is 5 °C below its limit. -/
def execThermalRecovery (s : State) : Res := .next { s with hot := false }

/-- DIE_OVERHEAT: `FATAL` ends every launch, and the compute dies power off. -/
def execDieOverheat (die : Fin 8) (s : State) : Res :=
  let _ := die
  let s := s.launches.foldl (fun s e => s.endLaunch e.1 127 0) s
  .next { s with off := true }

/-- POWER_FAULT (R313, cause 123). -/
def execPowerFault (supply : Nat) (s : State) : Res := .next (s.report 123 supply 0)

/-- MGMT_WATCHDOG (R313, cause 125): the management core restarts. -/
def execMgmtWatchdog (s : State) : Res := .next (s.report 125 0 0)

/-! ## Debug and reset (R107, R304) -/

def storeBytes : Nat := 0x200000

/-- DEBUG_WRITE: bytes of a schedule store written unverified, and reported. -/
def execDebugWrite (region addr : Nat) (bytes : List Byte) (s : State) : Res :=
  let es := (bytes.mapIdx fun i b => (addr + i, b)).filter fun e => decide (e.1 < storeBytes)
  let s := s.eccClear (es.map fun e => .sched region e.1)
  .next ((s.modRegion region fun g => { g with store := putAll g.store es }).report 126 region addr)

/-- Whether a bit error stands in memory, which a module reset leaves as it is. -/
def memEcc : EccAt → Bool
  | .slice _ _ | .hbm _ => true
  | _ => false

/-- MODULE_RESET: every register, counter, generation and full/empty bit as at reset; the bytes of memory stay. -/
def execModuleReset (s : State) : Res :=
  .next { State.reset with mem := s.mem, ecc := s.ecc.filter (fun e => memEcc e.1), fresh := s.fresh, serial := s.serial,
                           outbox := s.outbox }

end Sys2Proof.Machine
end

