-- ==== Sys2Proof/Machine/Resume.lean ====
section
/-! DEFINITION. How waits end and causes are delivered (16 R279 to R281, 17 R288 to R297, 20 R306 to R312). -/

namespace Sys2Proof.Machine

/-! ## Ends of waits -/

/-- RVWAIT_RESUME (R289): WC rises and the slot goes on. -/
def execRvwaitResume (key : Nat) (s : State) : Res :=
  let sl := s.slot key
  match sl.wait with
  | .rv w (some t) =>
    if s.cycle < t then .next s
    else .next (s.setSlot key { sl.pcNext with wait := .none, wc := put sl.wc w (look 0 sl.wc w + 1) })
  | _ => .next s

/-- HWAIT_RESUME (R294): a handle with ERR set traps, and so does one that another launch owns by now (R242). -/
def execHwaitResume (key : Nat) (s : State) : Res :=
  let sl := s.slot key
  match sl.wait with
  | .handle h (some t) =>
    let x := s.handle (key / 8) h
    if s.cycle < t then .next s
    else if x.st ≠ .free ∧ x.owner ≠ sl.launch then .next (s.raiseNow key { num := 83, kind := 0, code := h })
    else if x.err then .next (s.raiseNow key { num := 84, kind := 0, code := h })
    else .next (s.setSlot key { sl.pcNext with wait := .none })
  | _ => .next s

/-- FENCE_RESUME (R279, R280): an acknowledgement that was marked traps at the word. -/
def execFenceResume (key : Nat) (s : State) : Res :=
  let sl := s.slot key
  match sl.wait with
  | .fence scope since =>
    if !s.fenceDone key scope since then .next s
    else if sl.wayErr then .next ((s.setSlot key { sl with wayErr := false }).raiseNow key { num := 36, kind := 0 })
    else .next (s.setSlot key { sl.pcNext with wait := .none })
  | _ => .next s

/-- Whether every slot of a launch that has not ended waits at one `csync`, and which mask it names (R297). -/
def State.csyncMask (s : State) (l : Nat) : Option Word :=
  let ms := (s.slotKeys l).filterMap fun k => if (s.slot k).ended then none else match (s.slot k).wait with
    | .csync m _ => some (some m)
    | _ => some none
  match ms with
  | some m :: rest => if rest.all (· == some m) then some m else none
  | _ => none

/-- Whether a channel beat sent from or to a named page is in flight or held (R297). -/
def State.channelsBusy (s : State) (l : Nat) (m : Word) : Bool :=
  let on (e : Nat) : Bool := m == 0 || m.getLsbD (s.cluster (e / 16)).page
  s.beats.any fun b => b.launch == l && (on b.src || on b.dst)

/-- Whether a `csync` is released now. -/
def State.mayCsync (s : State) (l : Nat) : Bool :=
  (s.launch l).stage == .running && !(s.launch l).halted && !((s.slotKeys l).any fun k => (s.slot k).held && !(s.slot k).ended)
    && (match s.csyncMask l with | some m => !s.channelsBusy l m | none => false)

/-- CSYNC_RELEASE: each slot goes on at its first turn at or after tc + 4 (R297). -/
def execCsyncRelease (l : Nat) (s : State) : Res :=
  if !s.mayCsync l then .next s
  else .next ((s.slotKeys l).foldl (fun s k => s.modSlot k fun sl =>
    if sl.ended then sl else { sl.pcNext with wait := .none, busy := s.cycle + 4 }) s)

/-- CSYNC_STALL (R313, cause 95): a `csync` has waited 2^32 cycles beside a held slot. -/
def execCsyncStall (l : Nat) (s : State) : Res :=
  let stuck := (s.slotKeys l).any fun k => match (s.slot k).wait with
    | .csync _ since => decide (since + 2 ^ 32 ≤ s.cycle)
    | _ => false
  let held := (s.slotKeys l).any fun k => (s.slot k).held
  .next (if stuck && held then s.report 95 (s.launch l).region 0 else s)

/-- SEQUENCER_WAKE (R293). -/
def execSequencerWake (region : Nat) (s : State) : Res := .next (s.modRegion region fun g => { g with gatedSeq := false })

/-- Whether a slot's wait has been satisfied for 256 cycles. -/
def Slot.overdue (sl : Slot) (now : Nat) : Bool :=
  match sl.wait with
  | .rv _ (some t) | .handle _ (some t) => decide (t + 248 ≤ now)
  | _ => false

/-- WAKE_LATE (R313, cause 94): a gated sequencer not awake 256 cycles after a signal. -/
def execWakeLate (region : Nat) (s : State) : Res :=
  let late := (s.region region).gatedSeq && (List.range 8).any fun i => (s.slot (slotKey region i)).overdue s.cycle
  .next (if late then s.report 94 region 0 else s)

/-- The answer of a shared point in another region's slice (R291). -/
def State.answered (s : State) (key w : Nat) (op : RvOp) : State :=
  let done (r : State × Option Nat) : State :=
    (s.rvOutcome key w true r).modSlot key fun sl => { sl with wait := .none }
  match op with
  | .arrive => done (s.arrivePoint key w)
  | .query =>
    let sl := s.slot key
    let g := s.target sl.launch w
    if !s.pointLives g then
      ((s.orphan g.1 g.2 1).modSlot key fun sl =>
        { sl with wait := .none, raised := { num := 81, kind := 0, code := w } :: sl.raised })
    else if waitDone (s.point g.1 g.2).ph (look 0 sl.wc w) then
      s.setSlot key { sl.pcNext with wait := .none, wc := put sl.wc w (look 0 sl.wc w + 1) }
    else s

/-- What a slot's arrival or query does at a shared point of another region, on the cycle on which it reaches the point. -/
def State.runRvAnswer (s : State) (key : Nat) : State :=
  match (s.slot key).wait with
  | .away w op => s.answered key w op
  | _ => s

/-- Whether an entry of the agenda is an arrival of a later slot on a cycle (R290). -/
def laterArrival (at_ key : Nat) (d : Due) : Bool :=
  d.at_ == at_ && d.rank == 131 && (match d.act with
    | .inr (.rvArrive k ..) | .inr (.rvAnswer k) => decide (key < k)
    | _ => false)

/-- SHARED_POINT_ANSWER: the arrival or query reaches the point on this cycle, and has its place among the cycle's events
there: arrivals in ascending region and slot, then signals, then queries (R290, R361). -/
def execSharedPointAnswer (key : Nat) (s : State) : Res :=
  let place (rank : Nat) : State :=
    let d : Due := { at_ := s.cycle, rank := rank, region := none, act := .inr (.rvAnswer key) }
    { s with agenda := s.agenda.takeWhile (fun e => !laterArrival s.cycle key e) ++ d :: s.agenda.dropWhile fun e => !laterArrival s.cycle key e }
  match (s.slot key).wait with
  | .away _ .arrive => .next (place 131)
  | .away _ .query => .next (place 133)
  | _ => .next s

/-! ## Delivery -/

/-- The causes of a slot delivered in the order in which they were raised: the first enters the handler, and the later
ones are held (R307, R310). -/
def State.deliverAll (s : State) (key : Nat) : List Raised → State
  | [] => s
  | r :: rs => (s.deliver key r (s.slot key).pc).deliverAll key rs

/-- TRAP_DELIVERY (R309). -/
def execTrapDelivery (key : Nat) (s : State) : Res :=
  let sl := s.slot key
  let due (r : Raised) : Bool := decide (r.at_ < s.cycle ∨ r.at_ = 0)
  if !sl.bound ∨ sl.ended ∨ !sl.raised.any due ∨ sl.awaiting s.cycle ∨ (s.launch sl.launch).halted then .next s
  else .next ((s.setSlot key { sl with raised := sl.raised.filter fun r => !due r }).deliverAll key (sl.raised.filter due))

end Sys2Proof.Machine
end

