-- ==== Sys2Proof/Machine/Preempt.lean ====
section
/-! DEFINITION. Pre-emption (20 R319 to R324): halting a region, its image, page copies, and resuming. -/

namespace Sys2Proof.Machine

/-! ## `REGION.PREEMPT` (R319) -/

def preState (w : Word) : Nat := field w 57 56
def preOff (w : Word) : Nat := field w 55 32 / 4096 * 4096
def setPreState (w : Word) (v : Nat) : Word := putField w 57 56 v
/-- ERRV and ERR of a refused resume. -/
def setPreErr (w : Word) (c : Nat) : Word := putField (putField w 19 19 1) 18 12 c

/-- Which one of GO, RESUME and KILL a write sets; none when it sets more. -/
def preCmd (v : Word) : Nat := field v 63 61

/-- Launches of a region in one stage. -/
def State.regionLaunches (s : State) (r : Nat) (st : LStage) : List Nat :=
  (s.launches.map (·.1)).filter fun l => (s.launch l).region == r && (s.launch l).stage == st
/-- Launches of a region that are halted. -/
def State.haltedIn (s : State) (r : Nat) : List Nat :=
  (s.launches.map (·.1)).filter fun l => (s.launch l).region == r && (s.launch l).halted && (s.launch l).stage != .retired

/-- A launch whose slots have not started gives up its pages and slots and returns to its port, ahead of the later launches
that wait there (R72, R90, R324). -/
def State.sendBack (s : State) (l : Nat) : State :=
  let s := (s.releaseUnarmed l).modLaunch l fun x => { x with stage := .closed, load := none }
  s.modPort (s.launch l).port fun p => { p with queue := (p.queue.filter fun m => decide (m < l)) ++ l :: p.queue.filter fun m => decide (l < m) }

/-- A load for arming abandoned: its launches return to their ports (R324). -/
def State.abortLoad (s : State) (d : Load) : State :=
  let ls := (s.launches.filter fun e => e.2.stage == .waiting && e.2.load == some d.id).map (·.1)
  let s := { s with loads := s.loads.filter (·.id != d.id) }
  ls.foldl (fun s l => (s.sendBack l).report 14 d.region 0) s

/-- An `mload` abandoned with STATE 0, and a milestone named and not yet committed cancelled with LAST 3 (R324). -/
def State.quitMilestone (s : State) (l : Nat) : State :=
  let s := if (s.launch l).mload.isSome then s.dropShadow l else s
  if (s.launch l).mpend && !(s.launch l).committed then s.cancelMilestone l else s

/-- PREEMPT_GO (R319, R324): the halt cycle falls at or after tr + 8; a move, a load for arming, an `mload` and a milestone
not yet committed are abandoned at tr. -/
def execPreemptGo (r : Nat) (v : BitVec 64) (s : State) : Res :=
  let w := (s.region r).preempt
  if preCmd v ≠ 4 ∨ preState w ≠ 0 then .next s
  else
    let s := s.modRegion r fun g =>
      { g with preempt := setPreState (putField w 55 32 (field v 55 32)) 1, haltAt := s.cycle }
    let s := (s.launches.filter fun e => e.2.region == r && (e.2.moving.isSome || e.2.moveBy.isSome)).foldl (fun s e => s.abortMove e.1) s
    let s := (s.loads.filter fun d => d.region == r && !d.phase && !d.fresh).foldl (fun s d => s.abortLoad d) s
    let s := (s.regionLaunches r .running).foldl (fun s l => s.quitMilestone l) s
    .next (s.dueOp (s.cycle + 8) 1 none (.regionHalt r))

/-! ## The halt cycle (R320) -/

/-- A DDA act that still falls on the halt cycle (R261, R320). -/
def ddaAct (act : Instr ⊕ Effect) : Bool :=
  match act with
  | .inl (.ddaStep ..) | .inr (.ddaEmit ..) | .inr (.ddaHalt _) | .inr (.domSet ..) | .inr (.domStop ..) | .inr (.cellSet ..) => true
  | _ => false

/-- What the halt does to a slot: raised causes are delivered, and a waiting word that has not committed is abandoned
(R307, R320). -/
def State.haltSlot (s : State) (key : Nat) : State :=
  let sl := s.slot key
  if sl.ended then s
  else
    let s := if sl.raised.isEmpty || sl.awaiting s.cycle then s
      else (s.setSlot key { sl with raised := [] }).deliverAll key sl.raised
    let s := { s with agenda := dropWord key s.agenda, frozen := dropWord key s.frozen }
    s.modSlot key fun sl => match sl.wait with
      | .rvOut | .away _ .arrive => sl
      | _ => { sl with wait := .none }

/-- A launch at the halt cycle: what began after tr is abandoned too (R324), and its time stops. -/
def State.haltLaunch (s : State) (l : Nat) : State :=
  let s := s.quitMilestone l
  let s := (s.slotKeys l).foldl (fun s k => s.haltSlot k) s
  s.modLaunch l fun x => { x with halted := true }

/-- A milestone of the region between its commit and its switch. -/
def State.pendingSwitch (s : State) (r : Nat) : Option Nat :=
  (s.launches.find? fun e => e.2.region == r && e.2.stage == .running && e.2.mpend && e.2.committed).map (·.2.milestone.toNat)

/-- REGION_HALT: the region stops, unless a milestone delays it past its switch. -/
def execRegionHalt (r : Nat) (s : State) : Res :=
  let g := s.region r
  if preState g.preempt ≠ 1 ∨ g.halted then .next s
  else match s.pendingSwitch r with
    | some m => .next (s.dueOp (m + 1) 1 none (.regionHalt r))
    | none =>
      let s := s.modRegion r fun g =>
        { g with halted := true, thalt := s.cycle, preempt := putField g.preempt 31 20 (s.cycle - g.haltAt) }
      let s := (s.regionLaunches r .placed).foldl (fun s l => s.sendBack l) s
      let s := (s.regionLaunches r .running).foldl (fun s l => s.haltLaunch l) s
      let stops (d : Due) : Bool := d.region == some r && s.ownerHalted d.act && !(ddaAct d.act && decide (d.at_ ≤ s.cycle))
      let s := { s with frozen := s.frozen ++ s.agenda.filter stops, agenda := s.agenda.filter fun d => !stops d }
      .next (s.report 118 r 0)

/-! ## The halt image (R321) -/

def haltBytes : Nat := 27776

def issueCode : IssueKind → Nat
  | .idle => 0
  | .loop => 1
  | .run => 2
def issueOf (n : Nat) : IssueKind := if n = 1 then .loop else if n = 2 then .run else .idle

/-- The 1,024-byte record of a slot. -/
def slotImage (sl : Slot) : List Byte :=
  let w (v : Nat) : List Byte := bytesOf v 8
  let f : Issue := sl.following.headD {}
  let b := w sl.pc.toNat ++ (sl.a.toList.drop 1).flatMap (fun x => w x.toNat)
    ++ w (sumNat ((List.range 8).map fun i => if sl.k.toList.getD i false || i == 0 then 2 ^ i else 0))
    ++ w sl.fmt.toNat ++ w sl.unit.toNat ++ w sl.depth.toNat ++ w sl.tvec.toNat ++ w sl.epc.toNat ++ w sl.cause.toNat
    ++ w sl.tval.toNat ++ w sl.winmiss.toNat ++ w sl.siteerr.toNat ++ w sl.poison.toNat
    ++ w sl.cur.desc.toNat ++ w (sl.cur.iter % 2 ^ 32 * 2 ^ 32 + sl.cur.n % 2 ^ 32)
    ++ w (sl.rb.toNat * 2 ^ 24 + issueCode sl.cur.kind * 2 ^ 20 + sl.cur.beat % 8 * 2 ^ 16 + sl.cur.line % 2 ^ 16)
    ++ w (sl.ctr3.toNat * 2 ^ 32 + sl.ctr2.toNat) ++ w sl.fret.toNat
    ++ (List.range 24).flatMap (fun n => bytesOf ((look 0 sl.wc n).toNat * 2 ^ 16 + (look 0 sl.ac n).toNat) 4)
    ++ w f.desc.toNat ++ w (issueCode f.kind * 2 ^ 32 + f.n % 2 ^ 32)
  b ++ List.replicate (1024 - b.length) 0

/-- A landing entry in the image: what is left to count to its close. -/
def landingWord (w : Landing) (th : Nat) : Nat :=
  if w.isOpen then 2 ^ 31 + w.wid % 64 * 2 ^ 25 + w.slot % 8 * 2 ^ 22 + (w.close - th) % 2 ^ 22 else 0

/-- The image of a halted region. -/
def State.haltImage (s : State) (r : Nat) : List Byte :=
  let g := s.region r
  let ls := s.haltedIn r
  let mine (i : Nat) : Bool := (s.slot (slotKey r i)).bound && ls.contains (s.slot (slotKey r i)).launch
  let bits (f : Nat → Bool) : Nat := sumNat ((List.range 8).map fun i => if f i then 2 ^ i else 0)
  bytesOf g.thalt 8
    ++ bytesOf (bits mine + bits (fun i => mine i && (s.slot (slotKey r i)).active) * 256) 8 ++ List.replicate 48 0
    ++ (List.range 8).flatMap (fun i => if mine i then slotImage (s.slot (slotKey r i)) else List.replicate 1024 0)
    ++ ddaImage g g.thalt
    ++ (List.range 448).flatMap fun n =>
      let e := s.elem (elemAt r (n / 28) (n % 28))
      (List.range 4).flatMap fun j =>
        let w : Landing := look {} e.landing j
        bytesOf (if ls.contains w.launch then landingWord w g.thalt else 0) 4

/-- Whether the region still completes what left before the halt. -/
def State.settling (s : State) (r : Nat) : Bool :=
  let ls := s.haltedIn r
  (s.flights.any fun f => f.region == r && ls.contains f.launch)
    || ls.any fun l => (s.slotKeys l).any fun k => match (s.slot k).wait with
      | .rvOut => decide (s.cycle < (s.slot k).busy)
      | .away _ .arrive => true
      | _ => false

/-- IMAGE_SAVE_DONE: the image stands at OFFSET, and STATE is 2. Bytes past the home space are not written. -/
def execImageSaveDone (r : Nat) (s : State) : Res :=
  let g := s.region r
  if preState g.preempt ≠ 1 ∨ !g.halted ∨ s.settling r then .next s
  else
    let off := preOff g.preempt
    let s := s.homeStore r off ((s.haltImage r).take (2 ^ 24 - off)) false
    .next (s.modRegion r fun g => { g with preempt := setPreState g.preempt 2 })

/-! ## Resuming (R323) -/

/-- The fields of `FMT`, `SLOT.TVEC`, `SLOT.CAUSE`, `SLOT.TVAL`, `SLOT.WINMISS`, `SLOT.SITEERR` and `POISON.ORIGIN` that are not
reserved (R46, R142, R147, R225, R308). -/
def fmtMask : Word := 0xFF06
def tvecMask : Word := 0x8000000000FFFFFF
def causeMask : Word := 0xFFFFFF000000007F
def tvalMask : Word := 0xFFFF0000FFFF0000
def winmissMask : Word := 0x7FFFFFFC01
def siteerrMask : Word := 0xFFFFFFFFFFFFFC01
def poisonMask : Word := 0xFFFFFFFFFFF00001

/-- The 64-bit word of a slot record at an offset. -/
def recWord (b : List Byte) (off : Nat) : Word := BitVec.ofNat 64 (natOfBytes (Sys2Proof.slice b off 8))

/-- The bits of word i of a slot record that R321 gives a meaning; all others are zero. -/
def recMask (i : Nat) : Word :=
  if i = 0 then 0xFFFFFF
  else if i = 32 then 0xFF
  else if i = 33 then fmtMask
  else if i = 34 then 0xFFFFFF
  else if i = 35 then 0xFF
  else if i = 36 then tvecMask
  else if i = 37 then 0xFFFFFF
  else if i = 38 then causeMask
  else if i = 39 then tvalMask
  else if i = 40 then winmissMask
  else if i = 41 then siteerrMask
  else if i = 42 then poisonMask
  else if i = 45 then 0x1F37FFFF
  else if i = 46 then 0xFFFFFFFFFFFFFF
  else if i = 61 then 0x3FFFFFFFF
  else if i ≤ 60 then 0xFFFFFFFFFFFFFFFF
  else 0

/-- The reserved bytes and bits of an image, which must be zero (R323): those of its header and of its slot records. -/
def haltReserved (b : List Byte) : Bool :=
  (Sys2Proof.slice b 10 54).all (· == 0)
    && (List.range 8).all fun s => (List.range 128).all fun i => recWord b (64 + 1024 * s + 8 * i) &&& ~~~recMask i == 0

/-- A slot as its record has it; what the record does not hold has stayed in place. -/
def restoreSlot (sl : Slot) (b : List Byte) : Slot :=
  let w := recWord b
  let sl := sl.setPoison (w 336 &&& poisonMask)
  let kind := issueOf (field (w 360) 21 20)
  let fk := issueOf (field (w 488) 33 32)
  let f : Issue := { sl.following.headD {} with kind := fk, desc := w 480, n := field (w 488) 31 0 }
  { sl with
    pc := (w 0).setWidth 24
    a := (List.range 31).foldl (fun (v : Vector Word 32) n => v.set! (n + 1) (w (8 + 8 * n))) sl.a
    k := (List.range 7).foldl (fun (v : Vector Bool 8) n => v.set! (n + 1) (bitAt (w 256) (n + 1))) sl.k
    fmt := (w 264 &&& fmtMask).setWidth 32, unit := (w 272).setWidth 24, depth := (w 280).setWidth 8
    tvec := w 288 &&& tvecMask, epc := w 296 &&& 0xFFFFFF, cause := w 304 &&& causeMask, tval := w 312 &&& tvalMask
    winmiss := w 320 &&& winmissMask, siteerr := w 328 &&& siteerrMask
    cur := if kind = .idle then {} else
      { sl.cur with kind := kind, desc := w 344, n := field (w 352) 31 0, iter := field (w 352) 63 32,
                    line := field (w 360) 15 0, beat := field (w 360) 18 16 }
    rb := BitVec.ofNat 5 (field (w 360) 28 24), ctr2 := BitVec.ofNat 32 (field (w 368) 31 0)
    ctr3 := BitVec.ofNat 24 (field (w 368) 55 32), fret := w 376
    ac := (List.range 24).map fun n => (n, BitVec.ofNat 16 (natOfBytes (Sys2Proof.slice b (384 + 4 * n) 2)))
    wc := (List.range 24).map fun n => (n, BitVec.ofNat 16 (natOfBytes (Sys2Proof.slice b (386 + 4 * n) 2)))
    following := if fk = .idle then [] else f :: sl.following.drop 1 }

/-- The DDA as the image has it, its phases counted from the halt cycle; its starters and step counts stay. -/
def Region.restoreDda (g : Region) (b : List Byte) : Region :=
  let h := g.fromImage b g.thalt 0
  { h with doms := h.doms.map fun (e : Nat × Domain) =>
      (e.1, { e.2 with starter := (g.dom e.1).starter, steps := (g.dom e.1).steps }) }

/-- Launches of a region with a page copied out. -/
def State.hasSwap (s : State) (r : Nat) : Bool :=
  (s.haltedIn r).any fun l => s.swaps.any fun e => e.2.1.launch == some l

/-- What refuses a resume from an image: its length in home space, its reserved bytes, its DDA part, a page that is
copied out. -/
def State.resumeFault (s : State) (r off : Nat) (b : List Byte) : Option Nat :=
  if 2 ^ 24 < off + haltBytes ∨ s.homeBad r off haltBytes ∨ !haltReserved b then some 10
  else if !imageOk (Sys2Proof.slice b 8256 imageBytes) then some 68
  else if s.hasSwap r then some 6
  else none

/-- PREEMPT_RESUME: the image is checked on the cycle after the write; slots and DDA take it, and the region resumes on
the first cycle from then on that is th modulo 8. -/
def execPreemptResume (r : Nat) (v : BitVec 64) (s : State) : Res :=
  let g := s.region r
  if preCmd v ≠ 2 ∨ preState g.preempt ≠ 2 then .next s
  else
    let s := s.modRegion r fun g => { g with preempt := putField g.preempt 55 32 (field v 55 32) }
    let off := preOff (s.region r).preempt
    let b := s.homeRead r off haltBytes
    match s.resumeFault r off b with
    | some c =>
      let s := s.modRegion r fun g => { g with preempt := setPreErr g.preempt c }
      .next (if c = 68 then s.report 68 r 0 else s)
    | none =>
      let ls := s.haltedIn r
      let s := (List.range 8).foldl (fun s i =>
        let k := slotKey r i
        if (s.slot k).bound && !(s.slot k).ended && ls.contains (s.slot k).launch then
          s.modSlot k fun sl => restoreSlot sl (Sys2Proof.slice b (64 + 1024 * i) 1024)
        else s) s
      let s := s.modRegion r fun g =>
        let g := match g.ddaOwner with
          | some l => if ls.contains l then g.restoreDda (Sys2Proof.slice b 8256 imageBytes) else g
          | none => g
        { g with preempt := putField (setPreState g.preempt 3) 19 12 0 }
      let c := s.cycle + 1
      .next (s.dueOp (c + (g.thalt % 8 + 8 - c % 8) % 8) 1 none (.regionResume r))

/-- A time of the halted timeline on the resumed one. -/
def shiftTime (th delta t : Nat) : Nat := if th ≤ t then t + delta else t

/-- A slot on the resumed timeline; the turns that fell in the halt are not counted (R211). -/
def shiftSlot (th delta : Nat) (sl : Slot) : Slot :=
  { sl with
    busy := shiftTime th delta sl.busy, start := sl.start.map (· + delta)
    cur := { sl.cur with startAt := shiftTime th delta sl.cur.startAt }
    following := sl.following.map fun (i : Issue) => { i with startAt := shiftTime th delta i.startAt }
    late := sl.late.map fun w => { w with close := w.close + delta } }

/-- A stopped entry on the resumed timeline. -/
def shiftDue (delta : Nat) (d : Due) : Due :=
  let act := match d.act with
    | .inr (.seqStore k gen site off v n last epc) => .inr (.seqStore k gen site off v n (last + delta) epc)
    | a => a
  { d with at_ := d.at_ + delta, act := act }

def isDdaStep (r : Nat) (d : Due) : Bool :=
  match d.act with
  | .inl (.ddaStep x _) => x == r
  | _ => false

/-- REGION_RESUME: every stopped time runs on from tres. -/
def execRegionResume (r : Nat) (s : State) : Res :=
  let g := s.region r
  if preState g.preempt ≠ 3 then .next s
  else
    let delta := s.cycle - g.thalt
    let ls := s.haltedIn r
    let mine (d : Due) : Bool := d.region == some r
    let s := { s with
      agenda := s.agenda ++ ((s.frozen.filter fun d => mine d && !isDdaStep r d).map (shiftDue delta)),
      frozen := s.frozen.filter fun d => !mine d,
      accs := s.accs.map fun (a : Access) =>
        if ls.contains a.launch then { a with notBefore := shiftTime g.thalt delta a.notBefore } else a
      beats := s.beats.map fun (b : ChanBeat) =>
        if ls.contains b.launch then { b with arrive := shiftTime g.thalt delta b.arrive } else b }
    let s := ls.foldl (fun s l => (s.slotKeys l).foldl (fun s k => s.modSlot k (shiftSlot g.thalt delta)) s) s
    let s := (ls.flatMap s.heldClusters).foldl (fun s cl => (List.range 16).foldl (fun s e => s.modElem (16 * cl + e) fun x =>
      { x with landing := x.landing.map fun (w : Nat × Landing) =>
          if w.2.isOpen && ls.contains w.2.launch then (w.1, { w.2 with close := w.2.close + delta }) else w }) s) s
    let s := ls.foldl (fun s l => s.modLaunch l fun x => { x with halted := false }) s
    let s := s.modRegion r fun g => { g with halted := false, preempt := setPreState g.preempt 0 }
    match g.ddaOwner with
    | some l =>
      if ls.contains l then
        let s := s.modRegion r fun g => { g with doms := g.doms.map fun (e : Nat × Domain) => (e.1, { e.2 with next := e.2.next + delta }) }
        .next (s.scheduleDoms r)
      else .next s
    | none => .next s

/-- PREEMPT_KILL: the launch that holds slot KSLOT ends with `KILL`. -/
def execPreemptKill (r : Nat) (v : BitVec 64) (s : State) : Res :=
  if preCmd v ≠ 1 then .next s
  else
    let s := s.modRegion r fun g => { g with preempt := putField g.preempt 55 32 (field v 55 32) }
    let i := field v 60 58
    let sl := s.slot (slotKey r i)
    .next (if sl.bound then s.endLaunch sl.launch 119 i else s)

/-! ## Page copies (R322) -/

def pcState (w : Word) : Nat := field w 61 60
def pcPages (w : Word) : List Nat := (List.range 28).filter fun i => bitAt w (32 + i)
def pcBase (w : Word) : Nat := field w 51 21 * 2 ^ 21
def pageImageBytes : Nat := 2 ^ 21

/-- A copy refused. -/
def pcRefuse (w : Word) (c : Nat) : Word := putField (putField w 61 60 3) 31 25 c

/-- The words of a GO write, before it is admitted. -/
def pcWrite (old v : Word) : Word := (old &&& ~~~0x4FFFFFFF00000000) ||| (v &&& 0x4FFFFFFF00000000)

/-- Whether a page copy can begin in a region at all. -/
def State.pcReady (s : State) (r : Nat) : Bool :=
  let g := s.region r
  preState g.preempt == 2 && inHbm (pcBase g.pagecopy1) (pageImageBytes * (pcPages g.pagecopy0).length)

/-- A copy under way: STATE 1, with the direction, pages and base of its GO. -/
def State.startCopy (s : State) (r : Nat) (v : Word) : State :=
  s.modRegion r fun g =>
    { g with pagecopy0 := putField g.pagecopy0 61 60 1, copyJob := (bitAt v 62, pcPages v, pcBase g.pagecopy1) }

/-- The halted launch whose page a cluster holds. -/
def State.haltedPage (s : State) (cl : Nat) : Bool :=
  match (s.cluster cl).launch with
  | some l => (s.launch l).halted
  | none => false

/-- PAGECOPY_OUT: the copy of the named pages to memory begins. -/
def execPagecopyOut (r : Nat) (v : BitVec 64) (s : State) : Res :=
  if !bitAt v 63 ∨ bitAt v 62 ∨ pcState (s.region r).pagecopy0 = 1 then .next s
  else
    let s := s.modRegion r fun g => { g with pagecopy0 := pcWrite g.pagecopy0 v }
    let ok := s.pcReady r && (pcPages v).all fun i => s.haltedPage (28 * r + i)
    .next (if ok then s.startCopy r v else s.modRegion r fun g => { g with pagecopy0 := pcRefuse g.pagecopy0 10 })

/-- Whether a page image in memory closes with the CRC-32 of the rest. -/
def State.imageCrcOk (s : State) (a : Nat) : Bool :=
  let b := s.nodeRead a pageImageBytes
  natOfBytes (b.drop (pageImageBytes - 4)) == crc32 (b.take (pageImageBytes - 4)) && !s.memBad a pageImageBytes

/-- The page of the halted launch that was copied out of a cluster. -/
def State.swapAt (s : State) (cl : Nat) : Option (Cluster × List Elem) := (s.swaps.find? fun e => e.1 == cl).map (·.2)

/-- PAGECOPY_IN: the copy of the named pages back to their clusters begins, and holds them. -/
def execPagecopyIn (r : Nat) (v : BitVec 64) (s : State) : Res :=
  if !bitAt v 63 ∨ !bitAt v 62 ∨ pcState (s.region r).pagecopy0 = 1 then .next s
  else
    let s := s.modRegion r fun g => { g with pagecopy0 := pcWrite g.pagecopy0 v }
    let ps := pcPages v
    let refuse (c : Nat) : State := s.modRegion r fun g => { g with pagecopy0 := pcRefuse g.pagecopy0 c }
    if !(s.pcReady r && ps.all fun i => (s.swapAt (28 * r + i)).isSome) then .next (refuse 10)
    else if !ps.all fun i => s.freeCluster (28 * r + i) then .next (refuse 6)
    else if !(ps.mapIdx fun n _ => s.imageCrcOk (pcBase (s.region r).pagecopy1 + pageImageBytes * n)).all id then .next (refuse 12)
    else
      let s := ps.foldl (fun s i => match s.swapAt (28 * r + i) with
        | some (k, _) => s.modCluster (28 * r + i) fun c => { c with launch := k.launch, page := k.page, saggar := k.saggar, armed := false }
        | none => s) s
      .next (s.startCopy r v)

/-- Whether a reply for an open landing entry of a cluster has not landed. -/
def State.repliesDue (s : State) (cl : Nat) : Bool :=
  s.accs.any fun a => a.elem / 16 == cl && (match (s.elem a.elem).landing.find? fun w => w.2.isOpen && w.2.acc == a.win with
    | some _ => true
    | none => false)

/-- One page copied out: its image in memory, and the page swapped. -/
def State.copyOut (s : State) (cl a : Nat) : State :=
  let (id, s) := s.nextSerial
  let b := (List.range (pageImageBytes - 4)).map (Config.pageImage id)
  let s := s.memStore a (b ++ bytesOf (crc32 b) 4)
  let s := { s with
    swaps := put s.swaps cl (s.cluster cl, (List.range 16).map fun e => s.elem (16 * cl + e)),
    agenda := s.agenda.filter fun d => match d.act with | .inl (.matrixStep c) => c != cl | _ => true }
  let s := (List.range 16).foldl (fun s e => s.modElem (16 * cl + e) fun x =>
    { x with landing := x.landing.map fun (w : Nat × Landing) => (w.1, { w.2 with isOpen := false }) }) s
  s.modCluster cl fun c => { c with launch := none, saggar := 0xFFF, armed := false }

/-- One page copied back to its cluster; the fence, the voters and the power gate are the cluster's own. -/
def State.copyIn (s : State) (cl : Nat) : State :=
  match s.swapAt cl with
  | none => s
  | some (k, es) =>
    let s := s.setCluster cl (k.carry (s.cluster cl))
    let s := es.zipIdx.foldl (fun s e => s.setElem (16 * cl + e.2) e.1) s
    ({ s with swaps := del s.swaps cl } : State).dueOp (s.cycle + 1) 30 none (.matrixStep cl)

/-- PAGECOPY_DONE: the pages that the GO named are swapped, or stand on their clusters again. A copy out waits for the replies of
the open windows at its pages. -/
def execPagecopyDone (r : Nat) (s : State) : Res :=
  let g := s.region r
  let (dir, ps, base) := g.copyJob
  let done (s : State) : State := s.modRegion r fun g => { g with pagecopy0 := putField g.pagecopy0 61 60 2 }
  if pcState g.pagecopy0 ≠ 1 then .next s
  else if dir then .next (done (ps.foldl (fun s i => s.copyIn (28 * r + i)) s))
  else if ps.any fun i => s.repliesDue (28 * r + i) then .next s
  else
    .next (done ((ps.mapIdx fun n i => (n, i)).foldl (fun s e =>
      if s.haltedPage (28 * r + e.2) then s.copyOut (28 * r + e.2) (base + pageImageBytes * e.1) else s) s))

end Sys2Proof.Machine
end

