-- ==== Sys2Proof/Machine/Regs.lean ====
section
/-! DEFINITION. Clears, and host writes to device registers that have no behaviour of their own (01 R6, R7, 04 R71, R74,
05 R86, R87, 08 R142, R143, R147, 10 R199, 11 R225, 12 R227, R231, R238, 13 R255, 17 R293, 20 R319, R322, 23 R345, 24 R355,
R358). -/

namespace Sys2Proof.Machine

/-! ## Clears: each field returns to its reset value -/

def execWallClr (region : Nat) (s : State) : Res := .next (s.modRegion region fun g => { g with wall := 0 })
def execWinmissClr (key : Nat) (s : State) : Res := .next (s.modSlot key fun sl => { sl with winmiss := 0, late := none })
def execPoisonOriginClr (key : Nat) (s : State) : Res := .next (s.modSlot key fun sl => sl.setPoison 0)
def execSiteerrClr (key : Nat) (s : State) : Res := .next (s.modSlot key fun sl => { sl with siteerr := 0 })
def execAccerrClr (cl : Nat) (s : State) : Res := .next (s.modCluster cl fun c => { c with accerr := 0 })
def execDdaErrClr (region : Nat) (s : State) : Res := .next (s.modRegion region fun g => { g with ddaErr := 0 })
def execOrphansClr (slice : Nat) (s : State) : Res := .next (s.modSlice slice fun x => { x with orphans := 0 })

/-- CLR of `PEER.STAT`: RETRY alone (R355). -/
def execPeerRetryClr (n : Fin 16) (s : State) : Res :=
  .next { s with peerStat := put s.peerStat n.val (putField (look 0 s.peerStat n.val) 31 16 0) }

/-! ## Register writes -/

/-- Whether an offset lies in an array of `n` registers `step` bytes apart, and which one it names. -/
def regAt (off base step n : Nat) : Option Nat :=
  if base ≤ off ∧ off < base + step * n ∧ (off - base) % step = 0 then some ((off - base) / step) else none

/-- A RW field alone written; every other bit of the register stays. -/
def keepRw (old v mask : Word) : Word := (old &&& ~~~mask) ||| (v &&& mask)

/-- `INGRESS.CTL` written (R71). -/
def Port.writeCtl (x : Port) (v : Word) : Port :=
  let x := { x with prio := field v 1 0 }
  if bitAt v 2 then { x with dropped := 0, lastErr := 0 } else x

/-- A device register's RW fields as a host port writes them, by offset; a write that names none changes nothing (R6, R351).
GO, RESUME, KILL and the like act through their own events, with the fields of their write: one that sets such a bit changes
no field here. -/
def State.writeReg (s : State) (host : HostPort) (off : Nat) (v : Word) : State :=
  match regAt off 0x10FC0 0x1000 16 with
  | some p => s.modPort p fun x => x.writeCtl v
  | none => match regAt off 0x20000 4 16 with
  | some n => { s with hostSem := put s.hostSem n (semWrite (look 0 s.hostSem n) host (v.setWidth 32)) }
  | none => match regAt off 0x30000 4 48 with
  | some r => s.modRegion r fun g => { g with winstretch := v.setWidth 10 }
  | none => match regAt off 0x31000 8 48 with
  | some r => if field v 63 61 = 0 then s.modRegion r fun g => { g with preempt := keepRw g.preempt v 0x00FFFFFF00000000 } else s
  | none => match regAt off 0x32000 8 48 with
  | some r => if bitAt v 63 then s else s.modRegion r fun g => { g with unload := keepRw g.unload v 0xFFFFFFFF }
  | none => match regAt off 0x33000 16 48 with
  | some r => if bitAt v 63 then s else s.modRegion r fun g => { g with pagecopy0 := keepRw g.pagecopy0 v 0x4FFFFFFF00000000 }
  | none => match regAt off 0x33008 16 48 with
  | some r => s.modRegion r fun g => { g with pagecopy1 := v &&& 0x000FFFFFFFE00000 }
  | none => match regAt off 0x40000 8 192 with
  | some x => s.modSlice x fun y => { y with slotsNew := some (v &&& 0xFFFFFFFF) }
  | none =>
    if off = 0x41000 then { s with xlatBase := v &&& 0x000FFFFFFFFFF000 }
    else match regAt off 0x42000 8 768 with
    | some i =>
      if i % 16 = 0 then s
      else s.modRegion (i / 16) fun g =>
        { g with mcast := put g.mcast (i % 16) (keepRw (look 0 g.mcast (i % 16)) v 0x0000F000FFFFFFFF) }
    | none =>
      if off = 0x46008 then { s with kilnBase := v.setWidth 20 }
      else match regAt off 0x4A240 8 4 with
      | some i => { s with trustNonce := putField s.trustNonce (64 * i + 63) (64 * i) v.toNat }
      | none => s

/-- REGISTER_WRITE: both host ports have equal rights (R74). -/
def execRegisterWrite (host : HostPort) (off : Nat) (v : BitVec 64) (s : State) : Res :=
  .next (if s.hostDown.contains host then s else s.writeReg host off v)

end Sys2Proof.Machine
end

