-- ==== Sys2Proof/Machine/SeqScalar.lean ====
section
/-! DEFINITION. Control words of majors 0 to 3: scalar and predicate arithmetic (07 R117). -/

namespace Sys2Proof.Machine

/-- A register form: a[A] := f(a[B], a[IMM[17:13]]). -/
def State.alu (s : State) (d x y : AReg) (f : Word → Word → Word) : State :=
  s.writeA d (f (s.me.areg x) (s.me.areg y))
/-- An immediate form: a[A] := f(a[B]). -/
def State.aluI (s : State) (d x : AReg) (f : Word → Word) : State := s.writeA d (f (s.me.areg x))

/-- Bits 127..64 of a product. -/
def highWord (x : Int) : Word := BitVec.ofInt 64 (x / 2 ^ 64)
def lowSix (y : Word) : Nat := field y 5 0

def execSeqAdd (d x y : AReg) (s : State) : Res := .next (s.alu d x y (· + ·))
def execSeqSub (d x y : AReg) (s : State) : Res := .next (s.alu d x y (· - ·))
def execSeqMul (d x y : AReg) (s : State) : Res := .next (s.alu d x y (· * ·))
def execSeqMulh (d x y : AReg) (s : State) : Res := .next (s.alu d x y fun a b => highWord (a.toInt * b.toInt))
def execSeqMulhu (d x y : AReg) (s : State) : Res :=
  .next (s.alu d x y fun a b => highWord ((a.toNat * b.toNat : Nat) : Int))
def execSeqAnd (d x y : AReg) (s : State) : Res := .next (s.alu d x y (· &&& ·))
def execSeqOr (d x y : AReg) (s : State) : Res := .next (s.alu d x y (· ||| ·))
def execSeqXor (d x y : AReg) (s : State) : Res := .next (s.alu d x y (· ^^^ ·))
def execSeqAndn (d x y : AReg) (s : State) : Res := .next (s.alu d x y fun a b => a &&& ~~~b)
def execSeqShl (d x y : AReg) (s : State) : Res := .next (s.alu d x y fun a b => a <<< lowSix b)
def execSeqShr (d x y : AReg) (s : State) : Res := .next (s.alu d x y fun a b => a >>> lowSix b)
def execSeqSra (d x y : AReg) (s : State) : Res := .next (s.alu d x y fun a b => a.sshiftRight (lowSix b))
def execSeqMin (d x y : AReg) (s : State) : Res := .next (s.alu d x y fun a b => if b.slt a then b else a)
def execSeqMax (d x y : AReg) (s : State) : Res := .next (s.alu d x y fun a b => if a.slt b then b else a)
def execSeqMinu (d x y : AReg) (s : State) : Res := .next (s.alu d x y fun a b => if b.ult a then b else a)
def execSeqMaxu (d x y : AReg) (s : State) : Res := .next (s.alu d x y fun a b => if a.ult b then b else a)

/-- The immediate of these four is sext(IMM, 18) (R103). -/
def execAddi (d x : AReg) (imm : BitVec 18) (s : State) : Res := .next (s.aluI d x (· + imm.signExtend 64))
def execAndi (d x : AReg) (imm : BitVec 18) (s : State) : Res := .next (s.aluI d x (· &&& imm.signExtend 64))
def execOri (d x : AReg) (imm : BitVec 18) (s : State) : Res := .next (s.aluI d x (· ||| imm.signExtend 64))
def execXori (d x : AReg) (imm : BitVec 18) (s : State) : Res := .next (s.aluI d x (· ^^^ imm.signExtend 64))
def execShli (d x : AReg) (n : BitVec 6) (s : State) : Res := .next (s.aluI d x (· <<< n.toNat))
def execShri (d x : AReg) (n : BitVec 6) (s : State) : Res := .next (s.aluI d x (· >>> n.toNat))
def execSrai (d x : AReg) (n : BitVec 6) (s : State) : Res := .next (s.aluI d x fun a => a.sshiftRight n.toNat)
def execLi (d : AReg) (imm : BitVec 18) (s : State) : Res := .next (s.writeA d (imm.signExtend 64))
def execLsi (d : AReg) (imm : BitVec 18) (s : State) : Res :=
  .next (s.writeA d ((s.me.areg d <<< 18) ||| imm.setWidth 64))

/-- The six comparisons of `kcmp` and the branches (R117, R118). -/
def KCond.holds (c : KCond) (x y : Word) : Bool :=
  match c with
  | .eq => x == y
  | .ne => x != y
  | .lt => x.slt y
  | .ltu => x.ult y
  | .ge => !x.slt y
  | .geu => !x.ult y

def execKcmp (c : KCond) (k : KReg) (x y : AReg) (s : State) : Res :=
  .next (s.writeK k (KCond.holds c (s.me.areg x) (s.me.areg y)))
def execKand (k x y : KReg) (s : State) : Res := .next (s.writeK k (s.me.kreg x && s.me.kreg y))
def execKor (k x y : KReg) (s : State) : Res := .next (s.writeK k (s.me.kreg x || s.me.kreg y))
def execKxor (k x y : KReg) (s : State) : Res := .next (s.writeK k (s.me.kreg x != s.me.kreg y))
def execKnot (k x : KReg) (s : State) : Res := .next (s.writeK k (!s.me.kreg x))

end Sys2Proof.Machine
end

