-- ==== Sys2Proof/Machine/SeqBranch.lean ====
section
/-! DEFINITION. Control words of major 4 and after: branches, calls and jumps (07 R118). -/

namespace Sys2Proof.Machine

/-- pc + sext(IMM, 18). -/
def branchTo (pc : BitVec 24) (off : BitVec 18) : BitVec 24 := pc + off.signExtend 24

/-- The PC after a branch: taken, the target; not taken, the next word. -/
def State.branch (s : State) (taken : Bool) (off : BitVec 18) : State :=
  s.setMe { s.me with pc := if taken then branchTo s.me.pc off else s.me.pc + 1 }

def State.branchCmp (s : State) (c : KCond) (x y : AReg) (off : BitVec 18) : State :=
  s.branch (KCond.holds c (s.me.areg x) (s.me.areg y)) off

def execBeq (x y : AReg) (off : BitVec 18) (s : State) : Res := .next (s.branchCmp .eq x y off)
def execBne (x y : AReg) (off : BitVec 18) (s : State) : Res := .next (s.branchCmp .ne x y off)
def execBlt (x y : AReg) (off : BitVec 18) (s : State) : Res := .next (s.branchCmp .lt x y off)
def execBltu (x y : AReg) (off : BitVec 18) (s : State) : Res := .next (s.branchCmp .ltu x y off)
def execBge (x y : AReg) (off : BitVec 18) (s : State) : Res := .next (s.branchCmp .ge x y off)
def execBgeu (x y : AReg) (off : BitVec 18) (s : State) : Res := .next (s.branchCmp .geu x y off)
def execBk (k : KReg) (off : BitVec 18) (s : State) : Res := .next (s.branch (s.me.kreg k) off)
def execBnk (k : KReg) (off : BitVec 18) (s : State) : Res := .next (s.branch (!s.me.kreg k) off)
def execJ (off : BitVec 18) (s : State) : Res := .next (s.branch true off)

/-- `call`: the return word, the depth and the target. -/
def execCall (d : AReg) (off : BitVec 18) (s : State) : Res :=
  let sl := s.me
  .next (s.setMe { sl.setA d ((sl.pc + 1).setWidth 64) with
    depth := if sl.depth = 255 then 255 else sl.depth + 1, pc := branchTo sl.pc off })

/-- A jump to a register: a target at or past the program's length traps and leaves the PC (R118). -/
def State.jumpTo (s : State) (x : AReg) (depth : BitVec 8) : State :=
  let v := s.me.areg x
  if (s.kernelAt s.key).words ≤ v.toNat then s.trapW 32
  else s.setMe { s.me with pc := v.setWidth 24, depth := depth }

def execRet (x : AReg) (s : State) : Res := .next (s.jumpTo x (if s.me.depth = 0 then 0 else s.me.depth - 1))
def execJr (x : AReg) (s : State) : Res := .next (s.jumpTo x s.me.depth)

end Sys2Proof.Machine
end

