-- ==== Sys2Proof/Machine/Vote.lean ====
section
/-! DEFINITION. Voters, heartbeats, the vote, fencing and appeals (21 R326 to R334). -/

namespace Sys2Proof.Machine

/-! ## Voters (R326, R327) -/

inductive Voter | cluster (n : Nat) | slice (n : Nat) | sequencer (r : Nat)
deriving DecidableEq, Repr

def sides : List Dir := [.north, .east, .south, .west]
/-- A side's index at a seam (R86, R333): 0 north to 3 west. -/
def sideIdx (d : Dir) : Nat :=
  match d with
  | .north => 0
  | .east => 1
  | .south => 2
  | .west => 3
/-- A side's bit in VOTES: bit 3 north to bit 0 west. -/
def sideBit (d : Dir) : Nat := 2 ^ (3 - sideIdx d)

/-- Die, tile column and tile row of a cluster (R12 to R14). -/
def tileOf (cl : Nat) : Nat × Nat × Nat :=
  let r := cl / 28
  (r / 6, 8 * (r % 2) + cl % 28 % 7, 4 * (r % 6 / 2) + cl % 28 / 7)

/-- What a tile holds: a cluster, or a slice block in columns 7 and 15. -/
def tileUnit (die col row : Nat) : Voter :=
  if col % 8 = 7 then .slice (24 * die + 8 * (row / 4) + 4 * (col / 8) + row % 4)
  else .cluster (28 * (6 * die + 2 * (row / 4) + col / 8) + 7 * (row % 4) + col % 8)

/-- The tile beside a cluster on a side, if the die has one there. -/
def sideTile (cl : Nat) (d : Dir) : Option Voter :=
  let (die, col, row) := tileOf cl
  match d with
  | .north => if row = 0 then none else some (tileUnit die col (row - 1))
  | .east => some (tileUnit die (col + 1) row)
  | .south => if row = 11 then none else some (tileUnit die col (row + 1))
  | .west => if col = 0 then none else some (tileUnit die (col - 1) row)

/-- The voter of a cluster on a side: missing sides are filled in the order north, south, west. -/
def voterOf (cl : Nat) (d : Dir) : Voter :=
  match sideTile cl d with
  | some v => v
  | none =>
    let missing := ([.north, .south, .west] : List Dir).filter fun e => (sideTile cl e).isNone
    let (die, col, row) := tileOf cl
    if missing.head? = some d then .sequencer (cl / 28)
    else .slice (24 * die + 8 * (row / 4) + 4 * (col / 8) + row % 4)

/-- Whether a voter takes part: a fenced cluster does not (R327). -/
def State.voterRuns (s : State) (cl : Nat) (d : Dir) : Bool :=
  match voterOf cl d with
  | .cluster n => (s.cluster n).fencedAt.isNone
  | _ => true

/-! ## Heartbeats (R328, R329) -/

/-- The period of a cluster's heartbeat in which a cycle lies. -/
def beatPeriod (cl cycle : Nat) : Nat := (cycle + 1024 - 8 * (cl % 128)) / 1024

/-- HEARTBEAT: a powered cluster's beat reaches its four voters at the end of s + 4, and from the first one after a wake they
watch it; one off its phase, or a second one of the period, is babbling. -/
def execHeartbeat (cl : Nat) (s : State) : Res :=
  let c := s.cluster cl
  let onPhase := (s.cycle + 1024 - 8 * (cl % 128)) % 1024 == 0
  let woken := match c.wakeAt with
    | some w => decide (w + 256 ≤ s.cycle)
    | none => true
  if c.gated ∨ !woken ∨ c.fencedAt.isSome then .next s
  else
    let ob := if onPhase && c.beatAt != some s.cycle then .onTime else .babbling
    let s := s.modCluster cl fun c =>
      { c with beatAt := some s.cycle
               voters := if onPhase then sides.foldl (fun m d => if m.any (·.1 == sideIdx d) then m else put m (sideIdx d) .trusting) c.voters
                         else c.voters }
    .next (sides.foldl (fun s d => s.dueOp (s.cycle + 4) 125 none (.heartbeatJudge cl d ob)) s)

/-- A voter enters accusing: a vote starts on the next cycle. -/
def State.accuse (s : State) (cl : Nat) (d : Dir) (reason : Nat) : State :=
  let s := s.modCluster cl fun c =>
    { c with voters := put c.voters (sideIdx d) .accusing,
             reason := if c.voters.any (fun e => e.2 == .accusing) then c.reason else reason }
  s.dueOp (s.cycle + 1) 4 none (.vote cl)

/-- A voter has judged a miss in the period of this cycle, and takes no beat of it as on time. -/
def State.noteMiss (s : State) (cl : Nat) (d : Dir) : State :=
  s.modCluster cl fun c => { c with missed := put c.missed (sideIdx d) (beatPeriod cl s.cycle + 1) }

/-- One observation of a voter (R330). -/
def State.judge (s : State) (cl : Nat) (d : Dir) (ob : Observed) (reason : Nat) : State :=
  let c := s.cluster cl
  let setTo (v : VoterState) : State := s.modCluster cl fun c => { c with voters := put c.voters (sideIdx d) v }
  match c.voters.find? (·.1 == sideIdx d) with
  | none => s
  | some (_, v) =>
    if !s.voterRuns cl d then s
    else match v, ob with
      | .accusing, _ => s
      | .trusting, .onTime => s
      | .trusting, .miss => setTo (.suspect 1)
      | .suspect n, .miss => if n + 1 = 4 then s.accuse cl d 1 else setTo (.suspect (n + 1))
      | .suspect _, .onTime => setTo .trusting
      | .trusting, .babbling | .suspect _, .babbling => s.accuse cl d reason

/-- HEARTBEAT_JUDGE. A miss stands for its whole period: the beat of that period did not come. -/
def execHeartbeatJudge (cl : Nat) (d : Dir) (ob : Observed) (s : State) : Res :=
  match ob with
  | .onTime =>
    .next (if look 0 (s.cluster cl).missed (sideIdx d) = beatPeriod cl s.cycle + 1 then s else s.judge cl d .onTime 2)
  | .miss => .next ((s.judge cl d .miss 2).noteMiss cl d)
  | .babbling => .next (s.judge cl d .babbling 2)

/-- BABBLE (R329): the token is dropped, counted and reported, and a mark goes to the sender's voters. -/
def execBabble (cl : Nat) (d : Dir) (s : State) : Res :=
  .next (((s.countDrop cl (sideIdx d)).report 108 cl 0).dueEff (s.cycle + 8) 4 none (.babbleMark cl))

def State.runBabbleMark (s : State) (cl : Nat) : State := sides.foldl (fun s d => s.judge cl d .babbling 3) s

/-- CLUSTER_POWER_GATE (R328): a free cluster; its voters stop watching. -/
def execClusterPowerGate (cl : Nat) (s : State) : Res :=
  let c := s.cluster cl
  let waking := match c.wakeAt with | some w => !c.gated && decide (s.cycle < w + 256) | none => false
  if c.launch.isSome ∨ c.fencedAt.isSome ∨ waking = true then .next s
  else .next (s.modCluster cl fun c => { c with gated := true, voters := [], votes := [], told := [] })

/-! ## The vote (R330) -/

/-- The accusation bits of a cluster's voters. -/
def State.accusers (s : State) (cl : Nat) : Nat :=
  sumNat (sides.map fun d =>
    if (s.cluster cl).voters.any (fun e => e.1 == sideIdx d && e.2 == .accusing) && s.voterRuns cl d then sideBit d else 0)

/-- VOTE: round 1 begins, whether or not another vote is under way; two that begin on one cycle are one. -/
def execVote (cl : Nat) (s : State) : Res :=
  let c := s.cluster cl
  let t := s.cycle + 128
  if c.fencedAt.isSome ∨ s.accusers cl = 0 ∨ c.votes.any (·.1 == t) then .next s
  else .next ((s.modCluster cl fun c => { c with votes := c.votes ++ [(t, s.accusers cl)] }).dueOp t 4 none (.voteFence cl []))

/-- Whether voter v knows u's bit: directly, or through a relay. -/
def hears (runs : Dir → Bool) (lost : List (Dir × Dir)) (v u : Dir) : Bool :=
  let up (a b : Dir) : Bool := !lost.contains (a, b)
  u == v || up u v || sides.any fun w => w != u && w != v && runs w && up u w && up w v

/-- Whether some voter counts three or more of the bits set. -/
def decides (runs : Dir → Bool) (lost : List (Dir × Dir)) (bits : Nat) : Bool :=
  sides.any fun v => runs v && decide (3 ≤ (sides.filter fun u => bits.testBit (3 - sideIdx u) && hears runs lost v u).length)

/-! ## Fencing (R331, R332) -/

/-- Accesses of a fenced cluster's elements that have not performed are dropped: what was on its way counts at a seam. -/
def State.dropAccesses (s : State) (cl : Nat) : State :=
  let mine (a : Access) : Bool := a.elem / 16 == cl && a.st != .performed
  let lost := s.accs.filter mine
  let s := (lost.filter fun a => a.st == .sent).foldl (fun s a =>
    s.countDrop cl ((Config.replyCrosses a.elem (sliceOf a.addr) cl).getD 0)) s
  let s := lost.foldl (fun s a => s.modElem a.elem fun e =>
    { e with landing := e.landing.map fun (w : Nat × Landing) => if w.2.isOpen && w.2.acc == a.win then (w.1, { w.2 with lost := true, orphan := true }) else w }) s
  { s with accs := s.accs.filter fun a => !mine a }

/-- A slot's paths and waymarks of a fenced cluster's elements. -/
def dropPaths (cl : Nat) (sl : Slot) : Slot :=
  { sl with paths := sl.paths.filter fun p => p.1 / 256 / 16 != cl, waymarks := sl.waymarks.filter fun p => p / 256 / 16 != cl }

/-- Open joint operations of a fenced cluster's quad end: the surviving tiles keep the steps they had taken, and the steps
of the A halves that remain queued add nothing (R206). -/
def State.endJoins (s : State) (cl : Nat) : State :=
  match (s.cluster cl).launch with
  | none => s
  | some l => match s.memberOf l cl with
    | none => s
    | some (q, _) => { s with joins := s.joins.map fun j =>
        if j.launch = l ∧ j.quad = q then { j with stop := true, done := true } else j }

/-- `CLUSTER.FENCE` word 0 at a fence (R333). -/
def fenceWord (old : Word) (reason votes now : Nat) : Word :=
  putField (putField (putField (putField old 63 62 1) 61 60 reason) 59 56 votes) 47 0 (now % 2 ^ 48)

/-- `FENCED_PEER` for every slot of a launch, and its move abandoned (R81, R331). -/
def State.fencedPeer (s : State) (l cl : Nat) : State :=
  let s := (s.slotKeys l).foldl (fun (s : State) k => s.raise k { num := 97, kind := 6, code := cl }) s
  if (s.launch l).moving.isSome || (s.launch l).moveBy.isSome then s.abortMove l else s

/-- Launches whose move waits for its boundary and is to take a cluster. -/
def State.plannedOn (s : State) (cl : Nat) : List Nat :=
  (s.agenda.filterMap fun d => match d.act with
    | .inl (.move l cc cr) =>
      let c := s.copyOf l
      if (s.launch l).moveBy.isSome && (rectOf (s.launch l).region cc cr c.pcol c.prow).contains cl then some l else none
    | _ => none).eraseDups

/-- A cluster fenced (R331): its seams close, its elements and array stop, its launch's slots receive `FENCED_PEER`, a
move is abandoned, and the fence is reported. The first appeal starts 1 ms later. -/
def State.fence (s : State) (cl votes : Nat) : State :=
  let c := s.cluster cl
  let s := s.modCluster cl fun c =>
    { c with fencedAt := some s.cycle, shut := true, fence0 := fenceWord c.fence0 c.reason votes s.cycle, fence1 := 0,
             voters := [], votes := [], told := [] }
  let s := (s.dropAccesses cl).endJoins cl
  let s := (List.range 16).foldl (fun s e => s.modElem (16 * cl + e) fun x => { x with tag := none, tagOld := none }) s
  let s := { s with slots := s.slots.map fun (e : Nat × Slot) => (e.1, dropPaths cl e.2) }
  let s := match c.launch with
    | none => s
    | some l =>
      s.fencedPeer l cl
  let s := (s.plannedOn cl).foldl (fun s l => s.fencedPeer l cl) s
  (s.report 107 cl (s.cluster cl).fence0.toNat).dueOp (s.cycle + 2000000) 4 none (.appealStart cl)

/-- A vote that does not fence: its accusers stay accusing, and each link is reported once. -/
def State.voteFails (s : State) (cl votes : Nat) : State :=
  sides.foldl (fun s d =>
    if votes.testBit (3 - sideIdx d) && !(s.cluster cl).told.contains (sideIdx d) then
      (s.modCluster cl fun c => { c with told := sideIdx d :: c.told }).report 111 cl 0
    else s) s

/-- VOTE_FENCE: the end of round 2. -/
def execVoteFence (cl : Nat) (lost : List (Dir × Dir)) (s : State) : Res :=
  match (s.cluster cl).votes with
  | [] => .next s
  | (t, bits) :: rest =>
    if s.cycle < t then .next s
    else if decides (s.voterRuns cl) lost bits then .next (s.fence cl bits)
    else .next ((s.modCluster cl fun c => { c with votes := rest }).voteFails cl bits)

/-! ## Appeals (R334) -/

def fenceState (c : Cluster) : Nat := field c.fence0 63 62
def appealsOf (c : Cluster) : Nat := field c.fence0 55 54

/-- APPEAL_START: the self-test begins, or a fourth appeal within an hour is refused for good. -/
def execAppealStart (cl : Nat) (s : State) : Res :=
  let c := s.cluster cl
  if c.fencedAt.isNone ∨ fenceState c ≠ 1 then .next s
  else if appealsOf c = 3 then
    .next ((s.modCluster cl fun c => { c with fence0 := putField c.fence0 63 62 3 }).report 110 cl (putField c.fence0 63 62 3).toNat)
  else
    let s := s.modCluster cl fun c => { c with fence0 := putField (putField c.fence0 63 62 2) 55 54 (appealsOf c + 1) }
    let s := s.dueOp (s.cycle + 7200000000000) 4 none (.appealsExpiry cl)
    let (id, s) := s.nextSerial
    let n := Config.testCycles id
    .next (if n ≤ 4000000 then s.dueOp (s.cycle + n + 128) 4 none (.appealVerdict cl (Config.testSignature id) [])
      else s.dueOp (s.cycle + 4000000) 4 none (.appealVerdict cl none []))

/-- APPEALS_EXPIRY: an appeal is 60 minutes old. -/
def execAppealsExpiry (cl : Nat) (s : State) : Res :=
  .next (s.modCluster cl fun c => { c with fence0 := putField c.fence0 55 54 (appealsOf c - 1) })

/-- Stored words of a cluster, whose check bits a self-test makes valid. -/
def clusterEcc (cl : Nat) : EccAt → Bool
  | .reg e _ | .res e _ | .resOld e _ | .mask e _ | .lut e _ => e / 16 == cl
  | .tile c _ | .wbuf c _ | .feed c => c == cl
  | _ => false

/-- What a self-test leaves: every storage of the cluster at zero. -/
def State.selfTested (s : State) (cl : Nat) : State :=
  let s := (List.range 16).foldl (fun s e => s.setElem (16 * cl + e) {}) s
  let s := s.modCluster cl fun c =>
    { launch := c.launch, page := c.page, saggar := c.saggar, gated := c.gated, wakeAt := c.wakeAt, fence0 := c.fence0,
      fence1 := c.fence1, shut := c.shut, reason := c.reason, fencedAt := c.fencedAt }
  { s with ecc := s.ecc.filter fun e => !clusterEcc cl e.1 }

/-- APPEAL_VERDICT: three matching verdicts readmit the cluster; any other outcome leaves it fenced, and the next appeal
is 1 s away. -/
def execAppealVerdict (cl : Nat) (sig : Option (BitVec 64)) (lost : List (Dir × Dir)) (s : State) : Res :=
  let c := s.cluster cl
  if fenceState c ≠ 2 then .next s
  else
    let s := s.selfTested cl
    let ok := sig == some (Config.romSignature cl)
    let bits := sumNat (sides.map fun d => if ok && s.voterRuns cl d then sideBit d else 0)
    if decides (s.voterRuns cl) lost bits then
      .next (s.modCluster cl fun c =>
        { c with fencedAt := none, fence0 := putField c.fence0 63 62 0, fence1 := 0,
                 voters := sides.map fun d => (sideIdx d, .trusting) })
    else
      .next (((s.modCluster cl fun c => { c with fence0 := putField c.fence0 63 62 1 }).report 109 cl (putField c.fence0 63 62 1).toNat).dueOp
        (s.cycle + 2000000000) 4 none (.appealStart cl))

end Sys2Proof.Machine
end

