-- ==== Sys2Proof/Machine/Dispatch.lean ====
section
/-! DEFINITION. The meaning of every instruction: one arm for each row of spec/opcode_table.json. -/

namespace Sys2Proof.Machine

/-- One step of the device for an instruction. -/
def exec (i : Instr) (s : State) : Host.Outcome State Fault Refusal :=
  match i with
  | .nop o => Sys2Proof.Machine.execNop o s
  | .pass o => Sys2Proof.Machine.execPass o s
  | .ptest o => Sys2Proof.Machine.execPtest o s
  | .add t o => Sys2Proof.Machine.execAdd t o s
  | .sub t o => Sys2Proof.Machine.execSub t o s
  | .mul t o => Sys2Proof.Machine.execMul t o s
  | .mulh t o => Sys2Proof.Machine.execMulh t o s
  | .mad t o => Sys2Proof.Machine.execMad t o s
  | .min t o => Sys2Proof.Machine.execMin t o s
  | .max t o => Sys2Proof.Machine.execMax t o s
  | .abs t o => Sys2Proof.Machine.execAbs t o s
  | .neg t o => Sys2Proof.Machine.execNeg t o s
  | .cmp c t o => Sys2Proof.Machine.execCmp c t o s
  | .sel t o => Sys2Proof.Machine.execSel t o s
  | .and o => Sys2Proof.Machine.execAnd o s
  | .or o => Sys2Proof.Machine.execOr o s
  | .xor o => Sys2Proof.Machine.execXor o s
  | .andn o => Sys2Proof.Machine.execAndn o s
  | .shl o => Sys2Proof.Machine.execShl o s
  | .shr o => Sys2Proof.Machine.execShr o s
  | .sra o => Sys2Proof.Machine.execSra o s
  | .rot o => Sys2Proof.Machine.execRot o s
  | .clz o => Sys2Proof.Machine.execClz o s
  | .popc o => Sys2Proof.Machine.execPopc o s
  | .bfxN32 o => Sys2Proof.Machine.execBfxN32 o s
  | .bfxI32 o => Sys2Proof.Machine.execBfxI32 o s
  | .bfi o => Sys2Proof.Machine.execBfi o s
  | .fadd t o => Sys2Proof.Machine.execFadd t o s
  | .fsub t o => Sys2Proof.Machine.execFsub t o s
  | .fmul t o => Sys2Proof.Machine.execFmul t o s
  | .fma t o => Sys2Proof.Machine.execFma t o s
  | .fmin t o => Sys2Proof.Machine.execFmin t o s
  | .fmax t o => Sys2Proof.Machine.execFmax t o s
  | .fabs t o => Sys2Proof.Machine.execFabs t o s
  | .fneg t o => Sys2Proof.Machine.execFneg t o s
  | .fcmp c t o => Sys2Proof.Machine.execFcmp c t o s
  | .fclass t o => Sys2Proof.Machine.execFclass t o s
  | .fscale t o => Sys2Proof.Machine.execFscale t o s
  | .fround t o => Sys2Proof.Machine.execFround t o s
  | .cvt d s2 o => Sys2Proof.Machine.execCvt d s2 o s
  | .mxq f o => Sys2Proof.Machine.execMxq f o s
  | .mxdq f o => Sys2Proof.Machine.execMxdq f o s
  | .bpsplit o => Sys2Proof.Machine.execBpsplit o s
  | .bpjoin o => Sys2Proof.Machine.execBpjoin o s
  | .pack t o => Sys2Proof.Machine.execPack t o s
  | .unpack t o => Sys2Proof.Machine.execUnpack t o s
  | .perm o => Sys2Proof.Machine.execPerm o s
  | .bcast o => Sys2Proof.Machine.execBcast o s
  | .lsh o => Sys2Proof.Machine.execLsh o s
  | .rsum t o => Sys2Proof.Machine.execRsum t o s
  | .rmax t o => Sys2Proof.Machine.execRmax t o s
  | .segscan t o => Sys2Proof.Machine.execSegscan t o s
  | .grp o => Sys2Proof.Machine.execGrp o s
  | .lut o => Sys2Proof.Machine.execLut o s
  | .lutr o => Sys2Proof.Machine.execLutr o s
  | .lutc o => Sys2Proof.Machine.execLutc o s
  | .lds o => Sys2Proof.Machine.execLds o s
  | .sts t o => Sys2Proof.Machine.execSts t o s
  | .ldx o => Sys2Proof.Machine.execLdx o s
  | .stx o => Sys2Proof.Machine.execStx o s
  | .ldt t o => Sys2Proof.Machine.execLdt t o s
  | .send o => Sys2Proof.Machine.execSend o s
  | .recv o => Sys2Proof.Machine.execRecv o s
  | .ldw o => Sys2Proof.Machine.execLdw o s
  | .stw o => Sys2Proof.Machine.execStw o s
  | .ldsy o => Sys2Proof.Machine.execLdsy o s
  | .mcast o => Sys2Proof.Machine.execMcast o s
  | .atomAdd t o => Sys2Proof.Machine.execAtomAdd t o s
  | .atomMin t o => Sys2Proof.Machine.execAtomMin t o s
  | .atomMax t o => Sys2Proof.Machine.execAtomMax t o s
  | .atomAnd o => Sys2Proof.Machine.execAtomAnd o s
  | .atomOr o => Sys2Proof.Machine.execAtomOr o s
  | .atomXor o => Sys2Proof.Machine.execAtomXor o s
  | .atomXchg o => Sys2Proof.Machine.execAtomXchg o s
  | .atomCas o => Sys2Proof.Machine.execAtomCas o s
  | .atomInc o => Sys2Proof.Machine.execAtomInc o s
  | .treq o => Sys2Proof.Machine.execTreq o s
  | .mfa t o => Sys2Proof.Machine.execMfa t o s
  | .mfb f o => Sys2Proof.Machine.execMfb f o s
  | .mzero o => Sys2Proof.Machine.execMzero o s
  | .mdrain t o => Sys2Proof.Machine.execMdrain t o s
  | .mjoin o => Sys2Proof.Machine.execMjoin o s
  | .mchk o => Sys2Proof.Machine.execMchk o s
  | .dtap o => Sys2Proof.Machine.execDtap o s
  | .seqAdd d x y => Sys2Proof.Machine.execSeqAdd d x y s
  | .seqSub d x y => Sys2Proof.Machine.execSeqSub d x y s
  | .seqMul d x y => Sys2Proof.Machine.execSeqMul d x y s
  | .seqMulh d x y => Sys2Proof.Machine.execSeqMulh d x y s
  | .seqMulhu d x y => Sys2Proof.Machine.execSeqMulhu d x y s
  | .seqAnd d x y => Sys2Proof.Machine.execSeqAnd d x y s
  | .seqOr d x y => Sys2Proof.Machine.execSeqOr d x y s
  | .seqXor d x y => Sys2Proof.Machine.execSeqXor d x y s
  | .seqAndn d x y => Sys2Proof.Machine.execSeqAndn d x y s
  | .seqShl d x y => Sys2Proof.Machine.execSeqShl d x y s
  | .seqShr d x y => Sys2Proof.Machine.execSeqShr d x y s
  | .seqSra d x y => Sys2Proof.Machine.execSeqSra d x y s
  | .seqMin d x y => Sys2Proof.Machine.execSeqMin d x y s
  | .seqMax d x y => Sys2Proof.Machine.execSeqMax d x y s
  | .seqMinu d x y => Sys2Proof.Machine.execSeqMinu d x y s
  | .seqMaxu d x y => Sys2Proof.Machine.execSeqMaxu d x y s
  | .addi d x imm => Sys2Proof.Machine.execAddi d x imm s
  | .andi d x imm => Sys2Proof.Machine.execAndi d x imm s
  | .ori d x imm => Sys2Proof.Machine.execOri d x imm s
  | .xori d x imm => Sys2Proof.Machine.execXori d x imm s
  | .shli d x n => Sys2Proof.Machine.execShli d x n s
  | .shri d x n => Sys2Proof.Machine.execShri d x n s
  | .srai d x n => Sys2Proof.Machine.execSrai d x n s
  | .li d imm => Sys2Proof.Machine.execLi d imm s
  | .lsi d imm => Sys2Proof.Machine.execLsi d imm s
  | .kcmp c k x y => Sys2Proof.Machine.execKcmp c k x y s
  | .kand k x y => Sys2Proof.Machine.execKand k x y s
  | .kor k x y => Sys2Proof.Machine.execKor k x y s
  | .kxor k x y => Sys2Proof.Machine.execKxor k x y s
  | .knot k x => Sys2Proof.Machine.execKnot k x s
  | .ld t d base imm => Sys2Proof.Machine.execLd t d base imm s
  | .st t x base imm => Sys2Proof.Machine.execSt t x base imm s
  | .beq x y off => Sys2Proof.Machine.execBeq x y off s
  | .bne x y off => Sys2Proof.Machine.execBne x y off s
  | .blt x y off => Sys2Proof.Machine.execBlt x y off s
  | .bltu x y off => Sys2Proof.Machine.execBltu x y off s
  | .bge x y off => Sys2Proof.Machine.execBge x y off s
  | .bgeu x y off => Sys2Proof.Machine.execBgeu x y off s
  | .bk k off => Sys2Proof.Machine.execBk k off s
  | .bnk k off => Sys2Proof.Machine.execBnk k off s
  | .j off => Sys2Proof.Machine.execJ off s
  | .call d off => Sys2Proof.Machine.execCall d off s
  | .ret x => Sys2Proof.Machine.execRet x s
  | .jr x => Sys2Proof.Machine.execJr x s
  | .loop n desc => Sys2Proof.Machine.execLoop n desc s
  | .run desc => Sys2Proof.Machine.execRun desc s
  | .hold slots => Sys2Proof.Machine.execHold slots s
  | .wake slots => Sys2Proof.Machine.execWake slots s
  | .csync m => Sys2Proof.Machine.execCsync m s
  | .ctok line => Sys2Proof.Machine.execCtok line s
  | .rvinit x w => Sys2Proof.Machine.execRvinit x w s
  | .rvarr w => Sys2Proof.Machine.execRvarr w s
  | .rvwait w => Sys2Proof.Machine.execRvwait w s
  | .hwait h => Sys2Proof.Machine.execHwait h s
  | .hfree h => Sys2Proof.Machine.execHfree h s
  | .hstat d h => Sys2Proof.Machine.execHstat d h s
  | .sbar set => Sys2Proof.Machine.execSbar set s
  | .fenceWay => Sys2Proof.Machine.execFenceWay s
  | .fence scope => Sys2Proof.Machine.execFence scope s
  | .mload x => Sys2Proof.Machine.execMload x s
  | .mswap x => Sys2Proof.Machine.execMswap x s
  | .mcancel => Sys2Proof.Machine.execMcancel s
  | .dpatch x first more => Sys2Proof.Machine.execDpatch x first more s
  | .dset x c => Sys2Proof.Machine.execDset x c s
  | .dstep n p dom => Sys2Proof.Machine.execDstep n p dom s
  | .dstop dom => Sys2Proof.Machine.execDstop dom s
  | .dsave x => Sys2Proof.Machine.execDsave x s
  | .drest x => Sys2Proof.Machine.execDrest x s
  | .trap code => Sys2Proof.Machine.execTrap code s
  | .eret => Sys2Proof.Machine.execEret s
  | .csrr d n => Sys2Proof.Machine.execCsrr d n s
  | .csrw x n => Sys2Proof.Machine.execCsrw x n s
  | .halt => Sys2Proof.Machine.execHalt s
  | .nrg d m => Sys2Proof.Machine.execNrg d m s
  | .gen d => Sys2Proof.Machine.execGen d s
  | .objectLoad ld r => Sys2Proof.Machine.execObjectLoad ld r s
  | .launchArgCheck l => Sys2Proof.Machine.execLaunchArgCheck l s
  | .launchAging l => Sys2Proof.Machine.execLaunchAging l s
  | .placement => Sys2Proof.Machine.execPlacement s
  | .pageArm l page => Sys2Proof.Machine.execPageArm l page s
  | .launchSlotsStart l => Sys2Proof.Machine.execLaunchSlotsStart l s
  | .move l cc0 cr0 => Sys2Proof.Machine.execMove l cc0 cr0 s
  | .moveAbort l => Sys2Proof.Machine.execMoveAbort l s
  | .moveDone l => Sys2Proof.Machine.execMoveDone l s
  | .kilnReconcile sensed total => Sys2Proof.Machine.execKilnReconcile sensed total s
  | .kilnBudgetWrite v => Sys2Proof.Machine.execKilnBudgetWrite v s
  | .mloadDone l cfg => Sys2Proof.Machine.execMloadDone l cfg s
  | .milestoneCommit l => Sys2Proof.Machine.execMilestoneCommit l s
  | .milestoneCancel l page => Sys2Proof.Machine.execMilestoneCancel l page s
  | .milestoneSwitch l => Sys2Proof.Machine.execMilestoneSwitch l s
  | .planeRelease l => Sys2Proof.Machine.execPlaneRelease l s
  | .windowDataArrival acc => Sys2Proof.Machine.execWindowDataArrival acc s
  | .windowClose elem entry => Sys2Proof.Machine.execWindowClose elem entry s
  | .regScrub elem => Sys2Proof.Machine.execRegScrub elem s
  | .accScrub cluster => Sys2Proof.Machine.execAccScrub cluster s
  | .sliceScrub slice => Sys2Proof.Machine.execSliceScrub slice s
  | .hbmScrubReport stack addr => Sys2Proof.Machine.execHbmScrubReport stack addr s
  | .matrixStep cluster => Sys2Proof.Machine.execMatrixStep cluster s
  | .joinComplete join => Sys2Proof.Machine.execJoinComplete join s
  | .joinStall join => Sys2Proof.Machine.execJoinStall join s
  | .counterUpdate upd => Sys2Proof.Machine.execCounterUpdate upd s
  | .expertCounterWrite slice block word v => Sys2Proof.Machine.execExpertCounterWrite slice block word v s
  | .channelBeatArrival beat => Sys2Proof.Machine.execChannelBeatArrival beat s
  | .recvHoldExpiry beat => Sys2Proof.Machine.execRecvHoldExpiry beat s
  | .sliceFillRead acc => Sys2Proof.Machine.execSliceFillRead acc s
  | .stampCheck acc => Sys2Proof.Machine.execStampCheck acc s
  | .writeBackRead elem => Sys2Proof.Machine.execWriteBackRead elem s
  | .writeBackPerform acc => Sys2Proof.Machine.execWriteBackPerform acc s
  | .atomicPerform acc => Sys2Proof.Machine.execAtomicPerform acc s
  | .mcastReplica acc => Sys2Proof.Machine.execMcastReplica acc s
  | .transferUnitLand req unit r => Sys2Proof.Machine.execTransferUnitLand req unit r s
  | .handleFull region h => Sys2Proof.Machine.execHandleFull region h s
  | .fetchDeadline req => Sys2Proof.Machine.execFetchDeadline req s
  | .firmwareCycleSteal region => Sys2Proof.Machine.execFirmwareCycleSteal region s
  | .firmwareCopyDone req units => Sys2Proof.Machine.execFirmwareCopyDone req units s
  | .handleDrainEnd region h => Sys2Proof.Machine.execHandleDrainEnd region h s
  | .xlatInval v => Sys2Proof.Machine.execXlatInval v s
  | .sliceSlotsApply slice => Sys2Proof.Machine.execSliceSlotsApply slice s
  | .hostMemwinWrite n v => Sys2Proof.Machine.execHostMemwinWrite n v s
  | .waymarkAck slot elem slice => Sys2Proof.Machine.execWaymarkAck slot elem slice s
  | .rvwaitResume slot => Sys2Proof.Machine.execRvwaitResume slot s
  | .hwaitResume slot => Sys2Proof.Machine.execHwaitResume slot s
  | .csyncRelease l => Sys2Proof.Machine.execCsyncRelease l s
  | .sequencerWake region => Sys2Proof.Machine.execSequencerWake region s
  | .fenceResume slot => Sys2Proof.Machine.execFenceResume slot s
  | .ddaStep region dom => Sys2Proof.Machine.execDdaStep region dom s
  | .dpatchDone slot => Sys2Proof.Machine.execDpatchDone slot s
  | .dsaveDone slot bad => Sys2Proof.Machine.execDsaveDone slot bad s
  | .drestDone slot => Sys2Proof.Machine.execDrestDone slot s
  | .trapDelivery slot => Sys2Proof.Machine.execTrapDelivery slot s
  | .linkUp l remote rport => Sys2Proof.Machine.execLinkUp l remote rport s
  | .thermalRecovery => Sys2Proof.Machine.execThermalRecovery s
  | .sharedPointAnswer slot => Sys2Proof.Machine.execSharedPointAnswer slot s
  | .badTokenWrite host port why => Sys2Proof.Machine.execBadTokenWrite host port why s
  | .clusterPowerGate cluster => Sys2Proof.Machine.execClusterPowerGate cluster s
  | .appealsExpiry cluster => Sys2Proof.Machine.execAppealsExpiry cluster s
  | .csyncStall l => Sys2Proof.Machine.execCsyncStall l s
  | .wakeLate region => Sys2Proof.Machine.execWakeLate region s
  | .wallClr region => Sys2Proof.Machine.execWallClr region s
  | .winmissClr slot => Sys2Proof.Machine.execWinmissClr slot s
  | .poisonOriginClr slot => Sys2Proof.Machine.execPoisonOriginClr slot s
  | .siteerrClr slot => Sys2Proof.Machine.execSiteerrClr slot s
  | .accerrClr cluster => Sys2Proof.Machine.execAccerrClr cluster s
  | .ddaErrClr region => Sys2Proof.Machine.execDdaErrClr region s
  | .heartbeat cluster => Sys2Proof.Machine.execHeartbeat cluster s
  | .heartbeatJudge cluster side ob => Sys2Proof.Machine.execHeartbeatJudge cluster side ob s
  | .babble cluster side => Sys2Proof.Machine.execBabble cluster side s
  | .vote cluster => Sys2Proof.Machine.execVote cluster s
  | .voteFence cluster lost => Sys2Proof.Machine.execVoteFence cluster lost s
  | .appealStart cluster => Sys2Proof.Machine.execAppealStart cluster s
  | .appealVerdict cluster sig lost => Sys2Proof.Machine.execAppealVerdict cluster sig lost s
  | .launchRetire l => Sys2Proof.Machine.execLaunchRetire l s
  | .unloadGo region v => Sys2Proof.Machine.execUnloadGo region v s
  | .copyRelease region => Sys2Proof.Machine.execCopyRelease region s
  | .preemptGo region v => Sys2Proof.Machine.execPreemptGo region v s
  | .regionHalt region => Sys2Proof.Machine.execRegionHalt region s
  | .imageSaveDone region => Sys2Proof.Machine.execImageSaveDone region s
  | .preemptResume region v => Sys2Proof.Machine.execPreemptResume region v s
  | .regionResume region => Sys2Proof.Machine.execRegionResume region s
  | .preemptKill region v => Sys2Proof.Machine.execPreemptKill region v s
  | .pagecopyOut region v => Sys2Proof.Machine.execPagecopyOut region v s
  | .pagecopyIn region v => Sys2Proof.Machine.execPagecopyIn region v s
  | .pagecopyDone region => Sys2Proof.Machine.execPagecopyDone region s
  | .orphansClr slice => Sys2Proof.Machine.execOrphansClr slice s
  | .peerRetryClr n => Sys2Proof.Machine.execPeerRetryClr n s
  | .registerWrite host off v => Sys2Proof.Machine.execRegisterWrite host off v s
  | .hostLinkReset host => Sys2Proof.Machine.execHostLinkReset host s
  | .hostMemAccess host write addr d => Sys2Proof.Machine.execHostMemAccess host write addr d s
  | .cxlSnoop host addr => Sys2Proof.Machine.execCxlSnoop host addr s
  | .peerFlit l f => Sys2Proof.Machine.execPeerFlit l f s
  | .linkDown l => Sys2Proof.Machine.execLinkDown l s
  | .peerRequest n write off d => Sys2Proof.Machine.execPeerRequest n write off d s
  | .firmwareBoot image signed settings => Sys2Proof.Machine.execFirmwareBoot image signed settings s
  | .trustExtend j d => Sys2Proof.Machine.execTrustExtend j d s
  | .trustAttest => Sys2Proof.Machine.execTrustAttest s
  | .attestReport => Sys2Proof.Machine.execAttestReport s
  | .thermal w => Sys2Proof.Machine.execThermal w s
  | .dieOverheat die => Sys2Proof.Machine.execDieOverheat die s
  | .powerFault supply => Sys2Proof.Machine.execPowerFault supply s
  | .mgmtWatchdog => Sys2Proof.Machine.execMgmtWatchdog s
  | .debugWrite region addr bytes => Sys2Proof.Machine.execDebugWrite region addr bytes s
  | .moduleReset => Sys2Proof.Machine.execModuleReset s
  | .openTok t => Sys2Proof.Machine.execOpenTok t s
  | .paramTok t => Sys2Proof.Machine.execParamTok t s
  | .dataTok t => Sys2Proof.Machine.execDataTok t s
  | .closeTok t => Sys2Proof.Machine.execCloseTok t s
  | .ingressClr port => Sys2Proof.Machine.execIngressClr port s
  | .hostSemWrite host n v => Sys2Proof.Machine.execHostSemWrite host n v s

end Sys2Proof.Machine
end

