-- ==== Sys2Proof/Machine/Effects.lean ====
section
/-! DEFINITION. What each effect of the agenda does on its cycle. -/

namespace Sys2Proof.Machine

/-- An effect performed. -/
def State.runEffect (s : State) (e : Effect) : State :=
  match e with
  | .fret key edge v => (s.runFret key v).note key edge [] [] s
  | .token key line unit => s.runToken key line unit
  | .hold r set => s.runHold r set true
  | .wake r set => s.runHold r set false
  | .seqLoad key d t site off last => s.runSeqLoad key d t site off last
  | .seqStore key gen site off v n last epc => s.runSeqStore key gen site off v n last epc
  | .tvec key v => s.runTvec key v
  | .value key d v => s.runValue key d v
  | .merge key elem gen site bytes =>
    (s.merge elem gen site bytes).note key (s.cycle - 8 - elemCol elem) ((List.range 16).map (elem / 16 * 16 + ·)) [] s
  | .rvInit key l w v live => s.runRvInit key l w v live
  | .rvArrive key l w ac live => s.runRvArrive key l w ac live
  | .rvSignal l w => s.runRvSignal l w
  | .rvAnswer key => s.runRvAnswer key
  | .hFree key h => s.runHFree key h
  | .drain r h i => s.runDrain r h i
  | .hStat key d h => s.runHStat key d h
  | .domSet r d n p key => s.runDomSet r d n p key
  | .domStop r d => s.runDomStop r d
  | .ddaEmit r es => s.runEmit r es
  | .ddaHalt r => s.runDdaHalt r
  | .cellSet r c v => s.runCellSet r c v
  | .patchWord key first j n site off last got => s.runPatchWord key first j n site off last got
  | .patched .. => s
  | .saveUnit key => s.runSaveUnit key
  | .lifeEnd l es => es.foldl (fun s e => s.endLife l e.1 e.2.1 e.2.2) s
  | .babbleMark cl => s.runBabbleMark cl
  | .mend es => s.runMend es

end Sys2Proof.Machine
end

