-- ==== Sys2Proof/Machine/Fetch.lean ====
section
/-! DEFINITION. Fetching and issuing (07 R120 to R125, 06 R107, 05 R89): the line of a slot's turn, the next beat to
execute, and the control word of a slot's turn. -/

namespace Sys2Proof.Machine

/-! ## Sites that lines name (R210, R302) -/

def siteOfWord (w : SchedWord) : Option Nat :=
  match decodeSched w with
  | .ok i => (siteOperand i).map siteNo
  | .error _ => none

/-- Sites of one LIFE that some lines of a kernel name. -/
def State.sitesOf (s : State) (key : Nat) (old : Option Nat) (lines : List Nat) (life : Nat) : List (Nat × Site) :=
  let ns := (lines.flatMap fun j => (s.lineOf key old j).filterMap siteOfWord).eraseDups
  (s.planeOf key old).sites.filter fun e => e.2.life == life && ns.contains e.1

/-- The lines of a loop or run, and all lines of its kernel. -/
def Issue.ownLines (x : Issue) : List Nat := (List.range x.lines).map (descLine0 x.desc + ·)
def State.kernelLines (s : State) (key : Nat) (old : Option Nat) : List Nat :=
  List.range (kernelOf (s.planeOf key old) (s.slot key).kernel).slcnt

/-- The lifetimes of one LIFE that end on this cycle, at its end: after the beats that execute on it. -/
def State.endSites (s : State) (key : Nat) (old : Option Nat) (lines : List Nat) (life : Nat) : State :=
  let l := (s.slot key).launch
  let c := s.copyOf l
  match (s.sitesOf key old lines life).map fun e => (pageCluster (s.launch l) c e.2.page, e.1, e.2) with
  | [] => s
  | es => s.dueEff s.cycle 127 none (.lifeEnd l es)

/-! ## The fetch of a line (R107) -/

/-- The cause of a fetch of a word that decodes to no instruction (R107). The causes of a load that have no row in its table,
`REG_OVERLAP` among them, are ILLEGAL_MINOR at fetch: log entry 61. -/
def errCause : DecErr → Nat
  | .rsvMajor => 112
  | _ => 113

/-- The first row of a line with a fetch fate, and its cause: an uncorrectable word, one that does not decode, or one that
R93 and R95 refuse for the page set's shape. Of several rows, the lowest is taken: log entry 61. -/
def State.lineFate (s : State) (key : Nat) (old : Option Nat) (line : Nat) (ws : List SchedWord) : Option (Nat × Nat) :=
  let c := s.planeOf key old
  let k := kernelOf c (s.slot key).kernel
  (ws.mapIdx fun r w => (r, w)).findSome? fun x =>
    if !s.ecc.isEmpty && (List.range 10).any fun i => s.eccBad (.sched (key / 8) (lineAddr c k line x.1 + i)) then some (x.1, 99)
    else match decodeSched x.2 with
      | .ok i => (shapeOk (copyRows c) (4 * c.pcol) x.1 i).map fun _ => (x.1, 113)
      | .error e => some (x.1, errCause e)

/-- Low word of a broadcast register (R122). -/
def bcastOf (sl : Slot) (sel idx : Nat) : LaneWord :=
  if sel = 7 then (sl.areg (Fin.ofNat 32 idx)).setWidth 32 else 0

/-- The eight samples that a tap carries (R262). -/
def tapsOf (g : Region) (w : SchedWord) (beat : Nat) : List (BitVec 33) :=
  if field w 79 74 = 28 then (List.range 8).map fun i => (g.cell (field w 8 0 + 8 * beat + i)).y else []

/-- One beat of a row's word, as it leaves the edge. -/
def State.flightOf (s : State) (key : Nat) (x : Issue) (line row : Nat) (w : SchedWord) : Flight :=
  let sl := s.slot key
  let l := s.launch sl.launch
  let site := match siteOfWord w with | some n => look 0 sl.siteBase n | none => 0
  { region := key / 8, slot := key % 8, launch := sl.launch, gen := x.old.getD l.gen, row := 4 * l.cr0 + row,
    col := 4 * l.cc0 + field w 64 60, colL := 4 * l.cc0 + field w 59 55, cc0 := l.cc0, edge := s.cycle, beat := x.beat,
    word := w, pos := x, line := line, rb := sl.rb, ctr2 := sl.ctr2, ctr3 := sl.ctr3, fmt := sl.lineFmt,
    bA := bcastOf sl (field w 48 46) (field w 45 40), bB := bcastOf sl (field w 39 37) (field w 36 31),
    taps := tapsOf (s.region (key / 8)) w x.beat, base := site }

/-! ## Issue (R120 to R125) -/

/-- A gated turn: the first n of each 16 turns of the firing window (R89, log entry 18). -/
def gatedTurn (cycle gate : Nat) : Bool := decide (cycle % 200000 / 8 % 16 < gate)

/-- Whether the slot issues a beat on its turn. A beat or line that trapped while a rendezvous word awaited its outcome
stops the issue at once (R306, R307). -/
def State.mayIssue (s : State) (key : Nat) : Bool :=
  let sl := s.slot key
  sl.bound && !sl.ended && !sl.active && sl.issuing && !(s.launch sl.launch).halted
    && (match sl.start with | some t => decide (t ≤ s.cycle) | none => false)
    && !(sl.raised.any fun r => r.kind == 1 || r.kind == 5) && !((sl.held || sl.moved) && sl.cur.beat == 0) && !gatedTurn s.cycle sl.gate && decide (sl.cur.startAt ≤ s.cycle)

/-- One base step of the slot (R124, R136, R209): it ends the LIFE 0 lifetimes of every site that its kernel names (R210). -/
def State.baseStep (s : State) (key : Nat) (x : Issue) : State :=
  let q := (s.kernelAt key).qcnt
  let s := s.modSlot key fun sl =>
    { sl with rb := if q = 0 then sl.rb else BitVec.ofNat 5 ((sl.rb.toNat + q - 1) % q), ctr2 := sl.ctr2 + 1 }
  s.endSites key x.old (s.kernelLines key x.old) 0

/-- The position after one beat of a line of `beats` beats has left the edge. -/
def State.stepIssue (s : State) (key beats : Nat) : State :=
  let x := (s.slot key).cur
  let set (s : State) (y : Issue) : State := s.modSlot key fun sl => { sl with cur := y }
  if x.beat + 1 < beats then set s { x with beat := x.beat + 1 }
  else if x.line + 1 < x.lines then set s { x with beat := 0, line := x.line + 1 }
  else
    let s := if x.kind = .loop then s.baseStep key x else s
    if x.iter + 1 < x.iters then set s { x with beat := 0, line := 0, iter := x.iter + 1 }
    else
      let s := if x.old.isSome then s else s.endSites key none x.ownLines 1
      s.modSlot key fun sl => match sl.following with
        | y :: ys => { sl with cur := y, following := ys }
        | [] => { sl with cur := {}, sentAt := some s.cycle }

/-- The beat of a slot's turn leaves the edge in every row of its line, or the line's fetch traps (R107, R120). -/
def State.issueBeat (s : State) (key : Nat) : State :=
  let x := (s.slot key).cur
  let line := descLine0 x.desc + x.line
  let ws := s.lineOf key x.old line
  let live := x.live x.iter x.line
  match (if live && x.beat == 0 then s.lineFate key x.old line ws else none) with
  | some (row, c) =>
    (if c = 99 then s.report 99 (key / 8) 0 else s).raiseNow key { num := c, kind := 5, row := 4 * (s.launch (s.slot key).launch).cr0 + row, line := line }
  | none =>
    let s := s.modSlot key fun sl =>
      let sl := if x.started then sl else { sl with ctr2 := 0, ctr3 := sl.unit, cur := { x with started := true } }
      if x.beat = 0 then { sl with lineFmt := sl.fmt } else sl
    let y := (s.slot key).cur
    let fs := (ws.mapIdx fun r w => (r, w)).filterMap fun e =>
      if live && decide (x.beat ≤ field e.2 67 65) then some (s.flightOf key y line e.1 e.2) else none
    ({ s with flights := s.flights ++ fs } : State).stepIssue key (lineBeats ws)

/-- A slot's turn at its row fetch units. -/
def State.issueTurn (s : State) (region : Nat) : State :=
  let key := slotKey region (s.cycle % 8)
  let sl := s.slot key
  let s := if sl.cur.kind = .idle then s.modSlot key fun sl => match sl.following with
      | y :: ys => { sl with cur := y, following := ys }
      | [] => sl
    else s
  if s.mayIssue key then s.issueBeat key else s

/-- A raised cause is delivered on the slot's turn (R306, R307), one of point S or A on a turn after its event. -/
def State.deliverable (s : State) (key : Nat) : Bool :=
  let sl := s.slot key
  sl.bound && (sl.raised.any fun r => decide (r.at_ < s.cycle ∨ r.at_ = 0)) && !sl.awaiting s.cycle && !(s.launch sl.launch).halted && !sl.ended

/-! ## Beats (R120) -/

/-- The place of a beat in the order of its cycle: region, then region element index. -/
def Flight.order (f : Flight) : Nat := 512 * f.region + elemIdx f.row f.col

/-- The first beat due on a cycle. -/
def nextBeat (now : Nat) : List Flight → Option Flight → Option Flight
  | [], b => b
  | f :: fs, b =>
    if decide (f.edge + f.col = now) && (match b with | none => true | some g => decide (f.order < g.order)) then nextBeat now fs (some f) else nextBeat now fs b

/-- The flights after a beat executes at its column: it goes one column on, or ends. -/
def passBeat (f : Flight) (l : List Flight) : List Flight :=
  if f.col < f.colL then l.map fun g => if g = f then { g with col := g.col + 1 } else g else l.erase f

/-- The state in which a beat executes at its element. -/
def State.atBeat (s : State) (f : Flight) : State :=
  { s with flights := passBeat f s.flights,
           ctx := { region := f.region, slot := f.slot, flight := some f, elem := elemAt f.region f.row f.col,
                    row := f.row, col := f.col } }

/-! ## Control words (R107, R123) -/

/-- What the slot of a turn does at the sequencer. -/
inductive Turn
  | pass
  /-- The firmware path took the cycle (R246). -/
  | stolen
  /-- A wait ends, and the slot's next word follows on the same turn. -/
  | resume (i : Instr)
  | word (i : Instr)
  | fault (num kind : Nat)

/-- The control word at the PC, or its fetch fate. -/
def State.fetchWord (s : State) (key : Nat) : Turn :=
  let sl := s.slot key
  let c := s.copyOf sl.launch
  let k := s.kernelAt key
  let n := sl.pc.toNat
  if k.words ≤ n then .fault 26 0
  else if !s.ecc.isEmpty && (List.range 5).any fun i => s.eccBad (.sched (key / 8) (ctrlAddr c k n + i)) then .fault 100 5
  else match decodeCtrl (ctrlWordAt (s.region (key / 8)) c k n) with
    | .ok i => if branchInside n k.words i then .word i else .fault 113 5
    | .error e => .fault (errCause e) 5

/-- The turn of a slot at the sequencer (R123). -/
def State.turn (s : State) (region : Nat) : Turn :=
  let key := slotKey region (s.cycle % 8)
  let sl := s.slot key
  let g := s.region region
  let started := match sl.start with | some t => decide (t ≤ s.cycle) | none => false
  if !sl.bound || !started || sl.ended || (s.launch sl.launch).halted || g.gatedSeq || sl.held || sl.moved || decide (s.cycle < sl.busy) then .pass
  else if g.steal then .stolen
  else match sl.wait with
    | .none | .loop | .rvOut => s.fetchWord key
    | .release => if (s.launch sl.launch).oldGen.isSome then .pass else s.fetchWord key
    | .rv _ (some t) => if t ≤ s.cycle then .resume (.rvwaitResume key) else .pass
    | .handle _ (some t) => if t ≤ s.cycle then .resume (.hwaitResume key) else .pass
    | .fence scope since => if s.fenceDone key scope since then .resume (.fenceResume key) else .pass
    | .timed | .rv .. | .handle .. | .csync .. | .save .. | .restore _ | .away .. => .pass

/-- The state in which a control word executes. -/
def State.atWord (s : State) (region : Nat) : State :=
  let s := { s with ctx := { region := region, slot := s.cycle % 8 } }
  s.setMe { s.me with wait := .none }

end Sys2Proof.Machine
end

