-- ==== Sys2Proof/Machine/Cycle.lean ====
section
/-! DEFINITION. The course of a cycle: entries due before issue, the rows' issue, the beats, the control words, entries
due at the cycle's end, and what the device then does of itself (01 R19, 07 R120 to R123, 17 R289, R293, R294, 21
R328). -/

namespace Sys2Proof.Machine

/-! ## Entries of the agenda -/

/-- An entry of the agenda performed. -/
def State.runDue (s : State) (d : Due) : Res :=
  let s := { s with agenda := dropDue d s.agenda, ctx := {} }
  match d.act with
  | .inl i => exec i s
  | .inr e => .next (s.runEffect e)

/-- Entries due before the rows issue. -/
def State.startPhase (s : State) : Res :=
  match firstDue s.cycle (fun r => decide (r < 100)) s.agenda none with
  | some d => s.runDue d
  | none => .next { s with phase := .issue 0 }

/-! ## Issue, beats and control words -/

def afterIssue (r : Nat) : Phase := if r + 1 < 48 then .issue (r + 1) else .ctrl 0
def afterCtrl (r : Nat) : Phase := if r + 1 < 48 then .ctrl (r + 1) else .beat

/-- The turn of a region's slot at its row fetch units: a raised cause is delivered, or a beat leaves the edge. -/
def State.issuePhase (s : State) (r : Nat) : Res :=
  let s := { s with phase := afterIssue r, ctx := {} }
  let key := slotKey r (s.cycle % 8)
  if s.deliverable key then exec (.trapDelivery key) s else .next (s.issueTurn r)

/-- The next beat of the cycle at its element; a fenced cluster's elements do nothing (R331). -/
def State.beatPhase (s : State) : Res :=
  match nextBeat s.cycle s.flights none with
  | none => .next { s with phase := .finish }
  | some f =>
    let s := s.atBeat f
    if !s.elemRuns s.ctx.elem then .next s
    else match decodeSched f.word with
      | .ok i =>
        let s := (s.mendBeat i).count f.launch i
        (match exec i s with
          | .next t => .next (t.noteBeat f s)
          | r => r)
      | .error _ => .next s

/-- A turn without a control word: the firmware path has a free cycle, if it waits for one (R246). -/
def State.passTurn (s : State) (r : Nat) : State :=
  if s.reqs.any fun q => q.region == r && q.st == .firmware then s.modRegion r fun g => { g with fwWait := some s.cycle } else s

/-- The turn of a region's slot at the sequencer. -/
def State.ctrlPhase (s : State) (r : Nat) : Res :=
  let key := slotKey r (s.cycle % 8)
  let past : State := { s with phase := afterCtrl r, ctx := {} }
  match s.turn r with
  | .pass => .next (past.passTurn r)
  | .stolen => .next (past.modRegion r fun g => { g with steal := false })
  | .resume i => exec i { s with ctx := {} }
  | .word i => exec i ((past.atWord r).count (s.slot key).launch i)
  | .fault num kind => .next ((if num = 100 then past.report 100 r 0 else past).raiseNow key { num := num, kind := kind })

/-! ## The end of a cycle -/

/-- What the device does of itself once its condition holds, in this order: retirements, `csync` releases, released
copies, slot tables, argument checks, placement, a stolen sequencer cycle. -/
def State.automatic (s : State) : Option Instr :=
  let ls := s.launches.map (·.1)
  match ls.find? fun l => s.mayRetire l || s.mayRetireEmpty l with
  | some l => some (.launchRetire l)
  | none => match ls.find? s.mayCsync with
  | some l => some (.csyncRelease l)
  | none => match (List.range 48).find? s.mayRelease with
  | some r => some (.copyRelease r)
  | none => match (s.slices.map (·.1)).find? s.maySlots with
  | some x => some (.sliceSlotsApply x)
  | none => match ls.find? s.argReady with
  | some l => some (.launchArgCheck l)
  | none => if s.nextHead.isSome then some .placement
    else ((List.range 48).find? s.maySteal).map fun r => .firmwareCycleSteal r

/-- A wait whose condition holds at the end of this cycle: the slot goes on from its first turn at or after 8 cycles on
(R289, R294); where the shared point has ended it traps at its word (R291), and a query that finds it so is counted (R293). -/
def State.settleSlot (s : State) (key : Nat) : State :=
  let sl := s.slot key
  match sl.wait with
  | .rv w none =>
    let t := s.target sl.launch w
    if s.cycle < sl.busy then s
    else if (s.point t.1 t.2).gone then
      (if s.cycle = sl.busy then s.orphan t.1 t.2 1 else s).setSlot key
        { sl with wait := .none, raised := { num := 81, kind := 0, code := w } :: sl.raised }
    else if waitDone (s.point t.1 t.2).ph (look 0 sl.wc w) then s.setSlot key { sl with wait := .rv w (some (s.cycle + 8)) }
    else s
  | .handle h none =>
    if sl.busy ≤ s.cycle ∧ (s.handle (key / 8) h).st = .full then s.setSlot key { sl with wait := .handle h (some (s.cycle + 8)) }
    else s
  | _ => s

/-- Whether a slot has nothing to do until a signal comes. -/
def Slot.idleWait (sl : Slot) : Bool :=
  sl.raised.isEmpty && (match sl.wait with
    | .rv _ none | .handle _ none => true
    | _ => false)

/-- A sequencer whose slots all wait may be power-gated; a signal wakes it within 256 cycles (R293). -/
def State.gateSeq (s : State) (r : Nat) : State :=
  let mine := (List.range 8).filter fun i =>
    let sl := s.slot (slotKey r i)
    sl.bound && !sl.ended
  let quiet := mine.all fun i => (s.slot (slotKey r i)).idleWait
  let waking := s.agenda.any fun d => match d.act with | .inl (.sequencerWake x) => x == r | _ => false
  if (s.region r).gatedSeq then
    if quiet || waking then s
    else s.dueOp (s.cycle + 1 + Config.wakeDelay r s.cycle % 256) 4 none (.sequencerWake r)
  else if !mine.isEmpty && quiet && Config.gatesSequencer r s.cycle then s.modRegion r fun g => { g with gatedSeq := true }
  else s

/-- Clusters whose heartbeat falls on a cycle. -/
def beating (c : Nat) : List Nat := if c % 8 = 0 then (List.range 11).map (fun i => c / 8 % 128 + 128 * i) |>.filter (· < 1344) else []

/-- The scrubbers of elements and slices that hold a bit error: each takes its next word every cycle (R145, R226). One with
no error to find stays where it is: log entry 42. -/
def State.scrubs (s : State) : List Instr :=
  if s.ecc.isEmpty then []
  else
    ((s.ecc.filterMap fun e => match e.1 with | .reg x _ => some x | _ => none).eraseDups.map Instr.regScrub)
      ++ ((s.ecc.filterMap fun e => match e.1 with | .slice x _ => some x | _ => none).eraseDups.map Instr.sliceScrub)

/-- The next cycle begins, with its heartbeats and scrubs. -/
def State.nextCycle (s : State) : State :=
  let s := s.slots.foldl (fun s e => s.settleSlot e.1) s
  let s := ((s.slots.map fun e => e.1 / 8).eraseDups).foldl (fun s r => s.gateSeq r) s
  let s := { s.eccForget with cycle := s.cycle + 1, phase := .start, ctx := {} }
  let s := (beating s.cycle).foldl (fun s n => s.dueOp s.cycle 4 none (.heartbeat n)) s
  s.scrubs.foldl (fun s i => s.dueOp s.cycle 150 none i) s

/-- Entries due at a cycle's end, then what the device does of itself, then the next cycle. -/
def State.finishPhase (s : State) : Res :=
  match firstDue s.cycle (fun r => decide (100 ≤ r)) s.agenda none with
  | some d => s.runDue d
  | none => match s.automatic with
    | some i => exec i { s with ctx := {} }
    | none => .next s.nextCycle

/-! ## Placing one instruction where the next step runs it -/

/-- A copy of a program so long that any branch from its middle stays inside, for a launch of one slot. -/
def wordCopy : Copy := { gen := 1, bytes := 2 ^ 21, pcol := 7, prow := 4, kernels := [{ words := 2 ^ 18 }] }

/-- A slot of region 0 whose turn is next at the sequencer, with a word at its PC. -/
def State.placeCtrl (s : State) (bs : List Byte) : State :=
  let i := s.cycle % 8
  let s := s.setLaunch 0 { s.launch 0 with stage := .running, region := 0, gen := 1, slots := [i], armed := true, halted := false }
  let s := s.modRegion 0 fun g =>
    { g with store := storeBytesPut g.store (5 * 2 ^ 17) bs, copies := wordCopy :: g.copies.filter (·.gen != 1), gatedSeq := false, steal := false }
  let s := s.modSlot i fun sl =>
    { sl with bound := true, launch := 0, kernel := 0, start := some 0, pc := 0x20000, wait := .none, busy := 0, held := false,
              moved := false, ended := false }
  { s with off := false, phase := .ctrl 0, ecc := s.ecc.filter fun e => match e.1 with | .sched _ _ => false | _ => true }

/-- A beat of a word at its first column, due now: the word left the edge as many cycles ago as its column counts. -/
def State.placeSched (s : State) (w : SchedWord) : State :=
  let col := field w 64 60
  let now := Nat.max s.cycle col
  let f : Flight := { region := 0, slot := (now - col) % 8, launch := 0, gen := 1, row := 0, col := col, colL := col, cc0 := 0,
                      edge := now - col, beat := 0, word := w, pos := {}, line := 0, rb := 0, ctr2 := 0, ctr3 := 0, fmt := 0x8000 }
  let s := s.setLaunch 0 { s.launch 0 with stage := .running, region := 0, gen := 1, slots := [f.slot], armed := true }
  let s := s.modRegion 0 fun g => { g with copies := wordCopy :: g.copies.filter (·.gen != 1) }
  let s := s.modSlot f.slot fun sl => { sl with bound := true, launch := 0, kernel := 0, start := some 0, ended := false }
  let s := s.modCluster (elemAt 0 0 col / 16) fun c => { c with shut := false }
  { s with off := false, cycle := now, phase := .beat, flights := f :: s.flights.filter fun g => g.edge + g.col != now }

end Sys2Proof.Machine
end

