-- ==== Sys2Proof/Machine/Step.lean ====
section
/-! DEFINITION. One step: the next thing that the device does in the order of a cycle's phases. -/

namespace Sys2Proof.Machine

/-- The step. After a die has passed 115 °C the compute dies are off, and only the cycle count goes on (R359). -/
def step (s : State) : Host.Outcome State Fault Refusal :=
  if s.off then .next { s with cycle := s.cycle + 1, phase := .start }
  else match s.phase with
    | .start => s.startPhase
    | .issue r => s.issuePhase r
    | .beat => s.beatPhase
    | .ctrl r => s.ctrlPhase r
    | .finish => s.finishPhase

/-- The state in which the next step fetches and runs the instruction whose bits are `w`. -/
def State.withFetchWord (s : State) (nbits w : Nat) : State :=
  let v := w % 2 ^ nbits
  let s := { s with off := false }
  if nbits ≤ 40 then s.placeCtrl (bytesOf v 5) else s.placeSched (BitVec.ofNat 80 v)

end Sys2Proof.Machine
end

