-- ==== Sys2Proof/Safety.lean ====
section
/-! DEFINITION. What counts as a safe run, and the terms in which the statements speak of a step: what it changes, and
that it changes nothing else. -/

namespace Sys2Proof.Machine

/-- An instruction completes: it answers a next state. -/
def Completes (i : Instr) (s : State) : Prop := ∃ t, exec i s = .next t

/-- The memory of a state is in its canonical form. -/
def MemCanonical (s : State) : Prop := Memory.wf s.mem = true

/-- What every step keeps: memory in its canonical form, and a power budget of at most 380,000 µJ (R87). -/
def StateInv (s : State) : Prop := MemCanonical s ∧ s.kilnBudget.toNat ≤ 380000

/-- A run that never stops with a fault or a refusal. -/
def SafeRun (s : State) : Prop := ∀ k, ∃ t, Host.Core.run core k s = .next t

/-! ## What one record of the state becomes, every other record and every other field of the state as before -/

/-- Slot `k` is x in t; every other slot, every element, cluster, region, register and byte of memory is as in s. -/
def SlotIs (s t : State) (k : Nat) (x : Slot) : Prop :=
  t = { s with slots := t.slots } ∧ t.slot k = x ∧ ∀ j, j ≠ k → t.slot j = s.slot j

/-- The same for an element; the protection list may lose entries of words that were written. -/
def ElemIs (s t : State) (k : Nat) (x : Elem) : Prop :=
  t = { s with elems := t.elems } ∧ t.elem k = x ∧ ∀ j, j ≠ k → t.elem j = s.elem j

def ClusterIs (s t : State) (k : Nat) (x : Cluster) : Prop :=
  t = { s with clusters := t.clusters } ∧ t.cluster k = x ∧ ∀ j, j ≠ k → t.cluster j = s.cluster j

def RegionIs (s t : State) (k : Nat) (x : Region) : Prop :=
  t = { s with regions := t.regions } ∧ t.region k = x ∧ ∀ j, j ≠ k → t.region j = s.region j

def LaunchIs (s t : State) (k : Nat) (x : Launch) : Prop :=
  t = { s with launches := t.launches } ∧ t.launch k = x ∧ ∀ j, j ≠ k → t.launch j = s.launch j

def SliceIs (s t : State) (k : Nat) (x : Slice) : Prop :=
  t = { s with slices := t.slices } ∧ t.slice k = x ∧ ∀ j, j ≠ k → t.slice j = s.slice j

def PortIs (s t : State) (k : Nat) (x : Port) : Prop :=
  t = { s with ports := t.ports } ∧ t.port k = x ∧ ∀ j, j ≠ k → t.port j = s.port j

/-- Every byte of memory outside n bytes at a reads as before. -/
def MemSameBut (s t : State) (a n : Nat) : Prop := ∀ c, (c < a ∨ a + n ≤ c) → memByte t.mem c = memByte s.mem c

/-- An entry of the agenda. -/
def dueOf (at_ rank : Nat) (region : Option Nat) (act : Instr ⊕ Effect) : Due :=
  { at_ := at_, rank := rank, region := region, act := act }

/-- The slot's record with its registers as x's and its PC after the word; every other register of the slot as in s. -/
def Slot.onlyA (x sl : Slot) : Prop := x = { sl with a := x.a, pc := sl.pc + 1 }
def Slot.onlyK (x sl : Slot) : Prop := x = { sl with k := x.k, pc := sl.pc + 1 }

/-- A slot executes at all: it is bound, it has not ended, and its launch is not halted. -/
def Live (s : State) : Prop := s.me.bound = true ∧ (s.launch s.me.launch).halted = false

/-- What taking beats back may bring to `s` from `t` (R306): all that a beat can change or place. -/
def State.setBack (s t : State) : State :=
  { s with
    agenda := t.agenda, frozen := t.frozen, slots := t.slots, launches := t.launches, elems := t.elems, clusters := t.clusters
    regions := t.regions, slices := t.slices, mem := t.mem, stamps := t.stamps, accs := t.accs, beats := t.beats, upds := t.upds
    reqs := t.reqs, joins := t.joins, ecc := t.ecc }

/-- What a cause of point B may change: what taking beats back may, the beats in flight, the notes, and the log (R306, R335). -/
def State.setTrap (s t : State) : State :=
  { s.setBack t with flights := t.flights, undo := t.undo, ctx := t.ctx, log := t.log, logCnt := t.logCnt }

/-- A report stands in the event log (R360), and nothing but the log has changed. -/
def Reported (s t : State) (cause unit detail : Nat) : Prop :=
  t = { s with log := t.log, logCnt := s.logCnt + 1 }
    ∧ look 0 t.log (s.logCnt.toNat % 1024)
      = BitVec.ofNat 48 s.cycle ++ BitVec.ofNat 7 cause ++ (0 : BitVec 9) ++ BitVec.ofNat 16 unit ++ BitVec.ofNat 48 detail

end Sys2Proof.Machine
end

