-- ==== Sys2Proof/Certificates/Slice0/Terms.lean ====
section
/-! DEFINITION. What the rules of the spec say a word does, written from their tables for the statements: the result of a
scalar word, the target of a branch, the value of a lane. Nothing of the machine is used where a rule gives a number. -/

namespace Sys2Proof.Machine

/-! ## Control words -/

/-- What a scalar or predicate word writes. -/
inductive Wrote | a (d : AReg) (v : Word) | k (d : KReg) (v : Bool)

/-- The six comparisons (R117, R118): `ltu` and `geu` read the words unsigned, `lt` and `ge` signed. -/
def compares (c : KCond) (x y : Word) : Bool :=
  match c with
  | .eq => decide (x.toNat = y.toNat)
  | .ne => decide (x.toNat ≠ y.toNat)
  | .lt => decide (x.toInt < y.toInt)
  | .ltu => decide (x.toNat < y.toNat)
  | .ge => decide (y.toInt ≤ x.toInt)
  | .geu => decide (y.toNat ≤ x.toNat)

/-- The low 64 bits of an integer. -/
def low64 (x : Int) : Word := BitVec.ofInt 64 x

/-- The effect column of R117, in exact arithmetic; a read of a0 gives zero and of k0 true (R113). -/
def scalarResult (i : Instr) (sl : Slot) : Option Wrote :=
  let n (r : AReg) : Nat := (sl.areg r).toNat
  let z (r : AReg) : Int := (sl.areg r).toInt
  match i with
  | .seqAdd d x y => some (.a d (low64 (z x + z y)))
  | .seqSub d x y => some (.a d (low64 (z x - z y)))
  | .seqMul d x y => some (.a d (low64 (z x * z y)))
  | .seqMulh d x y => some (.a d (low64 (z x * z y / 2 ^ 64)))
  | .seqMulhu d x y => some (.a d (low64 ((n x : Int) * n y / 2 ^ 64)))
  | .seqAnd d x y => some (.a d (sl.areg x &&& sl.areg y))
  | .seqOr d x y => some (.a d (sl.areg x ||| sl.areg y))
  | .seqXor d x y => some (.a d (sl.areg x ^^^ sl.areg y))
  | .seqAndn d x y => some (.a d (sl.areg x &&& ~~~sl.areg y))
  | .seqShl d x y => some (.a d (low64 (z x * 2 ^ (n y % 64))))
  | .seqShr d x y => some (.a d (low64 ((n x : Int) / 2 ^ (n y % 64))))
  | .seqSra d x y => some (.a d (low64 (z x / 2 ^ (n y % 64))))
  | .seqMin d x y => some (.a d (low64 (min (z x) (z y))))
  | .seqMax d x y => some (.a d (low64 (max (z x) (z y))))
  | .seqMinu d x y => some (.a d (BitVec.ofNat 64 (min (n x) (n y))))
  | .seqMaxu d x y => some (.a d (BitVec.ofNat 64 (max (n x) (n y))))
  | .addi d x i => some (.a d (low64 (z x + i.toInt)))
  | .andi d x i => some (.a d (sl.areg x &&& low64 i.toInt))
  | .ori d x i => some (.a d (sl.areg x ||| low64 i.toInt))
  | .xori d x i => some (.a d (sl.areg x ^^^ low64 i.toInt))
  | .shli d x i => some (.a d (low64 (z x * 2 ^ i.toNat)))
  | .shri d x i => some (.a d (low64 ((n x : Int) / 2 ^ i.toNat)))
  | .srai d x i => some (.a d (low64 (z x / 2 ^ i.toNat)))
  | .li d i => some (.a d (low64 i.toInt))
  | .lsi d i => some (.a d (BitVec.ofNat 64 (n d % 2 ^ 46 * 2 ^ 18 + i.toNat)))
  | .kcmp c k x y => some (.k k (compares c (sl.areg x) (sl.areg y)))
  | .kand k x y => some (.k k (sl.kreg x && sl.kreg y))
  | .kor k x y => some (.k k (sl.kreg x || sl.kreg y))
  | .kxor k x y => some (.k k (sl.kreg x ^^ sl.kreg y))
  | .knot k x => some (.k k (!sl.kreg x))
  | _ => none

/-- A shift by an immediate, as a control word: MAJ 1, MIN 9 to 11 (R102). -/
def isShiftImm (w : CtrlWord) : Bool := w.toNat / 2 ^ 34 == 1 && 9 ≤ w.toNat / 2 ^ 28 % 64 && w.toNat / 2 ^ 28 % 64 ≤ 11

/-- The PC moved by a signed count of words (R118). -/
def pcPlus (pc : BitVec 24) (off : Int) : BitVec 24 := BitVec.ofInt 24 (pc.toNat + off)

/-- Where a branch of R118 goes: the offset of the target, or 1. -/
def branchOffset (i : Instr) (sl : Slot) : Option Int :=
  let take (b : Bool) (off : BitVec 18) : Option Int := some (if b then off.toInt else 1)
  let cmp (c : KCond) (x y : AReg) : Bool := compares c (sl.areg x) (sl.areg y)
  match i with
  | .beq x y off => take (cmp .eq x y) off
  | .bne x y off => take (cmp .ne x y) off
  | .blt x y off => take (cmp .lt x y) off
  | .bltu x y off => take (cmp .ltu x y) off
  | .bge x y off => take (cmp .ge x y) off
  | .bgeu x y off => take (cmp .geu x y) off
  | .bk k off => take (sl.kreg k) off
  | .bnk k off => take (!sl.kreg k) off
  | .j off => take true off
  | _ => none

/-- The width of a sequencer access in bytes, and how its value extends to 64 bits (R119). -/
def ldWidth : LdTy → Nat
  | .i8 => 1 | .n8 => 1 | .i16 => 2 | .n16 => 2 | .i32 => 4 | .n32 => 4 | .i64 => 8
def stWidth : StTy → Nat
  | .i8 => 1 | .i16 => 2 | .i32 => 4 | .i64 => 8
def ldExtend (t : LdTy) (v : Nat) : Word :=
  match t with
  | .i8 => (BitVec.ofNat 8 v).signExtend 64
  | .i16 => (BitVec.ofNat 16 v).signExtend 64
  | .i32 => (BitVec.ofNat 32 v).signExtend 64
  | _ => BitVec.ofNat 64 v

/-- An address of a sequencer access: the site, and the offset into its buffer (R119). -/
def seqSite (ea : Word) : Nat := ea.toNat / 2 ^ 56
def seqOff (ea : Word) : Nat := ea.toNat % 2 ^ 56

/-- A record whose buffer admits an access of n bytes (R119). -/
def admits (x : Site) (off n : Nat) : Prop := n ∣ off ∧ off + n ≤ (x.lrows + 1) * (x.lcols + 1) * 4 * x.lines

/-- The site a word names in the active configuration, by its number. -/
def siteNamed (s : State) (n : Nat) : Option Site := ((s.copyOf s.me.launch).sites.find? (·.1 == n)).map (·.2)

/-- The state with one more entry on its agenda: what a word leaves for a later cycle. -/
def later (s : State) (at_ rank : Nat) (region : Option Nat) (act : Instr ⊕ Effect) : State :=
  { s with agenda := s.agenda ++ [dueOf at_ rank region act] }

/-- The little-endian number in n bytes of an element's bank. -/
def bankNumber (e : Elem) (a : Nat) : Nat → Nat
  | 0 => 0
  | n + 1 => (bankByte e a).toNat + 256 * bankNumber e (a + 1) n

/-! ## Descriptors of `loop` and `run` (R124) -/

def stageOf (d : Word) (j : Nat) : Nat := d.toNat / 2 ^ (12 + 2 * j) % 4
def loopLast (d : Word) : Nat := d.toNat / 2 ^ 44 % 16
def runLast (d : Word) : Nat := d.toNat / 2 ^ 32 % 2 ^ 16
def firstLine (d : Word) : Nat := d.toNat / 2 ^ 48

/-- The beats of the lines that a loop issues in one iteration. -/
def loopBeats (s : State) (d : Word) : Nat :=
  ((List.range (loopLast d + 1)).map fun j => lineBeats (s.lineOf s.key none (firstLine d + j))).sum

/-- The stages of a loop: one more than its largest (R124). -/
def stagesOf (d : Word) : Nat := ((List.range (loopLast d + 1)).map (stageOf d)).foldl max 0 + 1

/-- The rotating base one step on (R136). -/
def baseAfter (q : Nat) (rb : BitVec 5) : BitVec 5 := if q = 0 then rb else BitVec.ofNat 5 ((rb.toNat + q - 1) % q)

def GoodLoop (s : State) (d : Word) : Prop :=
  firstLine d + loopLast d < (s.kernelAt s.key).slcnt ∧ d.toNat % 2 ^ 12 = 0
    ∧ (∀ j, loopLast d < j → j < 16 → stageOf d j = 0) ∧ loopBeats s d ≤ (s.kernelAt s.key).ii

def GoodRun (s : State) (d : Word) : Prop :=
  firstLine d + runLast d < (s.kernelAt s.key).slcnt ∧ d.toNat % 2 ^ 32 = 0

/-- A slot with nothing to issue, and whose last beat left on an earlier cycle. -/
def Idle (now : Nat) (sl : Slot) : Prop := sl.cur.kind = .idle ∧ sl.following = [] ∧ sl.sentAt ≠ some now

/-- The slots of the launch under way that a set of `hold` or `wake` names (R126). -/
def OwnSet (s : State) (named own : BitVec 8) : Prop :=
  ∀ i < 8, own.getLsbD i = (named.getLsbD i && (s.slot (8 * s.ctx.region + i)).bound
    && decide ((s.slot (8 * s.ctx.region + i)).launch = s.me.launch))

/-- A slot of the launch that a `hold` of the set would leave free to run (R126). -/
def StaysFree (s : State) (named : BitVec 8) : Prop :=
  ∃ i < 8, (s.slot (8 * s.ctx.region + i)).bound = true ∧ (s.slot (8 * s.ctx.region + i)).launch = s.me.launch
    ∧ (s.slot (8 * s.ctx.region + i)).ended = false ∧ named.getLsbD i = false ∧ s.willHold s.ctx.region i = false

/-! ## Rendezvous points (R288) -/

/-- The check of R288 as its loop: rounds while the point is set and has the arrivals of a phase. -/
def checkRounds : Nat → Point → Point
  | 0, x => x
  | n + 1, x => if x.init = true ∧ x.count.toNat ≤ x.arr.toNat
    then checkRounds n { x with ph := x.ph + 1, arr := x.next, next := 0 } else x

/-- The point at which an arrival of phase count `ac` is counted (R288), or none: `RV_OVERRUN`. -/
def arrival (ac : BitVec 16) (x : Point) : Option Point :=
  if (ac.toNat + 65536 - x.ph.toNat) % 65536 = 0 then some { x with arr := x.arr + 1 }
  else if (ac.toNat + 65536 - x.ph.toNat) % 65536 = 1 then some { x with next := x.next + 1 }
  else none

/-- The word that `hstat` writes of a handle (R242). -/
def handleBits (h : Handle) : Word :=
  BitVec.ofNat 32 h.units ++ (0 : BitVec 24) ++ BitVec.ofNat 4 h.planes ++ BitVec.ofBool h.fw ++ BitVec.ofBool h.err
    ++ (match h.st with | .free => 0 | .filling => 1 | .full => 2 | .draining => 3 : BitVec 2)

/-! ## Milestones (R128) -/

/-- The fields of `SEQ.MSTAT` (R128). -/
def mLast (w : BitVec 32) : Nat := w.toNat / 8 % 4
def mPend (w : BitVec 32) : Bool := w.toNat / 4 % 2 == 1
def mState (w : BitVec 32) : Nat := w.toNat % 4

/-! ## Exceptions (R308) -/

/-- `SLOT.CAUSE` as a delivery sets it: ACTIVE, PEND, PNUM, KIND, ROW, COL, BEAT, reserved, NUM. -/
def causeBits (r : Raised) : Word :=
  (1 : BitVec 1) ++ (0 : BitVec 1) ++ (0 : BitVec 7) ++ BitVec.ofNat 3 r.kind ++ BitVec.ofNat 4 r.row ++ BitVec.ofNat 5 r.col
    ++ BitVec.ofNat 3 r.beat ++ (0 : BitVec 33) ++ BitVec.ofNat 7 r.num

/-- CODE of `SLOT.TVAL`: the code of `trap` (114), the point or handle of causes 80 to 87, and otherwise zero. -/
def codeField (r : Raised) : Nat := if r.num = 114 ∨ (80 ≤ r.num ∧ r.num ≤ 87) then r.code else 0

/-- `SLOT.TVAL` as a delivery sets it: LINE, reserved, CODE, reserved. -/
def tvalBits (r : Raised) : Word :=
  BitVec.ofNat 16 r.line ++ (0 : BitVec 16) ++ BitVec.ofNat 16 (codeField r) ++ (0 : BitVec 16)

/-- Bits of `SLOT.CAUSE` and `SLOT.TVEC` (R308). -/
def inHandler (sl : Slot) : Bool := sl.cause.getLsbD 63
def holdsCause (sl : Slot) : Bool := sl.cause.getLsbD 62
def causeNum (sl : Slot) : Nat := sl.cause.toNat % 128
def heldNum (sl : Slot) : Nat := sl.cause.toNat / 2 ^ 55 % 128
def trapEn (sl : Slot) : Bool := sl.tvec.getLsbD 63
def trapEntry (sl : Slot) : Nat := sl.tvec.toNat % 2 ^ 24

/-- A slot that stops for good: no word, no beat, no wait, nothing raised. -/
def Stopped (sl x : Slot) : Prop :=
  x = { sl with ended := true, wait := .none, cur := {}, following := [], raised := [], held := false }

/-- A handler that a delivered cause enters: it is enabled, its entry lies in the program, and the slot is not in it. -/
def HandlerReady (s : State) (key : Nat) : Prop :=
  inHandler (s.slot key) = false ∧ trapEn (s.slot key) = true ∧ trapEntry (s.slot key) < (s.kernelAt key).words

/-- Entries that a delivery to a slot abandons: the effects of its waiting word (R307). -/
def ofWord (key : Nat) (d : Due) : Prop :=
  match d.act with
  | .inr (.seqLoad k ..) | .inr (.value k ..) | .inr (.hStat k ..) | .inr (.patchWord k ..) | .inr (.patched k ..)
  | .inr (.saveUnit k) | .inl (.dpatchDone k) => k = key
  | _ => False

/-! ## The DDA (R253, R259) -/

/-- Whether no halted launch owns the region's DDA. -/
def DdaRuns (s : State) (r : Nat) : Prop := ∀ l, (s.region r).ddaOwner = some l → (s.launch l).halted = false

/-! ## Turns (R123) -/

/-- A slot whose turn at the sequencer is its program's: bound, started, not ended, held, moved, halted, gated or stolen
from, past the time its last word takes, and waiting for nothing that has not come: a word that waits for its turn alone runs again. -/
def TakesTurn (s : State) (r : Nat) : Prop :=
  let sl := s.slot (8 * r + s.cycle % 8)
  sl.bound = true ∧ (∃ t, sl.start = some t ∧ t ≤ s.cycle) ∧ sl.ended = false ∧ (s.launch sl.launch).halted = false
    ∧ (s.region r).gatedSeq = false ∧ (s.region r).steal = false ∧ sl.held = false ∧ sl.moved = false ∧ sl.busy ≤ s.cycle
    ∧ (sl.wait = .none ∨ sl.wait = .loop ∨ sl.wait = .rvOut ∨ (sl.wait = .release ∧ (s.launch sl.launch).oldGen = none))

/-- The five bytes of the schedule store at a slot's PC (R36, R91). -/
def wordBytes (s : State) (k : Nat) : List Byte :=
  let c := s.copyOf (s.slot k).launch
  (List.range 5).map fun i =>
    look 0 (s.region (k / 8)).store (c.base + c.progOff + (s.kernelAt k).cpoff + 5 * (s.slot k).pc.toNat + i)

/-- The next phase of the cycle after region r's control word: the next region's, and after the last the beats. -/
def phaseAfter (r : Nat) : Phase := if r < 47 then .ctrl (r + 1) else .beat

/-! ## Control registers (R114, R317) -/

/-- `SLOT.WINMISS` (R142): SHORT shows 4,095 once the late data have not come within 4,095 beats. -/
def missBits (sl : Slot) (now : Nat) : Word :=
  match sl.late with
  | some w => if w.close + 32760 < now then sl.winmiss ||| 0x3FFC00 else sl.winmiss
  | none => sl.winmiss

/-- `SEQ.GEN` (R344): OLDEST of the referenced copies, which a region lists in the order of their loads, and LAST. -/
def genBits (s : State) (r : Nat) : Word :=
  let held := (s.region r).copies.filter fun c => (s.refs r).contains c.gen
  BitVec.ofNat 32 (match held with | [] => 0 | c :: _ => c.gen) ++ BitVec.ofNat 32 (s.region r).lastGen

/-- The word of point w (R292): INIT, SHARED, PH, ARR and NEXT of the point that it stands for. -/
def pointBits (s : State) (l w : Nat) : Word :=
  let p := s.target l w
  let x := s.point p.1 p.2
  BitVec.ofBool x.init ++ BitVec.ofBool ((s.point l w).key != 0 || (s.point l w).link.isSome) ++ (0 : BitVec 14) ++ x.ph ++ x.arr
    ++ x.next

/-- `DDA.DOMd` (R256): RUN, P, PHASE, LEFT. -/
def domBits (x : Domain) (now : Nat) : Word :=
  BitVec.ofBool x.running ++ BitVec.ofNat 16 x.period ++ BitVec.ofNat 16 (if x.running then x.next - now else 0) ++ BitVec.ofNat 31 x.left

/-- The registers of the cluster of page p (R182, R199): protection, errors, busy intervals, bubbles. -/
def clusterBits (c : Cluster) : List Word := [if c.accprot then 1 else 0, c.accerr, c.busy, c.bubbles, 0, 0, 0, 0]

/-- What `csrr` reads of the registers of the slot, its launch, its region and its page set, by number. -/
def csrTable (s : State) : List (Nat × Word) :=
  let sl := s.me
  let l := s.launch sl.launch
  let g := s.region s.ctx.region
  let r := s.ctx.region
  let pages := pagesOf (s.copyOf sl.launch)
  [(0x000, sl.fmt.setWidth 64), (0x001, BitVec.ofNat 64 sl.rank), (0x002, BitVec.ofNat 64 l.slots.length),
   (0x003, sl.unit.setWidth 64), (0x004, sl.depth.setWidth 64), (0x005, sl.poison), (0x007, sl.siteerr), (0x008, sl.tvec),
   (0x009, sl.epc), (0x00A, sl.cause), (0x00B, sl.tval), (0x00C, sl.fret), (0x010, l.mstat.setWidth 64),
   (0x011, BitVec.ofNat 64 s.cycle), (0x201, g.winstretch.setWidth 64), (0x202, g.wall), (0x300, g.ddaErr),
   (0x006, missBits sl s.cycle), (0x012, genBits s r), (0x100, BitVec.ofNat 64 (l.block.toNat / 2 ^ 416 % 2 ^ 32)),
   (0x101, BitVec.ofNat 64 (l.block.toNat / 2 ^ 210)), (0x102, BitVec.ofNat 64 (l.block.toNat / 2 ^ 146)),
   (0x103, BitVec.ofNat 64 (l.block.toNat / 2 ^ 82)), (0x200, BitVec.ofNat 64 (r / 2 * 65536 + r * 1024 + r / 6 * 128 + r % 6 / 2 * 32 + r % 2 * 16))]
  ++ ((List.range 24).map fun w => (0x040 + w, pointBits s sl.launch w))
  ++ ((List.range 4).map fun d => (0x304 + d, domBits (g.dom d) s.cycle))
  ++ (List.range 32).flatMap fun p => (List.range 8).map fun k =>
      (0x400 + 8 * p + k, if p < pages then (clusterBits (s.cluster (pageCluster l (s.copyOf sl.launch) p))).getD k 0 else 0)

/-- Numbers below 0x300 that no register holds, and the gaps from there on (R114). -/
def noRegister (n : Nat) : Bool :=
  decide (0x00D ≤ n ∧ n ≤ 0x00F) || decide (0x013 ≤ n ∧ n ≤ 0x03F) || decide (0x058 ≤ n ∧ n ≤ 0x0FF)
    || decide (0x104 ≤ n ∧ n ≤ 0x1FF) || decide (0x203 ≤ n ∧ n ≤ 0x2FF) || decide (0x301 ≤ n ∧ n ≤ 0x303)
    || decide (0x308 ≤ n ∧ n ≤ 0x3FF) || decide (0x500 ≤ n ∧ n ≤ 0x7FF) || decide (0x900 ≤ n)

/-- The measures of `nrg` (R348). -/
def measureOf (s : State) (m : Fin 8) : Nat :=
  let l := s.launch s.me.launch
  [l.energy, l.res, l.windows, s.me.gate, s.kilnBudget.toNat, s.kilnBase.toNat, s.kilnReserved,
   s.kilnWindow.toNat % 2 ^ 20].getD m.val 0

end Sys2Proof.Machine
end

