-- ==== Sys2Proof/Certificates/Slice0/Events.lean ====
section
/-! DEFINITION. Terms for the statements about the machine's own events: what tokens do to a port, what a load, a placement
or a retirement leaves, and which part of the state each may change. -/

namespace Sys2Proof.Machine

/-! ## Tokens (R64 to R72) -/

/-- A port that drops a token: the count stops at 255, and the last error is kept. -/
def droppedPort (p : Port) (err : Nat) : Port := { p with dropped := min (p.dropped + 1) 255, lastErr := err }

/-- A token is the next of the open stream of its own host port, which makes launch l. -/
def InPlace (s : State) (t : Token) (l : Nat) : Prop :=
  (s.port t.port.val).stream = some l ∧ (s.launch l).host = t.host ∧ t.seq = (s.port t.port.val).seq

/-- A token out of place: dropped with error 3. An open stream of its own host port makes no launch, and that is
reported (90); another host port's stream stays (R65). -/
def OutOfPlace (s u : State) (t : Token) : Prop :=
  let p := t.port.val
  let q := droppedPort (s.port p) 3
  (((s.port p).stream = none ∨ ∃ l, (s.port p).stream = some l ∧ (s.launch l).host ≠ t.host) → PortIs s u p q)
  ∧ ∀ l, (s.port p).stream = some l → (s.launch l).host = t.host →
    u = { s with ports := u.ports, launches := u.launches, log := u.log, logCnt := s.logCnt + 1 }
      ∧ u.port p = { q with stream := none } ∧ (∀ j, j ≠ p → u.port j = s.port j)
      ∧ u.launch l = {} ∧ ∀ j, j ≠ l → u.launch j = s.launch j

/-- A token taken: launch l is x, its port is y, and nothing else has changed. -/
def TokenTaken (s u : State) (p l : Nat) (x : Launch) (y : Port) : Prop :=
  u = { s with launches := u.launches, ports := u.ports } ∧ u.launch l = x ∧ (∀ j, j ≠ l → u.launch j = s.launch j)
    ∧ u.port p = y ∧ ∀ j, j ≠ p → u.port j = s.port j

/-- A launch refused with a cause (R68): it retires with status 2, leaves its port's queue, and its token goes out or
`CPL_FAIL` is reported. -/
def Refused (s u : State) (l cause : Nat) : Prop :=
  u = { s with launches := u.launches, ports := u.ports, outbox := u.outbox, log := u.log, logCnt := u.logCnt }
    ∧ (u.launch l).stage = .retired ∧ (u.launch l).status = 2 ∧ (u.launch l).cause = cause
    ∧ (∀ j, j ≠ l → u.launch j = s.launch j) ∧ l ∉ (u.port (s.launch l).port).queue
    ∧ ∀ j, j ≠ (s.launch l).port → u.port j = s.port j

/-- The completion token of a launch (R342), from its highest bits down: CTAG, STATUS, CAUSE, PORT, SLOT, REGION, GEN, the
arming and retirement cycles, UNITS, ENERGY, and zeros. -/
def completionToken (l : Launch) (now : Nat) : BitVec 512 :=
  let armed (v none_ : Nat) : Nat := if l.armed then v else none_
  BitVec.ofNat 32 l.ctag ++ BitVec.ofNat 2 l.status ++ BitVec.ofNat 7 (if l.status = 2 ∨ l.status = 3 then l.cause else 0)
    ++ BitVec.ofNat 4 l.port ++ BitVec.ofNat 3 (if l.status = 3 then l.cslot else 0) ++ BitVec.ofNat 6 (armed l.region 63)
    ++ BitVec.ofNat 32 (armed l.gen 0) ++ BitVec.ofNat 48 (armed l.armAt 0) ++ BitVec.ofNat 48 now
    ++ BitVec.ofNat 24 (if l.status = 2 ∧ l.cause = 8 then 0 else l.units) ++ BitVec.ofNat 32 (min l.energy (2 ^ 32 - 1))
    ++ (0 : BitVec 274)

/-- The n lowest bytes of a number, least significant first (R2). -/
def leBytes (v n : Nat) : List Byte := (List.range n).map fun i => BitVec.ofNat 8 (v / 256 ^ i)

/-- Whether the space of a completion address carries the token (R342). -/
def portCarries (s : State) (va : Nat) : Prop :=
  va % 64 = 0 ∧ ((va / 2 ^ 64 = 1 ∧ HostPort.A ∉ s.hostDown) ∨ (va / 2 ^ 64 = 2 ∧ HostPort.B ∉ s.hostDown))

/-! ## Milestones -/

/-- The fields of `SEQ.MSTAT` that an event leaves: LAST, PEND, STATE. -/
def mBits (w : BitVec 32) : Nat × Bool × Nat := (w.toNat / 8 % 4, w.toNat / 4 % 2 == 1, w.toNat % 4)
def mCause (w : BitVec 32) : Nat := w.toNat / 256 % 128

/-- A raised cause stands in a slot's queue, for a slot that is bound and has not ended. -/
def Raises (t : State) (k num kind : Nat) : Prop := ∃ r ∈ (t.slot k).raised, r.num = num ∧ r.kind = kind

/-- Turns held of each 16 of a launch that drew `m` against `res` (R89). -/
def heldTurns (m res : Nat) : Nat := if 16 * m ≤ 17 * res then 0 else min 15 ((16 * (m - res) + m - 1) / m)

/-! ## Memory -/

/-- Bytes written by address, and no other byte of memory. -/
def MemWrites (s t : State) (bs : List (Nat × Byte)) : Prop :=
  (∀ e ∈ bs, memByte t.mem e.1 = e.2) ∧ ∀ a, (∀ e ∈ bs, e.1 ≠ a) → memByte t.mem a = memByte s.mem a

/-- The word that a landing entry or a memory line holds at byte a: 4 bytes, least significant first. -/
def memWord (s : State) (a : Nat) : LaneWord :=
  BitVec.ofNat 32 ((memByte s.mem a).toNat + 256 * (memByte s.mem (a + 1)).toNat + 65536 * (memByte s.mem (a + 2)).toNat
    + 16777216 * (memByte s.mem (a + 3)).toNat)

/-! ## Stored words and their check bits (R144, R145) -/

/-- The condition of one stored word becomes c; every other word's, and the rest of the state, stay. -/
def EccIs (s t : State) (a : EccAt) (c : Option EccState) : Prop :=
  t = { s with ecc := t.ecc } ∧ t.eccAt a = c ∧ ∀ b, b ≠ a → t.eccAt b = s.eccAt b

/-- What a scrubber does with a stored word, from state v, in which its place has moved on: a single-bit error is
corrected, a double-bit error is marked where the storage has a mark, and reported; any other word is left as it is. -/
def Scrubbed (s v t : State) (a : EccAt) (mark : Bool) (cause unit detail : Nat) : Prop :=
  (s.eccAt a = some .single → EccIs v t a none)
  ∧ (s.eccAt a = some .double → ∃ w, EccIs v w a (some (if mark then .marked else .double)) ∧ Reported w t cause unit detail)
  ∧ ((s.eccAt a = none ∨ s.eccAt a = some .marked) → t = v)

/-- CORR of `CLUSTER.ACCERR` after one more correction (R199), and BUBBLES after one more bubble (R182). -/
def corrUp (w : Word) : Word := BitVec.ofNat 16 (min 65535 (w.toNat / 2 ^ 48 + 1)) ++ w.setWidth 48
def bubbleUp (w : Word) : Word := BitVec.ofNat 48 (min (2 ^ 48 - 1) (w.toNat / 2 ^ 16 + 1)) ++ w.setWidth 16

/-- The exact sum of a list of numbers. -/
def exactSum (l : List Rat) : Rat := l.foldr (· + ·) 0

/-! ## Requests (R243 to R246) -/

/-- The request of an id is q, and every other one is as before. -/
def ReqIs (s t : State) (q : Req) : Prop := t.reqs = s.reqs.map fun (x : Req) => if x.id = q.id then q else x

/-- Handle h of region r is y; every other handle and the rest of the region stay. -/
def HandleIs (s t : State) (r h : Nat) (y : Handle) : Prop :=
  t.handle r h = y ∧ (∀ j, j ≠ h → t.handle r j = s.handle r j) ∧ (∀ j, j ≠ r → t.region j = s.region j)
    ∧ t.region r = { s.region r with handles := (t.region r).handles }

/-- A link's flit counters begin anew (R354): SEQ counts from 0 both ways, and no flit waits for its ACK; the other links' stay. -/
def FlitsNew (s t : State) (k : Nat) : Prop :=
  look 0 t.peerSeq k = 0 ∧ look 0 t.peerNext k = 0 ∧ look [] t.peerSent k = []
    ∧ ∀ j, j ≠ k → look 0 t.peerSeq j = look 0 s.peerSeq j ∧ look 0 t.peerNext j = look 0 s.peerNext j
      ∧ look [] t.peerSent j = look [] s.peerSent j

/-! ## The DDA (R252, R253) -/

/-- The increment that input i of a cell consumes at its step, with its sign: input 0 is dx, 1 to 3 are dy0 to dy2. -/
def ddaIn (g : Region) (c : Cell) (i : Nat) : Int :=
  let p := c.patch.toNat
  let code := if i = 0 then p / 2 ^ 51 % 1024 else p / 2 ^ (16 * i - 10) % 1024
  let neg := if i = 0 then p / 2 ^ 61 % 2 else p / 2 ^ (16 * i - 11) % 2
  let src := g.cell (code - 0x200)
  let v : Int := if code = 0 then 0 else if code = 1 then 1
    else if src.patch.toNat / 2 ^ 62 = p / 2 ^ 62 then src.latch else (c.pend[i]?).getD 0
  if neg = 1 then -v else v

/-- The integrand after the dy inputs, each times its power of two. -/
def ddaY (g : Region) (c : Cell) : Int :=
  let w (i : Nat) : Int := ((2 ^ (c.patch.toNat / 2 ^ (16 * i - 16) % 32) : Nat) : Int)
  c.y.toInt + ddaIn g c 1 * w 1 + ddaIn g c 2 * w 2 + ddaIn g c 3 * w 3

/-- A cell after one step: R + dx × Y split into the residue and the increment that it emits. -/
def ddaAfter (g : Region) (c : Cell) : Cell :=
  let dx := ddaIn g c 0
  let sum := (c.r.toNat : Int) + dx * ddaY g c
  { c with
    y := BitVec.ofInt 33 (ddaY g c), pend := Vector.replicate 4 0
    latch := if dx = 0 then 0 else sum / 2 ^ 32
    r := if dx = 0 then c.r else BitVec.ofInt 32 (sum % 2 ^ 32) }

/-- The domain of a cell, or of a patch word. -/
def domOf (p : Word) : Nat := p.toNat / 2 ^ 62

/-! ## Voters (R330) -/

/-- What an observation makes of a voter that watches: none where it comes to accuse. -/
def nextVoter : VoterState → Observed → Option VoterState
  | .trusting, .onTime => some .trusting
  | .trusting, .miss => some (.suspect 1)
  | .suspect _, .onTime => some .trusting
  | .suspect n, .miss => if n = 3 then none else some (.suspect (n + 1))
  | .accusing, _ => some .accusing
  | _, .babbling => none

/-- Fields of `CLUSTER.FENCE` (R333): STATE, VOTES, APPEALS, the cycle, and the count of drops at a side. -/
def fState (w : Word) : Nat := w.toNat / 2 ^ 62
def fVotes (w : Word) : Nat := w.toNat / 2 ^ 56 % 16
def fAppeals (w : Word) : Nat := w.toNat / 2 ^ 54 % 4
def fCycle (w : Word) : Nat := w.toNat % 2 ^ 48
def fDrops (w : Word) (side : Nat) : Nat := w.toNat / 2 ^ (48 - 16 * side) % 2 ^ 16

/-- The accusation bits set, of the four. -/
def bitsSet (bits : Nat) : Nat := bits / 8 % 2 + bits / 4 % 2 + bits / 2 % 2 + bits % 2

/-! ## Pre-emption (R319, R322) -/

/-- Fields of `REGION.PREEMPT`: STATE, OFFSET in whole 4 KiB, the latency, ERRV with ERR. -/
def pState (w : Word) : Nat := w.toNat / 2 ^ 56 % 4
def pOffset (w : Word) : Nat := w.toNat / 2 ^ 44 % 2 ^ 12 * 4096
def pErr (w : Word) : Nat := w.toNat / 2 ^ 12 % 2 ^ 8

/-- Fields of `REGION.PAGECOPY` word 0: STATE, the cause of a refusal, the pages. -/
def cState (w : Word) : Nat := w.toNat / 2 ^ 60 % 4
def cCause (w : Word) : Nat := w.toNat / 2 ^ 25 % 2 ^ 7
def cPages (w : Word) : Nat := w.toNat / 2 ^ 32 % 2 ^ 28

/-- The element with landing entry j as w. -/
def Elem.lands (e : Elem) (j : Nat) (w : Landing) : Elem := { e with landing := put e.landing j w }

end Sys2Proof.Machine
end

