-- ==== Sys2Proof/Certificates/Slice0/Lanes.lean ====
section
/-! DEFINITION. What chapters 3 and 9 to 12 of the spec say a schedule word computes, written from their tables for the
statements: the lane of every form, its immediate, and the bytes that loads and stores reach. -/

namespace Sys2Proof.Machine

/-! ## Parts and integers (R42, R97, R148) -/

/-- The lane whose part p of width w holds the low w bits of g p. -/
def laneOf (w : Nat) (g : Nat → Nat) : LaneWord :=
  BitVec.ofNat 32 ((List.range (32 / w)).map fun p => g p % 2 ^ w * 2 ^ (w * p)).sum

/-- The number that a code of an integer type stands for (R42). -/
def num (t : IntTy) (c : Nat) : Int :=
  match t with
  | .i8 => (BitVec.ofNat 8 c).toInt
  | .i16 => (BitVec.ofNat 16 c).toInt
  | .i32 => (BitVec.ofNat 32 c).toInt
  | .n8 => ((c % 2 ^ 8 : Nat) : Int)
  | .n16 => ((c % 2 ^ 16 : Nat) : Int)
  | .n32 => ((c % 2 ^ 32 : Nat) : Int)

/-- The width and the range of a type (R42). -/
def bitsOf : IntTy → Nat
  | .i8 => 8 | .n8 => 8 | .i16 => 16 | .n16 => 16 | .i32 => 32 | .n32 => 32
def leastOf : IntTy → Int
  | .i8 => -128 | .i16 => -32768 | .i32 => -2147483648 | _ => 0
def mostOf : IntTy → Int
  | .i8 => 127 | .i16 => 32767 | .i32 => 2147483647 | .n8 => 255 | .n16 => 65535 | .n32 => 4294967295

/-- The code of an integer modulo 2^w. -/
def codeOf (w : Nat) (x : Int) : Nat := (x % 2 ^ w).toNat

/-- `fit` (R148). -/
def fitted (t : IntTy) (sat : Bool) (x : Int) : Nat :=
  codeOf (bitsOf t) (if sat then max (leastOf t) (min (mostOf t) x) else x)

/-- The immediate as a form of an integer type reads it (R97, R148). -/
def immOfInt (t : IntTy) (imm : BitVec 16) : LaneWord :=
  match t with
  | .i32 => BitVec.ofInt 32 imm.toInt
  | .n32 => BitVec.ofNat 32 imm.toNat
  | .i16 | .n16 => laneOf 16 fun _ => imm.toNat
  | .i8 | .n8 => laneOf 8 fun _ => imm.toNat
def immOfFlt (t : FltTy) (imm : BitVec 16) : LaneWord :=
  match t with
  | .f32 => BitVec.ofNat 32 (imm.toNat * 2 ^ 16)
  | .f16 | .bf16 => laneOf 16 fun _ => imm.toNat

/-- Whether a comparison of numbers holds (R155). -/
def compareInt : Cond → Int → Int → Bool
  | .eq, x, y => decide (x = y)
  | .ne, x, y => decide (x ≠ y)
  | .lt, x, y => decide (x < y)
  | .le, x, y => decide (x ≤ y)
  | .gt, x, y => decide (x > y)
  | .ge, x, y => decide (x ≥ y)

/-! ## Result lanes and their poison (R146, R151) -/

/-- A result lane from the lanes it draws on: poisoned when one of them is, with the origin of the lowest such lane, or
by its own new poison with this element as origin. -/
def resultLane (v : LaneWord) (reads : List Lane) (fresh : Bool) (me : Nat) : Lane :=
  { v := v, p := reads.any (·.p) || fresh,
    o := match reads.find? (·.p) with
      | some l => l.o
      | none => if fresh then BitVec.ofNat 9 me else 0 }

/-- A form that computes each enabled lane from the same lane of its sources. It always reads source A; `f` gives the
value, and whether forming it is a new source of poison. -/
structure LaneForm where
  o : SOp
  imm : LaneWord := 0
  readsB : Bool := false
  readsD : Bool := false
  /-- Whether the poison of its sources goes on into the result: not of `ptest`, nor of an integer compare into a mask (R155, R178). -/
  passes : Bool := true
  f : LaneWord → LaneWord → LaneWord → LaneWord × Bool

/-- The lane that a form writes. -/
def LaneForm.lane (F : LaneForm) (s : State) (i : Nat) : Lane :=
  let a := s.laneA F.o F.imm i
  let b := s.laneB F.o F.imm i
  let d := s.laneD F.o i
  let r := F.f a.v b.v d.v
  let reads := [a] ++ (if F.readsB then [b] else []) ++ if F.readsD then [d] else []
  resultLane r.1 (if F.passes then reads else []) r.2 s.idx

/-! ## Integer and bitwise forms (R154 to R158, R177, R178) -/

/-- A form on the parts of an integer type: `f` gives a part's code. -/
def onInts (t : IntTy) (o : SOp) (b d : Bool) (f : Int → Int → Int → Nat) : LaneForm :=
  { o := o, imm := immOfInt t o.imm, readsB := b, readsD := d,
    f := fun x y z => (laneOf (bitsOf t) fun p =>
      f (num t (part x (bitsOf t) p)) (num t (part y (bitsOf t) p)) (num t (part z (bitsOf t) p)), false) }

/-- A form on whole 32-bit lanes. -/
def onLanes (t : IntTy) (o : SOp) (b d : Bool) (f : LaneWord → LaneWord → LaneWord → Nat) : LaneForm :=
  { o := o, imm := immOfInt t o.imm, readsB := b, readsD := d, f := fun x y z => (BitVec.ofNat 32 (f x y z), false) }

/-- The count, position and width fields of a source B (R157, R158). -/
def countOf (y : LaneWord) : Nat := y.toNat % 32
def widOf (y : LaneWord) : Nat := y.toNat / 2 ^ 8 % 32 + 1

def intFormOf (i : Instr) : Option LaneForm :=
  match i with
  | .pass o => some (onLanes .i32 o false false fun x _ _ => x.toNat)
  | .ptest o => some { onLanes .i32 o false false (fun x _ _ => if x.toNat = 0 then 0 else 1) with passes := false }
  | .add t o => some (onInts t o true false fun x y _ => fitted t o.sat (x + y))
  | .sub t o => some (onInts t o true false fun x y _ => fitted t o.sat (x - y))
  | .mul t o => some (onInts t o true false fun x y _ => fitted t o.sat (x * y))
  | .mulh t o => some (onInts t o true false fun x y _ => codeOf (bitsOf t) (x * y / 2 ^ bitsOf t))
  | .mad t o => some (onInts t o true true fun x y d => fitted t o.sat (d + x * y))
  | .min t o => some (onInts t o true false fun x y _ => codeOf (bitsOf t) (min x y))
  | .max t o => some (onInts t o true false fun x y _ => codeOf (bitsOf t) (max x y))
  | .abs t o => some (onInts t o false false fun x _ _ => fitted t o.sat (if x < 0 then -x else x))
  | .neg t o => some (onInts t o false false fun x _ _ => fitted t o.sat (-x))
  | .cmp c t o => some { onInts t o true false (fun x y _ => if compareInt c x y then 2 ^ bitsOf t - 1 else 0) with
      passes := decide (o.dst ≠ .mask) }
  | .and o => some (onLanes .n32 o true false fun x y _ => x.toNat &&& y.toNat)
  | .or o => some (onLanes .n32 o true false fun x y _ => x.toNat ||| y.toNat)
  | .xor o => some (onLanes .n32 o true false fun x y _ => x.toNat ^^^ y.toNat)
  | .andn o => some (onLanes .n32 o true false fun x y _ => x.toNat &&& (~~~y).toNat)
  | .shl o => some (onLanes .n32 o true false fun x y _ => x.toNat * 2 ^ countOf y)
  | .shr o => some (onLanes .n32 o true false fun x y _ => x.toNat / 2 ^ countOf y)
  | .sra o => some (onLanes .i32 o true false fun x y _ => codeOf 32 (x.toInt / 2 ^ countOf y))
  | .rot o => some (onLanes .n32 o true false fun x y _ => x.toNat * 2 ^ countOf y + x.toNat / 2 ^ (32 - countOf y))
  | .clz o => some (onLanes .n32 o false false fun x _ _ =>
      ((List.range 32).takeWhile fun i => !x.getLsbD (31 - i)).length)
  | .popc o => some (onLanes .n32 o false false fun x _ _ => ((List.range 32).filter fun i => x.getLsbD i).length)
  | .bfxN32 o => some (onLanes .n32 o true false fun x y _ => x.toNat / 2 ^ countOf y % 2 ^ widOf y)
  | .bfxI32 o => some (onLanes .i32 o true false fun x y _ =>
      let v := codeOf (widOf y) (x.toInt / 2 ^ countOf y)
      codeOf 32 (if v < 2 ^ (widOf y - 1) then (v : Int) else v - 2 ^ widOf y))
  | .bfi o => some (onLanes .n32 o true true fun x y d =>
      let n := min (widOf y) (32 - countOf y)
      d.toNat % 2 ^ countOf y + x.toNat % 2 ^ n * 2 ^ countOf y
        + d.toNat / 2 ^ (countOf y + n) * 2 ^ (countOf y + n))
  | _ => none

/-! ## Float forms (R43 to R50, R159 to R163, R168) -/

/-- The rational number of a finite value. -/
def ratOf (neg : Bool) (m : Nat) (e : Int) : Rat := (if neg then -1 else 1) * (m : Rat) * 2 ^ e

/-- The finite value of a code, if it is one. -/
def finiteCode (f : FF) (c : Nat) : Option Rat :=
  match f.val c with
  | .fin n m e => some (ratOf n m e)
  | _ => none

/-- The lane of two parts of 16 bits, or of one part of 32, each rounded once from an exact value. -/
def onFloats (t : FltTy) (ar : Arith) (o : SOp) (b d : Bool) (f : Val → Val → Val → Val × Bool) : LaneForm :=
  let w := (FltTy.ff t).width
  let v (x y z : LaneWord) (p : Nat) : Val × Bool := f (fread ar t (part x w p)) (fread ar t (part y w p)) (fread ar t (part z w p))
  { o := o, imm := immOfFlt t o.imm, readsB := b, readsD := d,
    f := fun x y z => (laneOf w fun p => (fround ar (FltTy.ff t) (v x y z p).1).c,
      (List.range (32 / w)).any fun p => (fround ar (FltTy.ff t) (v x y z p).1).p || (v x y z p).2) }

/-- The class of a raw code (R162). -/
def classBit (f : FF) (c : Nat) : Nat :=
  let neg := c / 2 ^ (f.width - 1) % 2 = 1
  match f.val c with
  | .nan => 8
  | .inf _ => if neg then 0 else 7
  | .fin _ m _ => if m = 0 then (if neg then 3 else 4)
      else if f.subnormal c then (if neg then 2 else 5) else if neg then 1 else 6

/-- Whether an integer is a rational rounded in a mode (R48): toward zero, or to nearest with ties to even. -/
def RoundsTo (rnd : Rnd) (x : Rat) (k : Int) : Prop :=
  match rnd with
  | .rtz => (k : Rat).abs ≤ x.abs ∧ x.abs < (k : Rat).abs + 1 ∧ 0 ≤ x * k
  | .rne => 2 * (x - k).abs ≤ 1 ∧ (2 * (x - k).abs = 1 → k % 2 = 0)

/-- Whether a comparison of floats holds (R162). -/
def compareFlt : FCond → Val → Val → Bool
  | .un, x, y => isNan x || isNan y
  | .ne, x, y => isNan x || isNan y || ltVal false x y || ltVal false y x
  | .eq, x, y => !(isNan x || isNan y || ltVal false x y || ltVal false y x)
  | .lt, x, y => ltVal false x y
  | .le, x, y => !(isNan x || isNan y || ltVal false y x)

/-- A value that `fscale` reads as an exponent (R161). -/
def exponentOf (t : FltTy) (c : Nat) : Int := match t with | .f32 => num .i32 c | _ => num .i16 c

def fltFormOf (i : Instr) (fmt : BitVec 32) : Option LaneForm :=
  let two (t : FltTy) (o : SOp) (f : Val → Val → Val × Bool) : Option LaneForm :=
    some (onFloats t (arith o fmt) o true false fun x y _ => f x y)
  let one (t : FltTy) (o : SOp) (f : Val → Val) : Option LaneForm :=
    some (onFloats t (arith o fmt) o false false fun x _ _ => (f x, false))
  match i with
  | .fadd t o => two t o addVal
  | .fsub t o => two t o fun x y => addVal x (negVal y)
  | .fmul t o => two t o mulVal
  | .fma t o => some (onFloats t (arith o fmt) o true true fmaVal)
  | .fmin t o => two t o fun x y => (if isNan x || isNan y then .nan else if ltVal true y x then y else x, false)
  | .fmax t o => two t o fun x y => (if isNan x || isNan y then .nan else if ltVal true x y then y else x, false)
  | .fabs t o => one t o absVal
  | .fneg t o => one t o negVal
  | .fround t o => one t o (integral o.rnd)
  | .fcmp c t o =>
    let w := (FltTy.ff t).width
    let ar := arith o fmt
    some { o := o, imm := immOfFlt t o.imm, readsB := true, f := fun x y _ =>
      (laneOf w fun p => if compareFlt c (fread ar t (part x w p)) (fread ar t (part y w p)) then 2 ^ w - 1 else 0, false) }
  | .fclass t o =>
    let w := (FltTy.ff t).width
    some { o := o, imm := immOfFlt t o.imm, f := fun x _ _ => (laneOf w fun p => 2 ^ classBit (FltTy.ff t) (part x w p), false) }
  | .fscale t o =>
    let w := (FltTy.ff t).width
    let ar := arith o fmt
    let v (x y : LaneWord) (p : Nat) : Coded := fround ar (FltTy.ff t) (scaleVal (exponentOf t (part y w p)) (fread ar t (part x w p)))
    some { o := o, readsB := true,
           imm := if o.b = .imm then immOfInt (if t = .f32 then .i32 else .i16) o.imm else immOfFlt t o.imm,
           f := fun x y _ => (laneOf w fun p => (v x y p).c, (List.range (32 / w)).any fun p => (v x y p).p) }
  | .cvt d f o => some { o := o, imm := immFmt f o.imm, f := fun x _ _ =>
      let v := cvtRead (arith o fmt) f x
      let r := cvtWrite (arith o fmt) d f v.1
      (r.1, r.2 || v.2) }
  | _ => none

/-- `pack` and `unpack` (R168). -/
def packFormOf (i : Instr) (fmt : BitVec 32) : Option LaneForm :=
  match i with
  | .pack t o =>
    let ar := arith o fmt
    let ints (d u : IntTy) : LaneForm :=
      { o := o, imm := immOfInt u o.imm, readsB := true,
        f := fun x y _ => (laneOf 16 fun p => fitted d o.sat (num u (if p = 0 then x else y).toNat), false) }
    let bytes (d u : IntTy) : LaneForm :=
      { o := o, imm := immOfInt .i16 o.imm, readsB := true,
        f := fun x y _ => (laneOf 8 fun p => fitted d o.sat (num u (part (if p < 2 then x else y) 16 (p % 2))), false) }
    let flts (f : FF) : LaneForm :=
      let v (x : LaneWord) : Coded := fround ar f (fread ar .f32 x.toNat)
      { o := o, imm := immOfFlt .f32 o.imm, readsB := true,
        f := fun x y _ => (laneOf 16 fun p => (v (if p = 0 then x else y)).c, (v x).p || (v y).p) }
    match t with
    | .i16 => some (ints .i16 .i32)
    | .n16 => some (ints .n16 .n32)
    | .i8 => some (bytes .i8 .i16)
    | .n8 => some (bytes .n8 .n16)
    | .f16 => some (flts .f16)
    | .bf16 => some (flts .bf16)
  | .unpack t o =>
    let ar := arith o fmt
    let h := o.imm.toNat % 2
    let flt (u : FltTy) (x : LaneWord) : LaneWord := BitVec.ofNat 32 (fround ar .f32 (fread ar u (part x 16 h))).c
    let wide (u : IntTy) (x : LaneWord) : LaneWord := laneOf 16 fun p => codeOf 16 (num u (part x 8 (2 * h + p)))
    some { o := o, f := fun x _ _ => (match t with
      | .i16 => BitVec.ofInt 32 (num .i16 (part x 16 h))
      | .n16 => BitVec.ofNat 32 (part x 16 h)
      | .i8 => wide .i8 x
      | .n8 => wide .n8 x
      | .f16 => flt .f16 x
      | .bf16 => flt .bf16 x, false) }
  | _ => none

/-- The form of a word that computes lane by lane, under the `FMT` of its beat. -/
def laneForm (i : Instr) (fmt : BitVec 32) : Option LaneForm :=
  (intFormOf i).or ((fltFormOf i fmt).or (packFormOf i fmt))

/-! ## Where results go (R94, R132, R136) -/

/-- The register that a destination names at the beat under way: g0 to g15, then the rotating registers. -/
def destOf (s : State) : Dst → Option Nat
  | .g n => some n.val
  | .q n => some (16 + if s.qcnt = 0 then n.val else (s.fl.rb.toNat + n.val) % s.qcnt)
  | _ => none

/-- The DST codes of R94. -/
def dstNumber : Dst → Nat
  | .g n => n.val
  | .q n => 16 + n.val
  | .site => 48 | .send => 49 | .xfer => 50 | .feed => 51 | .mask => 52 | .wbuf => 53 | .res => 54 | .seq => 55

/-- Destinations whose beats write the result register and its tag (R132). -/
def reachesRes (d : Dst) : Bool := decide (dstNumber d ≤ 47) || dstNumber d == 52 || dstNumber d == 54 || dstNumber d == 55

/-- `POISON.ORIGIN` after a beat's sinks (R147): the first since the last clear, and a count that stops at 65,535. -/
def poisonAfter (old : Word) (lanes : List Lane) (sink site kind : Nat) : Word :=
  let n := min 65535 (old.toNat / 2 ^ 48 + (lanes.filter (·.p)).length)
  match lanes.find? (·.p) with
  | none => old
  | some l =>
    if old.getLsbD 0 then BitVec.ofNat 16 n ++ old.setWidth 48
    else BitVec.ofNat 16 n ++ l.o ++ BitVec.ofNat 9 sink ++ BitVec.ofNat 8 site ++ BitVec.ofNat 2 kind ++ (1 : BitVec 20)

/-! ## Blocks (R51 to R57, R164 to R167) -/

/-- Bits of an element and its exponent bound (R51). -/
def mxBits : MxTy → Nat
  | .mxf4 => 4
  | _ => 8
def mxTop : MxTy → Int
  | .mxi8 => 0 | .mxf8 => 8 | .mxf4 => 2

/-- `mxq`'s lanes for block j (R165): the elements packed into d, and the scale code for lane j of d + 1. -/
def quantised (f : MxTy) (o : SOp) (s : State) (j : Nat) : List (Nat × Lane) × Lane :=
  let ls := (List.range 32).map fun i => s.laneA o (immOfFlt .f32 o.imm) (32 * j + i)
  let q := mxQuant f o.rnd (ls.map fun l => fread (arith o s.fl.fmt) .f32 l.v.toNat)
  let w := mxBits f
  ((List.range w).map fun m => (w * j + m, resultLane (laneOf w fun n => q.2.1.getD (32 / w * m + n) 0) ls q.2.2 s.idx),
   resultLane (BitVec.ofNat 32 q.1) ls q.2.2 s.idx)

/-- `mxdq`'s lane i (R166): element i mod 32 of its block times 2^(code − 127), the code from lane j of a + 1; of two poisoned
lanes the lower-numbered one's origin stays (R146). -/
def dequantised (f : MxTy) (o : SOp) (s : State) (i : Nat) : Lane :=
  let w := mxBits f
  let m := w * (i / 32) + i % 32 / (32 / w)
  let l := s.laneA o 0 m
  let sc : Lane := match srcNextOf s o.a with
    | some c => s.regLane s.ctx.elem s.key c (i / 32)
    | none => {}
  let code := sc.v.toNat % 256
  let x := mxElemVal f (fmtSpare s.fl.fmt) (part l.v w (i % 32 % (32 / w)))
  let c := fround (arith o s.fl.fmt) .f32 (scaleVal (code - 127) x.1)
  let reads := if i / 32 < m then [sc, l] else [l, sc]
  if code = 255 then resultLane 0x7FC00000 reads true s.idx else resultLane (BitVec.ofNat 32 c.c) reads (c.p || x.2) s.idx

/-- Plane 7 − m of the 32 weights in eight lanes: bit i is bit 7 − m of weight i (R167). -/
def planeLane (ls : List Lane) (m : Nat) : LaneWord :=
  laneOf 1 fun i => if (ls.getD (i / 4) {}).v.getLsbD (8 * (i % 4) + (7 - m)) then 1 else 0

/-- The k-plane value of a weight in two's complement (R57). -/
def kPlane (w : Int) (k : Nat) : Int := w / 2 ^ (8 - k) * 2 ^ (8 - k) + if k < 8 then 2 ^ (7 - k) else 0

/-- Weight i as its first k planes give it (R57, R167). -/
def joined (ls : List Lane) (k i : Nat) : Nat :=
  codeOf 8 (kPlane (num .i8 ((List.range k).map fun t => if (ls.getD t {}).v.getLsbD i then 2 ^ (7 - t) else 0).sum) k)

/-! ## Lane moves (R170) -/

/-- Lane i of `perm` from what its first beat read: of a[j] and b[i] the lower lane's origin stays (R146; on j = i, a's: log
entry 63). -/
def permuted (o : SOp) (c : Scratch) (i me : Nat) : Lane :=
  let b := look {} c.b i
  let j := b.v.toNat % 64
  if j < 8 * (o.fold.val + 1) then
    resultLane (look {} c.a j).v (if j ≤ i then [look {} c.a j, b] else [b, look {} c.a j]) false me
  else resultLane 0 [b] false me

/-- Every lane of `bcast`. -/
def broadcast (o : SOp) (c : Scratch) (me : Nat) : Lane :=
  let a := look {} c.a (o.imm.toNat % 64)
  resultLane a.v [a] false me

/-- Lane i of `lsh`, by the signed shift of IMM[6:0]. -/
def shifted (o : SOp) (c : Scratch) (i me : Nat) : Lane :=
  let j : Int := (i : Int) - (o.imm.setWidth 7).toInt
  let x := if 0 ≤ j ∧ j < 8 * (o.fold.val + 1) then look {} c.a j.toNat else look {} c.b i
  resultLane x.v [x] false me

/-! ## Reductions, scans and groups (R171 to R173) -/

/-- A running sum over lanes, one rounding or `fit` for each lane (R172), from zero. -/
def runningSum (t : RedTy) (ar : Arith) (ls : List Lane) : Coded :=
  ls.foldl (fun a l => match t with
    | .i32 => ⟨fitted .i32 ar.sat (num .i32 a.c + l.v.toInt), a.p⟩
    | .f32 =>
      let r := addVal (fread ar .f32 a.c) (fread ar .f32 l.v.toNat)
      let c := fround ar .f32 r.1
      ⟨c.c, a.p || (c.p || r.2)⟩) ⟨0, false⟩

/-- `rsum` over a list of lanes, which is not empty (R171). -/
def reduced (t : RedTy) (ar : Arith) (ls : List Lane) : Coded :=
  match t, ls with
  | .i32, _ => ⟨fitted .i32 ar.sat (ls.map fun l => l.v.toInt).sum, false⟩
  | .f32, [] => ⟨0, false⟩
  | .f32, l :: ls => ls.foldl (fun a x =>
      let r := addVal (fread ar .f32 a.c) (fread ar .f32 x.v.toNat)
      let c := fround ar .f32 r.1
      ⟨c.c, a.p || (c.p || r.2)⟩) ⟨(fround ar .f32 (fread ar .f32 l.v.toNat)).c, false⟩

/-- The largest of a list of lanes (R171). -/
def largest (t : MaxTy) (ar : Arith) : List Lane → LaneWord
  | [] => 0
  | l :: ls => match t with
    | .i32 => BitVec.ofInt 32 (ls.foldl (fun a x => max a x.v.toInt) l.v.toInt)
    | .n32 => BitVec.ofNat 32 (ls.foldl (fun a x => max a x.v.toNat) l.v.toNat)
    | .f32 => BitVec.ofNat 32 (fround ar .f32 (ls.foldl (fun a x => maxVal a (fread ar .f32 x.v.toNat)) (fread ar .f32 l.v.toNat))).c

/-- The lanes of e's segment up to e: from the last lane at or before e that begins one (R172). -/
def segmentAt (en : List Nat) (head : BitVec 64) (e : Nat) : List Nat :=
  let upTo := en.filter (· ≤ e)
  let starts := upTo.filter fun i => head.getLsbD i || some i == en.head?
  upTo.filter fun i => starts.getLast?.getD 0 ≤ i

/-! ## Sites (R208, R209, R215, R216, R234) -/

/-- base := C + o × LW, with C the cursor of the beat (R209, R215). -/
def baseWord (s : State) (o : SOp) : Nat :=
  let x := s.siteRec o
  let h := s.share o
  let c2 : Int := s.fl.ctr2.toNat * h.lw
  (if x.fill = 1 then (s.fl.ctr3.toNat * x.stride + c2) % h.se else c2 % h.se).toNat + o.imm.toNat / 256 * h.lw

/-- The little-endian number in n bytes of an element's bank. -/
def bankNum (e : Elem) (a : Nat) : Nat → Nat
  | 0 => 0
  | n + 1 => (bankByte e a).toNat + 256 * bankNum e (a + 1) n

/-- Share word, halfword and byte (R208, R215). -/
def wordIn (s : State) (o : SOp) (w : Nat) : LaneWord := BitVec.ofNat 32 (bankNum s.el ((s.share o).off + 4 * w) 4)
def halfIn (s : State) (o : SOp) (h : Nat) : Nat := bankNum s.el ((s.share o).off + 2 * h) 2

/-- The index that `ldx` and `stx` read of a lane (R215), as a word of the share. -/
def indexed (s : State) (o : SOp) (i : Nat) : Nat :=
  (((baseWord s o : Int) + (resLane s.el s.el.res i).v.toInt) % (s.share o).se).toNat

/-- The lane that `ldt` loads (R216). -/
def transposed (t : LdtTy) (s : State) (o : SOp) (i : Nat) : LaneWord :=
  let nr := (s.siteRec o).lrows + 1
  let nc := (s.siteRec o).lcols + 1
  let lw := (s.share o).lw
  let se := (s.share o).se
  let b := baseWord s o
  match t with
  | .n32 =>
    let q := i / (nr * nc)
    let u := i % (nr * nc)
    wordIn s o ((b + q * lw + u % nr * nc + u / nr) % se)
  | .n16 => laneOf 16 fun p =>
    let v := 2 * i + p
    let q := v / (2 * nr * nc)
    let u := v % (2 * nr * nc)
    halfIn s o ((2 * b + q * 2 * lw + u % nr * 2 * nc + u / nr) % (2 * se))

/-- Where lane i of `sts` stores, in bytes of the share, and how many (R215). -/
def storedAt (t : StsTy) (s : State) (o : SOp) (i : Nat) : Nat × Nat :=
  match t with
  | .n32 => (4 * ((baseWord s o + i) % (s.share o).se), 4)
  | .n16 => (2 * ((2 * baseWord s o + i) % (2 * (s.share o).se)), 2)
  | .n8 => ((4 * baseWord s o + i) % (4 * (s.share o).se), 1)

/-- The bytes that a store beat leaves, as (share byte, byte), in ascending lanes. -/
def storeList (s : State) (o : SOp) (at_ : Nat → Nat × Nat) : List (Nat × Byte) :=
  (s.enabled o).flatMap fun i => (List.range (at_ i).2).map fun j =>
    ((at_ i).1 + j, BitVec.ofNat 8 ((s.laneA o 0 i).v.toNat / 256 ^ j))

/-- The class of the bank's slot-table entry on this cycle, in the table of the beat's plane, admits a lane word; `ldt` needs
FEED (R131, R213). -/
def laneAdmitted (s : State) (fed : Bool) : Prop :=
  let c := (s.bankEntry s.ctx.elem s.cycle s.oldPlane).2
  c = 1 ∨ (c = 0 ∧ fed = false)

/-- The line's physical address and its local line (R234). -/
def lineNo (s : State) (o : SOp) : Nat := s.fl.ctr2.toNat + o.imm.toNat / 256
def lineAt (s : State) (o : SOp) : Nat :=
  let h := s.share o
  s.fl.base.toNat / 64 % 2 ^ 46 * 64 + 4 * h.lw * (lineNo s o * h.nb + h.pos)
def localLine (s : State) (o : SOp) : Nat := lineNo s o % (s.share o).le

/-- The landing entry that a word's window takes (R140, R141). -/
def windowOf (s : State) (o : SOp) (acc entry : Nat) (atomic : Bool) : Landing :=
  { isOpen := true, wid := o.win.toNat, slot := s.key, launch := s.fl.launch, gen := s.fl.gen,
    edge := s.fl.edge, close := s.cycle + 8 * ((s.window o).1 + (s.region s.ctx.region).winstretch.toNat), reg := (destOf s o.dst).getD 0,
    code := dstNumber o.dst, mask := s.predMask o, width := 8 * (o.fold.val + 1), acc := acc, atomic := atomic,
    sline := s.fl.line, site := siteNo o, line := localLine s o, kept := (look {} s.el.landing entry).kept,
    word := s.fl.wordId, beats := 1 }

/-- The fields of an access that every windowed word of the beat gives it (R234). -/
def accessOf (s : State) (o : SOp) (id : Nat) (kind : AccKind) (addr : Nat) : Access :=
  { id := id, kind := kind, region := s.ctx.region, slot := s.key, launch := s.fl.launch, gen := s.fl.gen, elem := s.ctx.elem,
    win := id, stream := siteNo o % 16, site := siteNo o, addr := addr, edge := s.fl.edge, store := (s.siteRec o).store,
    line := localLine s o }

/-- The atomic forms and their operations (R239), numbered for the access. -/
def atomOf (i : Instr) : Option (SOp × Nat) :=
  match i with
  | .atomAdd .i32 o => some (o, 0)
  | .atomAdd .f32 o => some (o, 1)
  | .atomMin .i32 o => some (o, 2)
  | .atomMax .i32 o => some (o, 3)
  | .atomMin .n32 o => some (o, 4)
  | .atomMax .n32 o => some (o, 5)
  | .atomAnd o => some (o, 6)
  | .atomOr o => some (o, 7)
  | .atomXor o => some (o, 8)
  | .atomXchg o => some (o, 9)
  | .atomCas o => some (o, 10)
  | .atomInc o => some (o, 11)
  | _ => none

/-- The new word of an atomic (R239). -/
def atomNew (op : Nat) (ar : Arith) (x v c : LaneWord) : LaneWord :=
  let ofInt (z : Int) : LaneWord := BitVec.ofInt 32 z
  match op with
  | 0 => BitVec.ofNat 32 (fitted .i32 ar.sat (x.toInt + v.toInt))
  | 1 => BitVec.ofNat 32 (fround { ar with flush := false } .f32 (addVal (FF.f32.val x.toNat) (FF.f32.val v.toNat)).1).c
  | 2 => ofInt (min x.toInt v.toInt)
  | 3 => ofInt (max x.toInt v.toInt)
  | 4 => ofInt (min x.toNat v.toNat : Nat)
  | 5 => ofInt (max x.toNat v.toNat : Nat)
  | 6 => x &&& v
  | 7 => x ||| v
  | 8 => x ^^^ v
  | 9 => v
  | 10 => if x = c then v else x
  | _ => if v.toNat ≤ x.toNat then 0 else x + 1

/-! ## The matrix array (R184, R185, R188, R195) -/

/-- The code that a step takes of an element's lanes for K value k and row-in-element n (R185): the lane, its lowest bit
and its width. -/
def codePlace (t : MTy) (k n : Nat) : Nat × Nat × Nat :=
  match t with
  | .f16 | .bf16 => (2 * k + n / 2, 16 * (n % 2), 16)
  | .e2m1 | .mxf4 => (k / 2, 8 * n + 4 * (k % 2), 4)
  | _ => (k, 8 * n, 8)

/-- A drained word (R59, R195): its run's scales applied exactly, rounded once; a scale of 0xFF drains a poisoned NaN. -/
def drained (ar : Arith) (t : FltTy) (z : TileWord) (sa sb : Nat) : Coded :=
  let f := FltTy.ff t
  if sa = 255 ∨ sb = 255 then ⟨f.nan, true⟩
  else
    let r := fround { ar with flush := false } f (scaleVal (sa + sb - 254) (FF.f32.val z.v.toNat))
    ⟨r.c, r.p || z.p⟩

/-- The lane 16n + c of an `mdrain` at the element under way (R195): column 16q + c of row 4e + n in f32, and columns
32q + c and 32q + 16 + c in parts 0 and 1 of the 16-bit forms. -/
def drainedLane (s : State) (t : FltTy) (o : SOp) (i : Nat) : Lane :=
  let c := s.cluster (s.ctx.elem / 16)
  let z := o.imm.toNat % 4
  let q := o.imm.toNat / 4 % 4
  let row := 4 * (s.ctx.elem % 16) + i / 16
  let run := c.run z
  let word (j : Nat) : Coded := drained (arith o s.fl.fmt) t (c.word z row j)
    (if run.live then (run.sa.getD row 127).toNat else 127) (if run.live then (run.sb.getD j 127).toNat else 127)
  match t with
  | .f32 => resultLane (BitVec.ofNat 32 (word (16 * q + i % 16)).c) [] (word (16 * q + i % 16)).p s.idx
  | _ => resultLane (laneOf 16 fun p => (word (32 * q + 16 * p + i % 16)).c) []
      ((word (32 * q + i % 16)).p || (word (32 * q + 16 + i % 16)).p) s.idx

/-- The rows (0) or columns (1) of a tile whose checksums differ (R198). -/
def sumsOff (c : Cluster) (z half : Nat) : List Nat := (List.range 64).filter fun i => look 0 c.sums (128 * z + 64 * half + i) != 0

/-- A tile whose checksums no correction mends: two rows or two columns differ, or one of each, not by the same (R198). -/
def SumsBad (c : Cluster) (z : Nat) : Prop :=
  2 ≤ (sumsOff c z 0).length ∨ 2 ≤ (sumsOff c z 1).length
    ∨ ∃ i ∈ sumsOff c z 0, ∃ j ∈ sumsOff c z 1, look 0 c.sums (128 * z + i) ≠ look 0 c.sums (128 * z + 64 + j)

/-- `CLUSTER.ACCERR` after an uncorrectable error of a tile, of a kind: the first since the last clear is kept (R199). -/
def AccErrIs (old new : Word) (z kind : Nat) : Prop :=
  if old.getLsbD 0 then new = old
  else new.getLsbD 0 = true ∧ new.toNat / 2 ^ 38 % 4 = z ∧ new.toNat / 2 ^ 24 % 4 = kind ∧ new.toNat / 2 ^ 48 = old.toNat / 2 ^ 48

/-- A tile at rest for the word under way, with nothing of it protected against the word (R196). -/
def TileRests (s : State) (o : SOp) : Prop := s.noteFirst.tileBusy (o.imm.toNat % 4) = false

/-! ## The array (R189 to R193) -/

/-- Bit n of the 32-bit word at byte b of a line. -/
def lineBit (byte : Nat → Byte) (b n : Nat) : Bool := (byte (b + n / 8)).getLsbD (n % 8)

/-- The code of column j of row u of a step whose B starts at line l (R189). -/
def columnCode (f : BForm) (byte : Nat → Nat → Byte) (l u j : Nat) : Nat :=
  match f with
  | .ty .f16 | .ty .bf16 => (byte (l + j / 32) (2 * (j % 32))).toNat + 256 * (byte (l + j / 32) (2 * (j % 32) + 1)).toNat
  | .ty .e2m1 | .ty .mxf4 => (byte l (32 * u + j / 2)).toNat / 2 ^ (4 * (j % 2)) % 16
  | .bp k => ((List.range (k.val + 2)).map fun t =>
      if lineBit (byte l) (8 * (u * (k.val + 2) + t) + 4 * (j / 32)) (j % 32) then 2 ^ (7 - t) else 0).sum
  | _ => (byte l j).toNat

/-- The P with which an A type pairs with a stored form, if it does (R190). -/
def pairedBy (a : MTy) (b : BForm) : Option Nat :=
  let wide : Bool := a != .f16 && a != .bf16 && a != .e2m1 && a != .mxf4
  match b with
  | .ty .f16 => if a = .f16 then some 1 else none
  | .ty .bf16 => if a = .bf16 then some 1 else none
  | .ty .e2m1 | .ty .mxf4 => if a = .f16 ∨ a = .bf16 then none else some 2
  | .ty _ => if wide then some 1 else none
  | .bp k => if wide then some (if k.val = 0 then 4 else if k.val ≤ 2 then 2 else 1) else none

/-- Lines of one step of B (R189). -/
def stepLines (f : BForm) : Nat := if f = .ty .f16 ∨ f = .ty .bf16 then 2 else 1

/-- A cursor under which k scale lines stand, and then the data of a step (R190). -/
def StandsAt (c : Cluster) (cur k : Nat) (f : BForm) : Prop :=
  (∀ i < k, ∃ g, (c.wline (cur + i)).tag = some (g, true)) ∧ (∀ i < stepLines f, (c.wline (cur + k + i)).tag = some (f, false))
    ∧ cur + k + stepLines f ≤ 4096

/-- The scales of a step: the last scale line that its word passed, and what it is (R190). -/
def ScalesAre (c : Cluster) (w : FWord) (k : Nat) (f : BForm) (sc : Option ScaleIn) : Prop :=
  (k = 0 → sc = w.scale)
    ∧ (k ≠ 0 → ∃ g, (c.wline (w.cursor + k - 1)).tag = some (g, true) ∧ sc = some
        { form := g, codes := (List.range 64).map (c.wbyte none (w.cursor + k - 1)), p := (c.wline (w.cursor + k - 1)).p })
    ∧ match sc with
      | some x => x.form = f ∧ (if w.taken = 0 then (c.wline w.cursor).tag = some (f, true) else w.head = some f)
      | none => BForm.scaled f = false

/-- The pairs of values that a step brings to row i and column j of its tile, with their poison (R191, R192). -/
def stepPairs (s : State) (cl : Nat) (st : FStep) (l : Nat) (f : BForm) (sc : Option ScaleIn) (i j : Nat) :
    List ((Val × Bool) × (Val × Bool)) :=
  let c := s.cluster cl
  let spare := if (c.run st.tile).live then (c.run st.tile).spare.toNat else fmtSpare (s.slot st.slot).fmt % 256
  let poisoned : Bool := (c.wline (if stepLines f = 2 ∧ 32 ≤ j then l + 1 else l)).p || (match sc with | some x => x.p | none => false)
  (List.range st.pack).map fun u =>
    let a := st.vals.getD (i * st.pack + u) (0, false)
    let x := mval st.ty spare a.1.toNat
    let y := bval f spare (BForm.planes f) (columnCode f (c.wbyte none) l u j)
    ((x.1, x.2 || a.2), (y.1, y.2 || poisoned))

/-- The scale codes of a side, 127 throughout where it is unscaled (R193). -/
def sideCodes (l : List (BitVec 8)) : List (BitVec 8) := if l = [] then List.replicate 64 127 else l

end Sys2Proof.Machine
end

