-- ==== Sys2Proof/Machine/HostBus.lean ====
section
/-! DEFINITION. The device register space as a host port sees it (04 R63, R64, R71, R74, R75, 24 R351): what a read
returns, and which event a write is. -/

namespace Sys2Proof.Machine

/-! ## Reads -/

/-- `INGRESS.STAT` (R71): OWNER is the host port of the open stream. -/
def State.ingressStat (s : State) (p : Nat) : Word :=
  let x := s.port p
  let owner := match x.stream with | some l => hostCode (s.launch l).host | none => 0
  BitVec.ofNat 64 (stopAt 255 x.dropped * 2 ^ 20 + x.lastErr % 16 * 2 ^ 16 + owner * 2 ^ 14 + s.queued p % 128 * 2 ^ 7)

/-- `INGRESS.CTL`: CLR is write only (R6, R71). -/
def State.ingressCtl (s : State) (p : Nat) : Word := BitVec.ofNat 64 ((s.port p).prio % 4)

/-- Bytes of the trust registers: measurements, nonce, request and report (R357, R358). -/
def State.trustByte (s : State) (off : Nat) : Byte :=
  let at_ (v i : Nat) : Byte := BitVec.ofNat 8 (v / 2 ^ (8 * i))
  if off < 0x4A200 then
    if (off - 0x4A000) % 64 < 48 then at_ (look 0 s.trustMeas ((off - 0x4A000) / 64)).toNat ((off - 0x4A000) % 64) else 0
  else if 0x4A240 ≤ off ∧ off < 0x4A260 then at_ s.trustNonce.toNat (off - 0x4A240)
  else if 0x4A260 ≤ off ∧ off < 0x4A268 then at_ s.trustAttest.toNat (off - 0x4A260)
  else if 0x4A400 ≤ off then s.trustReport.getD (off - 0x4A400) 0
  else 0

/-- An expert count word (R248): block v of slice x, word i. -/
def State.countWord (s : State) (x v i : Nat) : Word :=
  if i < 6 then look 0 (s.slice x).counters (8 * v + i) &&& 0x0000FFFFFFFFFFFF else 0

/-- What a host read of the word at an offset of the device register space returns (R7, R71, R74, R351): a register of 32
bits in its low half; an offset that no register holds reads as zero. -/
def State.readReg (s : State) (off : Nat) : Word :=
  match regAt off 0x10FC0 0x1000 16 with
  | some p => s.ingressCtl p
  | none => match regAt off 0x10FC4 0x1000 16 with
  | some p => s.ingressStat p
  | none => match regAt off 0x20000 4 16 with
  | some n => (look 0 s.hostSem n).setWidth 64 &&& 0xC000FFFF
  | none => match regAt off 0x30000 4 48 with
  | some r => (s.region r).winstretch.setWidth 64
  | none => match regAt off 0x31000 8 48 with
  | some r => (s.region r).preempt
  | none => match regAt off 0x32000 8 48 with
  | some r => (s.region r).unload
  | none => match regAt off 0x33000 16 48 with
  | some r => (s.region r).pagecopy0
  | none => match regAt off 0x33008 16 48 with
  | some r => (s.region r).pagecopy1
  | none => match regAt off 0x40000 8 192 with
  | some x => (s.slice x).slots
  | none => match regAt off 0x42000 8 768 with
  | some i => if i % 16 = 0 then 0 else look 0 (s.region (i / 16)).mcast (i % 16)
  | none => match regAt off 0x44000 8 192 with
  | some x => (s.slice x).orphans
  | none => match regAt off 0x47000 8 8 with
  | some n => look 0 s.memwin n
  | none => match regAt off 0x48000 8 16 with
  | some n => look 0 s.peerStat n
  | none => match regAt off 0x50000 8 2688 with
  | some i => if i % 2 = 0 then (s.cluster (i / 2)).fence0 else (s.cluster (i / 2)).fence1
  | none => match regAt off 0x4C000 8 2048 with
  | some i => BitVec.ofNat 64 ((look 0 s.log (i / 2)).toNat / 2 ^ (64 * (i % 2)))
  | none => match regAt off 0x1000000 8 786432 with
  | some i => s.countWord (i / 4096) (i % 4096 / 8) (i % 8)
  | none =>
    if off = 0x41000 then s.xlatBase
    else if off = 0x46000 then s.kilnBudget.setWidth 64
    else if off = 0x46008 then s.kilnBase.setWidth 64
    else if off = 0x46010 then BitVec.ofNat 64 s.kilnReserved
    else if off = 0x46018 then s.kilnWindow
    else if off = 0x4BFF8 then s.logCnt.setWidth 64
    else if 0x4A000 ≤ off ∧ off < 0x4A610 ∧ off % 8 = 0 then
      BitVec.ofNat 64 (natOfBytes ((List.range 8).map fun i => s.trustByte (off + i)))
    else 0

/-! ## Writes -/

/-- A 64-byte write to a token window: the token, or why it is none (R64). -/
def tokenOf (host : HostPort) (port : Fin 16) (b : List Byte) : Instr :=
  let h : Word := BitVec.ofNat 64 (natOfBytes (b.take 8))
  let t : Token := { host := host, port := port, seq := BitVec.ofNat 12 (field h 59 48), len := BitVec.ofNat 8 (field h 47 40),
                     payload := BitVec.ofNat 448 (natOfBytes ((b.drop 8).take 56)) }
  if field h 39 0 ≠ 0 then .badTokenWrite host port .header
  else match field h 63 60 with
    | 1 => .openTok t
    | 2 => .paramTok t
    | 3 => .dataTok t
    | 4 => .closeTok t
    | _ => .badTokenWrite host port .header

/-- A write to an ingress port's aperture (R63, R64): the token window, `INGRESS.CTL`, or nothing. -/
def apertureWrite (host : HostPort) (off : Nat) (b : List Byte) : Option Instr :=
  let port : Fin 16 := ⟨(off - 0x10000) / 0x1000 % 16, Nat.mod_lt _ (by decide)⟩
  let o := off % 0x1000
  if o < 0xFC0 then some (if b.length = 64 ∧ o % 64 = 0 then tokenOf host port b else .badTokenWrite host port .size)
  else if o = 0xFC0 then some (.registerWrite host off (BitVec.ofNat 64 (natOfBytes b)))
  else none

/-- A write of a region's command register: the event of the one command that it sets, or its RW fields; a write of
`REGION.PREEMPT` that sets two commands changes nothing (R319, R322, R345). -/
def commandWrite (host : HostPort) (off : Nat) (v : Word) : Option Instr :=
  match regAt off 0x31000 8 48 with
  | some r => (match preCmd v with
      | 0 => some (.registerWrite host off v)
      | 4 => some (.preemptGo r v)
      | 2 => some (.preemptResume r v)
      | 1 => some (.preemptKill r v)
      | _ => none)
  | none => match regAt off 0x32000 8 48 with
  | some r => some (.unloadGo r v)
  | none => match regAt off 0x33000 16 48 with
  | some r => some (if !bitAt v 63 then .registerWrite host off v else if bitAt v 62 then .pagecopyIn r v else .pagecopyOut r v)
  | none => none

/-- A write of a register that acts through an event of its own: clears, counts, windows, trust. -/
def actionWrite (off : Nat) (v : Word) (b : List Byte) : Option Instr :=
  match regAt off 0x44000 8 192 with
  | some x => if bitAt v 1 then some (.orphansClr x) else none
  | none => match regAt off 0x47000 8 8 with
  | some n => some (.hostMemwinWrite ⟨n % 8, Nat.mod_lt _ (by decide)⟩ v)
  | none => match regAt off 0x48000 8 16 with
  | some n => if bitAt v 0 then some (.peerRetryClr ⟨n % 16, Nat.mod_lt _ (by decide)⟩) else none
  | none => match regAt off 0x1000000 8 786432 with
  | some i => some (.expertCounterWrite (i / 4096) (i % 4096 / 8) (i % 8) v)
  | none =>
    if off = 0x41008 then some (.xlatInval v)
    else if off = 0x46000 then some (.kilnBudgetWrite (v.setWidth 32))
    else if off = 0x4A260 then (if v = 1 then some .trustAttest else none)
    else if off = 0x4A200 then
      some (.trustExtend (b.getD 48 0) (BitVec.ofNat 384 (natOfBytes (b.take 48))))
    else none

/-- The events that a host port's write of some bytes at an offset of the device register space is, none where no
register takes it (R63, R351). A register is written whole, at its own offset: log entry 65; the nonce's 32 bytes are four
words of it (R358). -/
def hostWrite (host : HostPort) (off : Nat) (b : List Byte) : List Instr :=
  let word (i : Nat) : Word := BitVec.ofNat 64 (natOfBytes (Sys2Proof.slice b (8 * i) 8))
  let v := word 0
  if 0x10000 ≤ off ∧ off < 0x20000 then (apertureWrite host off b).toList
  else if off = 0x4A240 then (List.range (b.length / 8)).map fun i => .registerWrite host (off + 8 * i) (word i)
  else match regAt off 0x20000 4 16 with
  | some n => [.hostSemWrite host ⟨n % 16, Nat.mod_lt _ (by decide)⟩ (v.setWidth 32)]
  | none => match commandWrite host off v with
  | some i => [i]
  | none =>
    if (regAt off 0x31000 8 48).isSome then []
    else match actionWrite off v b with
    | some i => [i]
    | none => [.registerWrite host off v]

/-- A host port's access to the device register space: a read of a word, or a write of some bytes. -/
inductive HostAccess
  | read (host : HostPort) (off : Nat)
  | write (host : HostPort) (off : Nat) (b : List Byte)
deriving DecidableEq, Repr

def HostAccess.host : HostAccess → HostPort
  | .read h _ | .write h _ _ => h

/-- The accesses that reach the I/O die on one cycle, in the order in which they take effect: port A's first (R74). -/
def portsInOrder (ws : List HostAccess) : List HostAccess :=
  (ws.filter fun w => w.host == .A) ++ ws.filter fun w => w.host != .A

end Sys2Proof.Machine
end

