-- ==== Sys2Proof/Machine/Bus.lean ====
section
/-! DEFINITION. The accesses of the host ports on one cycle (04 R74): each takes its effect, or has its answer, in its place. -/

namespace Sys2Proof.Machine

/-- Instructions performed one behind the other, while each gives a next state. -/
def State.inTurn (s : State) : List Instr → Res
  | [] => .next s
  | i :: is => match exec i s with
    | .next t => t.inTurn is
    | r => r

/-- A host port's access: the word read, or the events of the write. -/
def State.hostAccess (s : State) : HostAccess → Res
  | .read h off => .next (s.answerHost (.word h off (s.readReg off)))
  | .write h off b => s.inTurn (hostWrite h off b)

/-- Accesses in their order. -/
def State.accessesInTurn (s : State) : List HostAccess → Res
  | [] => .next s
  | a :: as => match s.hostAccess a with
    | .next t => t.accessesInTurn as
    | r => r

/-- The accesses that reach the I/O die on one cycle: port A's take effect first (R74). -/
def State.hostCycle (s : State) (ws : List HostAccess) : Res := s.accessesInTurn (portsInOrder ws)

end Sys2Proof.Machine
end

