-- ==== Sys2Proof/Certificates/Slice0/Obligations.lean ====
section
/-! DEFINITION. The statements about the model, for the provers. `SlotIs s t k x` and its like say what one record
becomes and that everything else of the state is as before: they are the frame of each statement. -/

open Sys2Proof Sys2Proof.Machine

/-! ## Control words -/

/-- R117: each form of majors 0 to 3 writes its result, and nothing but that register and the PC changes; a write to a0
or k0 is discarded (R113). A shift immediate with IMM[17:6] not zero decodes to no instruction, and the verifier refuses
it with `BAD_FIELD` (10). -/
def Obligations.ScalarWordsWriteOneRegister : Prop :=
  (∀ (i : Instr) (s : State) (w : Wrote), scalarResult i s.me = some w →
    ∃ t x, exec i s = .next t ∧ SlotIs s t s.key x ∧
      match w with
      | .a d v => x.onlyA s.me ∧ ∀ r, x.areg r = if r = d ∧ d ≠ 0 then v else s.me.areg r
      | .k d v => x.onlyK s.me ∧ ∀ r, x.kreg r = if r = d ∧ d ≠ 0 then v else s.me.kreg r)
  ∧ ∀ w : CtrlWord, isShiftImm w = true → w.toNat / 2 ^ 6 % 2 ^ 12 ≠ 0 →
    (∃ f, decodeCtrl w = .error (.badField f))
      ∧ ∀ used at_ n len, ∃ b, ctrlWordCheck used at_ n len w = some b ∧ b.cause = 10

/-- R118: a branch moves the PC by its offset when it is taken and by 1 when it is not; `call` writes the return word and
deepens; `ret` and `jr` go to a register's value, and trap with `SEQ_ADDR` (cause 32) at their own PC when it lies at or
past the program's length. No other register and no other part of the state changes, so the next word executes at the
slot's next turn. -/
def Obligations.BranchesMoveThePc : Prop :=
  (∀ (i : Instr) (s : State) (n : Int), branchOffset i s.me = some n →
    ∃ t, exec i s = .next t ∧ SlotIs s t s.key { s.me with pc := pcPlus s.me.pc n })
  ∧ (∀ (d : AReg) (off : BitVec 18) (s : State), ∃ t x, exec (.call d off) s = .next t ∧ SlotIs s t s.key x
      ∧ x = { s.me with a := x.a, depth := x.depth, pc := pcPlus s.me.pc off.toInt }
      ∧ x.depth.toNat = min (s.me.depth.toNat + 1) 255
      ∧ ∀ r, x.areg r = if r = d ∧ d ≠ 0 then BitVec.ofNat 64 ((s.me.pc.toNat + 1) % 2 ^ 24) else s.me.areg r)
  ∧ (∀ (x : AReg) (s : State), (s.me.areg x).toNat < (s.kernelAt s.key).words →
      ∃ t, exec (.jr x) s = .next t ∧ SlotIs s t s.key { s.me with pc := (s.me.areg x).setWidth 24 })
  ∧ (∀ (x : AReg) (s : State), (s.me.areg x).toNat < (s.kernelAt s.key).words →
      ∃ t sl, exec (.ret x) s = .next t ∧ SlotIs s t s.key sl
        ∧ sl = { s.me with depth := sl.depth, pc := (s.me.areg x).setWidth 24 } ∧ sl.depth.toNat = s.me.depth.toNat - 1)
  ∧ ∀ (x : AReg) (s : State), (s.kernelAt s.key).words ≤ (s.me.areg x).toNat →
      exec (.jr x) s = .next (s.trapW 32) ∧ exec (.ret x) s = .next (s.trapW 32)

/-- R119, R213: an `ld` or `st` whose site has a record, and whose offset is aligned and inside the buffer, leaves its
access for the bank 8 cycles on (it may be served until 15 on). An `ld` keeps its slot waiting; a `st` lets it go on. Any
other address traps with `SEQ_ADDR` (32). Served, the load's value is the little-endian number of its bytes, extended by its
type, due 16 cycles after the word, when the register takes it; the store, under the configuration that was active when
its word executed, changes exactly its bytes of the bank, or at a fenced cluster is dropped and counted (R331). -/
def Obligations.SequencerAccessesPerform : Prop :=
  (∀ (d base : AReg) (imm : BitVec 18) (s : State), Live s →
    let ea := low64 ((s.me.areg base).toInt + imm.toInt)
    (∀ (t : LdTy) (x : Site), siteNamed s (seqSite ea) = some x → admits x (seqOff ea) (ldWidth t) →
      ∃ u, exec (.ld t d base imm) s = .next u
        ∧ SlotIs (later s (s.cycle + 8) 100 (some s.ctx.region)
            (.inr (.seqLoad s.key d t (seqSite ea) (seqOff ea) (s.cycle + 15)))) u s.key { s.me with wait := .timed })
    ∧ (∀ (t : StTy) (x : Site), siteNamed s (seqSite ea) = some x → admits x (seqOff ea) (stWidth t) →
      ∃ u, exec (.st t d base imm) s = .next u
        ∧ SlotIs (later s (s.cycle + 8) 100 (some s.ctx.region)
            (.inr (.seqStore s.key (s.genOf s.key) (seqSite ea) (seqOff ea) (s.me.areg d) (stWidth t) (s.cycle + 15) s.me.pc)))
            u s.key { s.me with pc := s.me.pc + 1 })
    ∧ (∀ t : LdTy, (siteNamed s (seqSite ea) = none
        ∨ ∃ x, siteNamed s (seqSite ea) = some x ∧ ¬ admits x (seqOff ea) (ldWidth t)) →
      exec (.ld t d base imm) s = .next (s.trapW 32))
    ∧ ∀ t : StTy, (siteNamed s (seqSite ea) = none
        ∨ ∃ x, siteNamed s (seqSite ea) = some x ∧ ¬ admits x (seqOff ea) (stWidth t)) →
      exec (.st t d base imm) s = .next (s.trapW 32))
  ∧ ((∀ (k : Nat) (d : AReg) (t : LdTy) (n off last : Nat) (s : State),
    let p := s.seqPlace k (s.genOf k) n off
    s.elemRuns p.1 = true → s.seqServed p.1 last = true → s.ownerHalted (.inr (.value k d (ldExtend t (bankNumber (s.elem p.1) p.2 (ldWidth t))))) = false →
      ∃ u, s.runEffect (.seqLoad k d t n off last) = u
        ∧ ElemIs (later s (last + 1) 20 (some (k / 8)) (.inr (.value k d (ldExtend t (bankNumber (s.elem p.1) p.2 (ldWidth t))))))
            u p.1 { s.elem p.1 with otherUse := some s.cycle })
  ∧ (∀ (k : Nat) (d : AReg) (v : Word) (s : State), ∃ x, SlotIs s (s.runEffect (.value k d v)) k x
      ∧ x = { s.slot k with a := x.a, pc := (s.slot k).pc + 1, wait := .none }
      ∧ ∀ r, x.areg r = if r = d ∧ d ≠ 0 then v else (s.slot k).areg r)
  ∧ ∀ (k gen n off last w : Nat) (v : Word) (epc : BitVec 24) (s : State),
    let p := s.seqPlace k gen n off
    (s.elemRuns p.1 = false → ClusterIs s (s.runEffect (.seqStore k gen n off v w last epc)) (p.1 / 16)
      { s.cluster (p.1 / 16) with fence1 := ((s.runEffect (.seqStore k gen n off v w last epc)).cluster (p.1 / 16)).fence1 })
    ∧ (s.elemRuns p.1 = true → s.seqServed p.1 last = true → ∃ x, ElemIs s (s.runEffect (.seqStore k gen n off v w last epc)) p.1 x
      ∧ x = { s.elem p.1 with bank := x.bank, dirty := x.dirty, otherUse := some s.cycle }
      ∧ (∀ i < w, bankByte x (p.2 + i) = BitVec.ofNat 8 (v.toNat / 256 ^ i))
      ∧ ∀ a, (a < p.2 ∨ p.2 + w ≤ a) → bankByte x a = bankByte (s.elem p.1) a))

/-- R124, R125, R310: a `loop` or `run` with a good descriptor starts; its first beat may leave the edge 4 cycles on. A
`loop` of no trips issues nothing. A bad descriptor traps with `LOOP_DESC` (20), a second issue waits (also on the cycle
of the last beat of the one before it), and in a handler both trap with `TRAP_NEST` (115). R107, R120, R136, R209: a turn
sends one beat of the line in every row whose word has so many beats; a line that is not live in its iteration takes its
turns and sends none. The first beat of all sets counters 2 and 3, and the last one of an iteration of a loop steps the
rotating base and counter 2. A live line with a word that does not decode, or that R93 or R95 refuse, is not issued: its
lowest such row traps at point F with `RSV_MAJOR` (112) or `ILLEGAL_MINOR` (113). -/
def Obligations.IssuesStart : Prop :=
  (∀ (n desc : AReg) (s : State),
    let d := s.me.areg desc
    let trips := (s.me.areg n).toNat % 2 ^ 32
    let started (kind : IssueKind) (c : Nat) : Slot :=
      { s.me with pc := s.me.pc + 1, wait := .none,
                  cur := { kind := kind, desc := d, n := c, startAt := s.cycle + 4, serial := s.serial } }
    (s.me.active = false → Idle s.cycle s.me → GoodLoop s d → trips ≠ 0 →
      ∃ t, exec (.loop n desc) s = .next t ∧ SlotIs { s with serial := s.serial + 1 } t s.key (started .loop trips))
    ∧ (s.me.active = false → Idle s.cycle s.me → GoodLoop s d → trips = 0 →
      ∃ t, exec (.loop n desc) s = .next t ∧ SlotIs s t s.key { s.me with pc := s.me.pc + 1, wait := .none })
    ∧ (s.me.active = false → Idle s.cycle s.me → GoodRun s d →
      ∃ t, exec (.run desc) s = .next t ∧ SlotIs { s with serial := s.serial + 1 } t s.key (started .run 1))
    ∧ (s.me.active = false → Idle s.cycle s.me → ¬ GoodLoop s d → exec (.loop n desc) s = .next (s.trapW 20))
    ∧ (s.me.active = false → Idle s.cycle s.me → ¬ GoodRun s d → exec (.run desc) s = .next (s.trapW 20))
    ∧ (s.me.active = false → ¬ Idle s.cycle s.me →
      (∃ t, exec (.loop n desc) s = .next t ∧ SlotIs s t s.key { s.me with wait := .loop })
      ∧ ∃ t, exec (.run desc) s = .next t ∧ SlotIs s t s.key { s.me with wait := .loop })
    ∧ (s.me.active = true → exec (.loop n desc) s = .next (s.trapW 115) ∧ exec (.run desc) s = .next (s.trapW 115)))
  ∧ ∀ (key : Nat) (s : State), s.ecc = [] →
    let sl := s.slot key
    let x := sl.cur
    let l := s.launch sl.launch
    let c := s.planeOf key x.old
    let line := firstLine x.desc + x.line
    let ws := s.lineOf key x.old line
    let lines := if x.kind = .loop then loopLast x.desc + 1 else runLast x.desc + 1
    let live : Prop := x.kind = .loop → stageOf x.desc x.line ≤ x.iter ∧ x.iter < x.n + stageOf x.desc x.line
    let sound (q : Nat) : Prop := ∀ v, ws[q]? = some v → ∃ i, decodeSched v = .ok i ∧ shapeOk (copyRows c) (4 * c.pcol) q i = none
    let t := s.issueBeat key
    let stops (r num : Nat) : Prop :=
      t = s.raiseNow key { num := num, kind := 5, row := 4 * l.cr0 + r, line := line }
    (x.beat = 0 → live → ∀ r w, ws[r]? = some w → (∀ q < r, sound q) →
      (decodeSched w = .error .rsvMajor → stops r 112)
      ∧ (∀ e, decodeSched w = .error e → e ≠ .rsvMajor → stops r 113)
      ∧ ∀ i, decodeSched w = .ok i → shapeOk (copyRows c) (4 * c.pcol) r i ≠ none → stops r 113)
    ∧ ((x.beat ≠ 0 ∨ ¬ live ∨ ∀ q, sound q) →
      let y : Issue := { x with started := true }
      let on : Slot := { sl with
        ctr2 := if x.started then sl.ctr2 else 0, ctr3 := if x.started then sl.ctr3 else sl.unit
        lineFmt := if x.beat = 0 then sl.fmt else sl.lineFmt }
      let sent (f : Flight) (r : Nat) (w : SchedWord) : Prop := ws[r]? = some w ∧ x.beat ≤ w.toNat / 2 ^ 65 % 8 ∧ f = { f with
        region := key / 8, slot := key % 8, launch := sl.launch, gen := x.old.getD l.gen, row := 4 * l.cr0 + r
        col := 4 * l.cc0 + w.toNat / 2 ^ 60 % 32, colL := 4 * l.cc0 + w.toNat / 2 ^ 55 % 32, cc0 := l.cc0, edge := s.cycle
        beat := x.beat, word := w, pos := y, line := line, rb := sl.rb, ctr2 := on.ctr2, ctr3 := on.ctr3, fmt := on.lineFmt }
      let more : Prop := x.beat + 1 < lineBeats ws
      let lastLine : Prop := lines ≤ x.line + 1
      let moreTrips : Prop := x.kind = .loop ∧ x.iter + 1 < x.n + stagesOf x.desc - 1
      let done : Slot := if x.kind = .loop then { on with rb := baseAfter (s.kernelAt key).qcnt sl.rb, ctr2 := on.ctr2 + 1 } else on
      t = { s with flights := t.flights, slots := t.slots, agenda := t.agenda } ∧ (∀ d ∈ s.agenda, d ∈ t.agenda)
        ∧ (∀ f ∈ s.flights, f ∈ t.flights) ∧ (∀ f ∈ t.flights, f ∈ s.flights ∨ (live ∧ ∃ r w, sent f r w))
        ∧ (live → ∀ r w, ws[r]? = some w → x.beat ≤ w.toNat / 2 ^ 65 % 8 → ∃ f ∈ t.flights, sent f r w)
        ∧ (∀ k, k ≠ key → t.slot k = s.slot k)
        ∧ (more → t.slot key = { on with cur := { y with beat := x.beat + 1 } })
        ∧ (¬ more → ¬ lastLine → t.slot key = { on with cur := { y with beat := 0, line := x.line + 1 } })
        ∧ (¬ more → lastLine → moreTrips → t.slot key = { done with cur := { y with beat := 0, line := 0, iter := x.iter + 1 } })
        ∧ (¬ more → lastLine → ¬ moreTrips → t.slot key = match sl.following with
          | z :: zs => { done with cur := z, following := zs }
          | [] => { done with cur := {}, sentAt := some s.cycle }))

/-- R126, R127, R135: `hold`, `wake` and `ctok` take effect 4 cycles on and let the slot go on; bits of other launches'
slots are ignored; a `hold` that would leave no slot of the launch free traps with `HOLD_ALL` (21). On that cycle the named
slots are held or let go, counters 2 and 3 of the issuing slot move, `SLOT.FRET` takes a value; nothing else changes. -/
def Obligations.HoldWakeAndTokensAct : Prop :=
  ((∀ (set : BitVec 8) (s : State), Live s → StaysFree s set → ∃ t own, OwnSet s set own ∧ exec (.hold set) s = .next t
    ∧ SlotIs (later s (s.cycle + 4) 20 (some s.ctx.region) (.inr (.hold s.ctx.region own))) t s.key
        { s.me with pc := s.me.pc + 1 })
  ∧ (∀ (set : BitVec 8) (s : State), ¬ StaysFree s set → exec (.hold set) s = .next (s.trapW 21))
  ∧ (∀ (set : BitVec 8) (s : State), Live s → ∃ t own, OwnSet s set own ∧ exec (.wake set) s = .next t
    ∧ SlotIs (later s (s.cycle + 4) 20 (some s.ctx.region) (.inr (.wake s.ctx.region own))) t s.key
        { s.me with pc := s.me.pc + 1 })
  ∧ ∀ (line : CtokLine) (s : State), Live s → ∃ t, exec (.ctok line) s = .next t
    ∧ SlotIs (later s (s.cycle + 4) 20 (some s.ctx.region) (.inr (.token s.key line s.me.unit))) t s.key
        { s.me with pc := s.me.pc + 1 })
  ∧ ((∀ (r : Nat) (set : BitVec 8) (s : State) (on : Bool),
    let t := s.runEffect (if on then .hold r set else .wake r set)
    t = { s with slots := t.slots } ∧ ∀ k, t.slot k =
      if k / 8 = r ∧ set.getLsbD (k % 8) = true then { s.slot k with held := on } else s.slot k)
  ∧ (∀ (k : Nat) (u : BitVec 24) (s : State),
    SlotIs s (s.runEffect (.token k .step u)) k { s.slot k with ctr2 := (s.slot k).ctr2 + 1 }
    ∧ SlotIs s (s.runEffect (.token k .clear u)) k { s.slot k with ctr2 := 0 }
    ∧ SlotIs s (s.runEffect (.token k .unit u)) k { s.slot k with ctr3 := u })
  ∧ ∀ (k edge : Nat) (v : Word) (s : State), let t := s.runEffect (.fret k edge v)
    SlotIs { s with undo := t.undo } t k { s.slot k with fret := v })

/-- R287 to R289: `rvinit`, and for points of the launch's own region `rvarr`, reach their point at the end of t + 8 and
keep the slot until t + 16; `rvwait` queries its point from tw + 8. Nothing else changes yet. An arrival or a query on a
point in another region's slice waits for an answer that is not timed (R291). -/
def Obligations.RendezvousWordsStart : Prop :=
  ∀ (x : AReg) (w : Fin 24) (s : State), s.ecc = [] →
    (∃ t, exec (.rvinit x w) s = .next t
      ∧ SlotIs (later s (s.cycle + 8) 130 none (.inr (.rvInit s.key s.me.launch w.val (s.me.areg x) true))) t s.key
          { s.me with wait := .rvOut, busy := s.cycle + 16 })
    ∧ (s.remotePoint s.me.launch w.val = false →
      (∃ t, exec (.rvarr w) s = .next t
        ∧ SlotIs (later s (s.cycle + 8) 131 none (.inr (.rvArrive s.key s.me.launch w.val (look 0 s.me.ac w.val) true))) t s.key
            { s.me with wait := .rvOut, busy := s.cycle + 16 })
      ∧ ∃ t, exec (.rvwait w) s = .next t ∧ SlotIs s t s.key { s.me with wait := .rv w.val none, busy := s.cycle + 8 })
    ∧ (s.remotePoint s.me.launch w.val = true →
      (∃ t, exec (.rvarr w) s = .next t ∧ SlotIs s t s.key { s.me with wait := .away w.val .arrive })
      ∧ ∃ t, exec (.rvwait w) s = .next t ∧ SlotIs s t s.key { s.me with wait := .away w.val .query })

/-- R288: the check of a point is the loop of the rule, whatever the point's counts: no more than two phases complete in
it once COUNT is not zero, and it stops where ARR lies below COUNT. An arrival at a live point: dlt = 0 counts in ARR and dlt = 1 in NEXT, AC goes up by one and the check runs;
any other dlt is `RV_OVERRUN` (80) first on the slot's next turn, with the point and AC unchanged. The arrival of a slot
whose launch has stopped or gone is counted at a point whose owner runs on (log entry 56), and else is dropped (R293). -/
def Obligations.ArrivalsAreCounted : Prop :=
  (∀ (n : Nat) (x : Point), 3 ≤ n → (x.init = true → x.count.toNat ≠ 0) →
    x.check = checkRounds n x ∧ (x.init = true → x.check.arr.toNat < x.check.count.toNat))
  ∧ ∀ (key w : Nat) (s : State),
    let sl := s.slot key
    let p := s.target sl.launch w
    let ac := look 0 sl.ac w
    (∀ a, s.pointLives p = true → s.sameTeam key sl.launch = true →
      (∀ y, arrival ac (s.point p.1 p.2) = some y → ∃ t, s.runEffect (.rvArrive key sl.launch w a true) = t
        ∧ t.point p.1 p.2 = y.check
        ∧ (∀ j, j ≠ 24 * p.1 + p.2 → look ({} : Point) t.points j = look {} s.points j)
        ∧ SlotIs { s with points := t.points } t key { sl with ac := put sl.ac w (ac + 1), pc := sl.pc + 1 })
      ∧ (arrival ac (s.point p.1 p.2) = none →
        SlotIs s (s.runEffect (.rvArrive key sl.launch w a true)) key
          { sl with raised := { num := 80, kind := 0, code := w } :: sl.raised }))
    ∧ ∀ l a on, s.sameTeam key l = false →
      let g := s.target l w
      let t := s.runEffect (.rvArrive key l w a on)
      (s.pointLives g = true → ∀ y, arrival a (s.point g.1 g.2) = some y →
        t = { s with points := t.points } ∧ t.point g.1 g.2 = y.check
          ∧ ∀ j, j ≠ 24 * g.1 + g.2 → look ({} : Point) t.points j = look {} s.points j)
      ∧ (s.pointLives g = true → arrival a (s.point g.1 g.2) = none → t = s)
      ∧ (s.pointLives g = false → t.points = s.points ∧ t.slots = s.slots ∧ t.logCnt = s.logCnt + 1)

/-- R242, R294 to R296: the handle words of the owner, or on a free handle. `hwait` reads the state from t + 8; `hfree`
goes on and acts at the end of t + 8, and traps with `XFER_BUSY` (83) on a filling handle; `hstat` reads at the end of
t + 8. A handle of another launch traps with `XFER_BUSY`. -/
def Obligations.HandleWordsStart : Prop :=
  ∀ (d : AReg) (h : Fin 64) (s : State), s.ecc = [] → Live s →
    let y := s.handle s.ctx.region h.val
    (y.st = .free ∨ y.owner = s.me.launch →
      (∃ t, exec (.hwait h) s = .next t ∧ SlotIs s t s.key { s.me with wait := .handle h.val none, busy := s.cycle + 8 })
      ∧ (y.st ≠ .filling → ∃ t, exec (.hfree h) s = .next t
        ∧ SlotIs (later s (s.cycle + 8) 140 none (.inr (.hFree s.key h.val))) t s.key { s.me with pc := s.me.pc + 1 })
      ∧ (y.st = .filling → exec (.hfree h) s = .next (s.trapW 83 h.val))
      ∧ ∃ t, exec (.hstat d h) s = .next t
        ∧ SlotIs (later s (s.cycle + 8) 145 (some s.ctx.region) (.inr (.hStat s.key d h.val))) t s.key
            { s.me with wait := .timed })
    ∧ (y.st ≠ .free ∧ y.owner ≠ s.me.launch →
      exec (.hwait h) s = .next (s.trapW 83 h.val) ∧ exec (.hfree h) s = .next (s.trapW 83 h.val)
        ∧ exec (.hstat d h) s = .next (s.trapW 83 h.val))

/-- R242, R295, R296: the effects of the handle words. `hstat`'s value is the handle's word as it stands, due 8 cycles
on; `hfree` makes a full handle of the slot's launch drain, for one cycle where it clears nothing and else one cycle for
each 64 bytes. To a handle that is free or draining when it acts it does nothing (R295), nor to one that fills or has another
owner by then: the model's choice, log entry 46. -/
def Obligations.HandleWordsAct : Prop :=
  (∀ (key h : Nat) (d : AReg) (s : State), s.ownerHalted (.inr (.value key d (handleBits (s.handle (key / 8) h)))) = false →
    s.runEffect (.hStat key d h)
      = later s (s.cycle + 8) 20 (some (key / 8)) (.inr (.value key d (handleBits (s.handle (key / 8) h)))))
  ∧ ∀ (key : Nat) (h : Fin 64) (s : State),
    let y := s.handle (key / 8) h.val
    let n := match y.dest with | none => 1 | some (_, b) => (b + 63) / 64
    (y.st = .full → y.owner = (s.slot key).launch →
      ∃ t, s.runEffect (.hFree key h.val) = t
        ∧ t.handle (key / 8) h.val = { y with st := .draining, drainAt := s.cycle + n }
        ∧ (∀ j, j ≠ h.val → t.handle (key / 8) j = s.handle (key / 8) j)
        ∧ t.agenda = s.agenda
            ++ (if y.dest.isSome then [dueOf (s.cycle + 1) 139 none (.inr (.drain (key / 8) h.val 0))] else [])
            ++ [dueOf (s.cycle + n) 140 none (.inl (.handleDrainEnd (key / 8) h))]
        ∧ t = { s with regions := t.regions, agenda := t.agenda })
    ∧ (y.st ≠ .full ∨ y.owner ≠ (s.slot key).launch → s.runEffect (.hFree key h.val) = s)

/-- R277, R279, R280, R297: `sbar` adds its barrier and goes on; a fence waits, with a waymark on each path of its scope;
`csync` waits with its mask, or traps with `CSYNC_MASK` (82) when the mask names a page outside the page set or differs
from that of another waiting slot. -/
def Obligations.BarriersFencesAndCsyncStart : Prop :=
  (∀ (set : BitVec 16) (s : State), ∃ t, exec (.sbar set) s = .next t ∧ SlotIs s t s.key
    { s.me with pc := s.me.pc + 1, barriers := s.me.barriers ++ [{ set := set, ts := s.cycle }] })
  ∧ (∀ s : State, ∃ t, exec .fenceWay s = .next t ∧ SlotIs s t s.key
    { s.me with wait := .fence 6 s.cycle, waymarks := s.me.paths.map (·.1) })
  ∧ (∀ (scope : Fin 6) (s : State), ∃ t x, exec (.fence scope) s = .next t ∧ SlotIs s t s.key x
    ∧ x = { s.me with wait := .fence scope.val s.cycle, waymarks := x.waymarks }
    ∧ ∀ p, p ∈ x.waymarks ↔ p ∈ s.me.paths.map (·.1) ∧ 2 ≤ scope.val
        ∧ (scope.val = 2 → p % 256 / 4 = s.ctx.region) ∧ (scope.val = 3 → p % 256 / 8 = s.ctx.region / 2))
  ∧ ∀ (m : AReg) (s : State), Live s →
    let v := s.me.areg m
    let other : Prop := ∃ k ∈ s.slotKeys s.me.launch, k ≠ s.key ∧ ∃ v' c, (s.slot k).wait = .csync v' c ∧ v' ≠ v
    (v.toNat < 2 ^ pagesOf (s.copyOf s.me.launch) → ¬ other → ∃ t, exec (.csync m) s = .next t
      ∧ SlotIs (later s (s.cycle + 2 ^ 32) 141 (some s.ctx.region) (.inl (.csyncStall s.me.launch))) t s.key
          { s.me with wait := .csync v s.cycle })
    ∧ (2 ^ pagesOf (s.copyOf s.me.launch) ≤ v.toNat ∨ other → exec (.csync m) s = .next (s.trapW 82))

/-- R128 to R130: `mload` starts a load and sets STATE to 1, waits while an old plane is held, and traps with
`MILESTONE_STATE` (22) on STATE 1 or 2 or a pending milestone. `mswap` names its milestone, sets PEND and commits 256
cycles before it, or traps with `MILESTONE_LATE` (23) or `MILESTONE_STATE`; LATE is looked at first (the model's choice, log
entry 36). `mcancel` cancels what is not committed, with
LAST 3 and STATE 0, and else does nothing but go on. -/
def Obligations.MilestoneWordsAct : Prop :=
  ∀ (x : AReg) (s : State), Live s →
    let l := s.me.launch
    let ln := s.launch l
    let m := (s.me.areg x).toNat
    (ln.oldGen = none → (mState ln.mstat = 0 ∨ mState ln.mstat = 3) → mPend ln.mstat = false →
      ∃ t, exec (.mload x) s = .next t
        ∧ t = { s with serial := s.serial + 1, slots := t.slots, launches := t.launches, loads := s.loads ++
            [{ id := s.serial, region := s.ctx.region, va := (s.me.areg x).setWidth 72, launch := l, phase := true }] }
        ∧ t.slot s.key = { s.me with pc := s.me.pc + 1, wait := .none } ∧ (∀ j, j ≠ s.key → t.slot j = s.slot j)
        ∧ t.launch l = { ln with mload := some s.serial, mstat := (t.launch l).mstat } ∧ (∀ j, j ≠ l → t.launch j = s.launch j)
        ∧ (t.launch l).mstat = (ln.mstat &&& 0xFFFFFFFC) ||| 1)
    ∧ (ln.oldGen ≠ none → ∃ t, exec (.mload x) s = .next t ∧ SlotIs s t s.key { s.me with wait := .release })
    ∧ (ln.oldGen = none → (mState ln.mstat = 1 ∨ mState ln.mstat = 2 ∨ mPend ln.mstat = true) →
      exec (.mload x) s = .next (s.trapW 22))
    ∧ (m < s.cycle + 512 → exec (.mswap x) s = .next (s.trapW 23))
    ∧ (s.cycle + 512 ≤ m → (mPend ln.mstat = true ∨ mState ln.mstat = 0 ∨ mState ln.mstat = 3) →
      exec (.mswap x) s = .next (s.trapW 22))
    ∧ (s.cycle + 512 ≤ m → mPend ln.mstat = false → (mState ln.mstat = 1 ∨ mState ln.mstat = 2) →
      ∃ t, exec (.mswap x) s = .next t
        ∧ t = { s with slots := t.slots, launches := t.launches, agenda := s.agenda ++
            [dueOf (m - 256) 6 (some s.ctx.region) (.inl (.milestoneCommit l))] }
        ∧ t.slot s.key = { s.me with pc := s.me.pc + 1 } ∧ (∀ j, j ≠ s.key → t.slot j = s.slot j)
        ∧ t.launch l = { ln with milestone := s.me.areg x, committed := false, mstat := ln.mstat ||| 4 }
        ∧ ∀ j, j ≠ l → t.launch j = s.launch j)
    ∧ (ln.oldGen = none → ¬ (mPend ln.mstat = true ∧ ln.committed = true) → ∃ t, exec .mcancel s = .next t
        ∧ t.slot s.key = { s.me with pc := s.me.pc + 1 } ∧ (∀ j, j ≠ s.key → t.slot j = s.slot j)
        ∧ (t.launch l).shadow = none ∧ (t.launch l).mload = none ∧ mState (t.launch l).mstat = 0
        ∧ mPend (t.launch l).mstat = false ∧ (mPend ln.mstat = true → mLast (t.launch l).mstat = 3)
        ∧ (∀ j, j ≠ l → t.launch j = s.launch j)
        ∧ t = { s with slots := t.slots, launches := t.launches, loads := t.loads })
    ∧ (ln.oldGen ≠ none ∨ (mPend ln.mstat = true ∧ ln.committed = true) →
      ∃ t, exec .mcancel s = .next t ∧ SlotIs s t s.key { s.me with pc := s.me.pc + 1 })

/-- R256 to R260: the control words of the DDA on good operands, and where they trap: `dpatch`, at its first word
outside a site, with `SEQ_ADDR` (32); `dset` out of range and `dstep` with a reserved bit or PERIOD 0 with `DDA_STATE` (65); `dsave` and
`drest` with `SEQ_ADDR` for a bad offset and `DDA_STATE` while a domain runs. -/
def Obligations.DdaWordsStart : Prop :=
  ∀ (x y : AReg) (c more : Fin 512) (d : Fin 4) (s : State), Live s → DdaRuns s s.ctx.region →
    let v := s.me.areg x
    let r := some s.ctx.region
    let gone : Slot := { s.me with pc := s.me.pc + 1 }
    let inSite : Prop := ∃ z, siteNamed s (seqSite v) = some z ∧ admits z (seqOff v) 8
    let goodStep : Prop := v.toNat < 2 ^ 31 ∧ 1 ≤ (s.me.areg y).toNat ∧ (s.me.areg y).toNat < 2 ^ 16
    let goodImage : Prop := v.toNat % 64 = 0 ∧ v.toNat + 12352 ≤ 2 ^ 24
    let still : Prop := ∀ i < 4, ((s.region s.ctx.region).dom i).running = false
    (inSite → ∃ t, exec (.dpatch x c more) s = .next t
      ∧ SlotIs (later (later s (s.cycle + 8) 100 r (.inr (.patchWord s.key c.val 0 (more.val + 1) (seqSite v) (seqOff v) (s.cycle + 15) [])))
          (s.cycle + 8 * more.val + 16) 138 r (.inl (.dpatchDone s.key))) t s.key { s.me with wait := .timed })
    ∧ (¬ inSite → exec (.dpatch x c more) s = .next (s.trapW 32))
    ∧ (-(2 ^ 32) < v.toInt → v.toInt < 2 ^ 32 → ∃ t, exec (.dset x c) s = .next t
      ∧ SlotIs (later s (s.cycle + 4) 12 r (.inr (.cellSet s.ctx.region c.val v))) t s.key gone)
    ∧ (¬ (-(2 ^ 32) < v.toInt ∧ v.toInt < 2 ^ 32) → exec (.dset x c) s = .next (s.trapW 65))
    ∧ (goodStep → ∃ t, exec (.dstep x y d) s = .next t
      ∧ SlotIs (later s (s.cycle + 4) 5 r (.inr (.domSet s.ctx.region d.val v.toNat (s.me.areg y).toNat s.key))) t s.key gone)
    ∧ (¬ goodStep → exec (.dstep x y d) s = .next (s.trapW 65))
    ∧ (∃ t, exec (.dstop d) s = .next t ∧ SlotIs (later s (s.cycle + 4) 5 r (.inr (.domStop s.ctx.region d.val))) t s.key gone)
    ∧ (goodImage → still →
      (∃ t, exec (.dsave x) s = .next t
        ∧ SlotIs (later s (s.cycle + 1) 116 r (.inr (.saveUnit s.key))) t s.key { s.me with wait := .save v.toNat 0 })
      ∧ ∃ t, exec (.drest x) s = .next t ∧ SlotIs s t s.key { s.me with wait := .restore v.toNat })
    ∧ (¬ goodImage → exec (.dsave x) s = .next (s.trapW 32) ∧ exec (.drest x) s = .next (s.trapW 32))
    ∧ (goodImage → ¬ still → exec (.dsave x) s = .next (s.trapW 65) ∧ exec (.drest x) s = .next (s.trapW 65))

/-- R256, R258, R259: what `dset`, `dstep` and `dstop` do on their cycle: the cell's Y and residue, its latch and counters
kept; the domain's schedule replaced, its first step on this cycle; the domain stopped with LEFT and PERIOD kept. A word of
`dpatch` is issued 8 cycles after the one before it, and traps then with `SEQ_ADDR` (32) where its address lies outside the
site; served at its bank, it brings its 8 bytes and the next word reaches its own. -/
def Obligations.DdaWordsAct : Prop :=
  (∀ (key first j n site off last : Nat) (got : List Word) (s : State),
    let p := s.seqPlace key (s.genOf key) site (off + 8 * j)
    let e : Effect := .patchWord key first j n site off last got
    let next : Effect := .patchWord key first (j + 1) n site off (last + 8)
      (got ++ [BitVec.ofNat 64 (bankNumber (s.elem p.1) p.2 8)])
    let last_ : Effect := .patched key first (got ++ [BitVec.ofNat 64 (bankNumber (s.elem p.1) p.2 8)])
    let inSite : Prop := ∃ z, ((s.copyOf (s.slot key).launch).sites.find? (·.1 == site)).map (·.2) = some z
      ∧ admits z (off + 8 * (j + 1)) 8
    (s.cycle + 7 = last → j + 1 < n → ¬ inSite →
      s.runEffect e = s.deliver key { num := 32, kind := 0 } (s.slot key).pc)
    ∧ (j + 1 < n → inSite → s.elemRuns p.1 = true → s.seqServed p.1 last = true → s.ownerHalted (.inr next) = false →
      ElemIs (later s (last + 1) 100 (some (key / 8)) (.inr next)) (s.runEffect e) p.1
        { s.elem p.1 with otherUse := some s.cycle })
    ∧ (n ≤ j + 1 → s.elemRuns p.1 = true → s.seqServed p.1 last = true → s.ownerHalted (.inr last_) = false →
      ElemIs (later s (last + 1) 139 (some (key / 8)) (.inr last_)) (s.runEffect e) p.1
        { s.elem p.1 with otherUse := some s.cycle }))
  ∧ ∀ (r : Nat) (d : Fin 4) (c n p key : Nat) (v : Word) (s : State), DdaRuns s r →
    let g := s.region r
    (∃ t, s.runEffect (.cellSet r c v) = t ∧ RegionIs s t r { g with cells := (t.region r).cells }
      ∧ ∀ j, (t.region r).cell j = if j = c then { g.cell c with y := v.setWidth 33, r := 0 } else g.cell j)
    ∧ (∃ t, s.runEffect (.domStop r d.val) = t ∧ RegionIs s t r { g with doms := (t.region r).doms }
      ∧ ∀ j, (t.region r).dom j = if j = d.val then { g.dom j with running := false } else g.dom j)
    ∧ (n = 0 → ∃ t, s.runEffect (.domSet r d.val n p key) = t ∧ RegionIs s t r { g with doms := (t.region r).doms }
      ∧ ∀ j, (t.region r).dom j = if j = d.val then { g.dom j with running := false, left := 0, period := p, steps := 0 }
          else g.dom j)
    ∧ (n ≠ 0 → ∃ t, s.runEffect (.domSet r d.val n p key) = t
      ∧ RegionIs (later s s.cycle 10 (some r) (.inl (.ddaStep r d))) t r { g with doms := (t.region r).doms }
      ∧ ∀ j, (t.region r).dom j = if j = d.val
          then { running := true, period := p, left := n, next := s.cycle, steps := 0, starter := some key } else g.dom j)

/-! ## Exceptions -/

/-- R309, R310, R312: a cause of class R or H delivered to a slot outside its handler with EN set enters the handler at
ENTRY: the record, the detail and EPC are written, the waiting word is abandoned, and no other slot or storage changes.
With EN clear (a `trap` then leaves its code in TVAL, R315), or ENTRY past the program (`TRAP_NEST`, 115), or class T, the
launch is terminated. In the handler a cause
of point W or F is `TRAP_NEST`, and the first other cause is held. -/
def Obligations.DeliveryFollowsTheRecord : Prop :=
  ∀ (key : Nat) (r : Raised) (epc : BitVec 24) (s : State),
    let sl := s.slot key
    let t := s.deliver key r epc
    (causeClass r.num ≠ .T → HandlerReady s key → ∃ x, SlotIs { s with agenda := t.agenda } t key x
      ∧ x = { sl with cause := causeBits r, tval := tvalBits r, epc := epc.setWidth 64, pc := BitVec.ofNat 24 (trapEntry sl),
                      wait := .none, busy := s.cycle + 1 }
      ∧ ∀ d, d ∈ t.agenda ↔ d ∈ s.agenda ∧ ¬ ofWord key d)
    ∧ (causeClass r.num ≠ .T → inHandler sl = false → trapEn sl = false →
        ∃ v, SlotIs s v key { sl with tval := if r.num = 114 then tvalBits r else sl.tval }
          ∧ t = v.terminate sl.launch r.num (key % 8))
    ∧ (causeClass r.num ≠ .T → inHandler sl = false → trapEn sl = true → (s.kernelAt key).words ≤ trapEntry sl →
        t = s.terminate sl.launch 115 (key % 8))
    ∧ (causeClass r.num = .T → t = s.terminate sl.launch r.num (key % 8))
    ∧ (causeClass r.num ≠ .T → inHandler sl = true → (r.kind = 0 ∨ r.kind = 5) → t = s.terminate sl.launch 115 (key % 8))
    ∧ (causeClass r.num ≠ .T → inHandler sl = true → r.kind ≠ 0 → r.kind ≠ 5 → holdsCause sl = true → t = s)
    ∧ (causeClass r.num ≠ .T → inHandler sl = true → r.kind ≠ 0 → r.kind ≠ 5 → holdsCause sl = false →
        ∃ x, SlotIs s t key x ∧ x = { sl with cause := x.cause } ∧ holdsCause x = true ∧ heldNum x = r.num % 128
          ∧ inHandler x = true ∧ causeNum x = causeNum sl)

/-- R312: a terminated launch: each of its slots stops for good, it is marked to retire with the cause and the slot, and
no other slot or launch changes. A launch already terminated keeps its first cause. An arrival on its way to a point in
another region still arrives (R291, R307), 8 cycles on: the model's choice, log entry 56. -/
def Obligations.TerminationStopsEverySlot : Prop :=
  ∀ (l cause slot : Nat) (s : State),
    let t := s.terminate l cause slot
    ((s.launch l).terminated = true → t = s)
    ∧ ((s.launch l).terminated = false →
      t = { s with slots := t.slots, launches := t.launches, agenda := t.agenda }
      ∧ t.launch l = { s.launch l with terminated := true, status := 3, cause := cause, cslot := slot }
      ∧ (∀ j, j ≠ l → t.launch j = s.launch j)
      ∧ (∀ k ∈ s.slotKeys l, Stopped (s.slot k) (t.slot k)) ∧ (∀ k, k ∉ s.slotKeys l → t.slot k = s.slot k)
      ∧ ∀ d, d ∈ t.agenda ↔ (d ∈ s.agenda ∧ ∀ k ∈ s.slotKeys l, ¬ ofWord k d)
        ∨ ∃ k ∈ s.slotKeys l, ∃ w, (s.slot k).wait = .away w .arrive
          ∧ d = dueOf (s.cycle + 8) 131 none (.inr (.rvArrive k l w (look 0 (s.slot k).ac w) false)))

/-- R315, R316: `trap` enters the handler with cause 114, its code and EPC at the next word; `eret` outside a handler is
`ERET_STATE` (117); from a cause that is not resumable it is `TRAP_NEST`; with a held cause it delivers it in place with
EPC kept; else it clears ACTIVE and goes to EPC. -/
def Obligations.TrapsEnterAndReturn : Prop :=
  (∀ (code : BitVec 16) (s : State), HandlerReady s s.key → ∃ t x, exec (.trap code) s = .next t
    ∧ SlotIs { s with agenda := t.agenda } t s.key x
    ∧ x = { s.me with cause := causeBits { num := 114, kind := 0 }, tval := BitVec.ofNat 64 (code.toNat * 2 ^ 16),
                      epc := (s.me.pc + 1).setWidth 64, pc := BitVec.ofNat 24 (trapEntry s.me), wait := .none,
                      busy := s.cycle + 1 })
  ∧ (∀ (code : BitVec 16) (s : State), inHandler s.me = false → trapEn s.me = false →
      ∃ v, SlotIs s v s.key { s.me with tval := BitVec.ofNat 64 (code.toNat * 2 ^ 16) }
        ∧ exec (.trap code) s = .next (v.terminate s.me.launch 114 (s.key % 8)))
  ∧ (∀ s : State, inHandler s.me = false → exec .eret s = .next (s.trapW 117))
  ∧ (∀ s : State, inHandler s.me = true → causeClass (causeNum s.me) ≠ .R →
      exec .eret s = .next (s.terminate s.me.launch 115 s.ctx.slot))
  ∧ (∀ s : State, inHandler s.me = true → causeClass (causeNum s.me) = .R → holdsCause s.me = false →
      ∃ t x, exec .eret s = .next t ∧ SlotIs s t s.key x
        ∧ x = { s.me with cause := s.me.cause &&& 0x7FFFFFFFFFFFFFFF, pc := s.me.epc.setWidth 24 })
  ∧ (∀ s : State, inHandler s.me = true → causeClass (causeNum s.me) = .R → holdsCause s.me = true →
      trapEn s.me = false → exec .eret s = .next (s.terminate s.me.launch (heldNum s.me) s.ctx.slot))
  ∧ (∀ s : State, inHandler s.me = true → causeClass (causeNum s.me) = .R → holdsCause s.me = true →
      trapEn s.me = true → (s.kernelAt s.key).words ≤ trapEntry s.me →
      exec .eret s = .next (s.terminate s.me.launch 115 s.ctx.slot))
  ∧ ∀ s : State, inHandler s.me = true → causeClass (causeNum s.me) = .R → holdsCause s.me = true →
      trapEn s.me = true → trapEntry s.me < (s.kernelAt s.key).words →
      ∃ t x, exec .eret s = .next t ∧ SlotIs s t s.key x
        ∧ x = { s.me with cause := x.cause, pc := BitVec.ofNat 24 (trapEntry s.me) }
        ∧ causeNum x = heldNum s.me ∧ holdsCause x = false ∧ inHandler x = true

/-- R318, R348, R349: `halt` waits for an issue under way and else ends the slot; `nrg` brings its measure 16 cycles on, as it
stands at the word's own cycle (the model's choice, log entry 34); `gen` writes the generation of the active copy. -/
def Obligations.HaltAndReadback : Prop :=
  (∀ s : State, ¬ Idle s.cycle s.me → inHandler s.me = false →
    ∃ t, exec .halt s = .next t ∧ SlotIs s t s.key { s.me with wait := .loop })
  ∧ (∀ s : State, (Idle s.cycle s.me ∨ inHandler s.me = true) → s.me.raised = [] →
    ∃ t x, exec .halt s = .next t ∧ SlotIs s t s.key x ∧ Stopped s.me x)
  ∧ (∀ (d : AReg) (m : Fin 8) (s : State), Live s → ∃ t, exec (.nrg d m) s = .next t
    ∧ SlotIs (later s (s.cycle + 16) 20 (some s.ctx.region) (.inr (.value s.key d (BitVec.ofNat 64 (measureOf s m)))))
        t s.key { s.me with wait := .timed })
  ∧ ∀ (d : AReg) (s : State), ∃ t x, exec (.gen d) s = .next t ∧ SlotIs s t s.key x ∧ x.onlyA s.me
    ∧ ∀ r, x.areg r = if r = d ∧ d ≠ 0 then BitVec.ofNat 64 (s.launch s.me.launch).gen else s.me.areg r

/-- R317, R114, R233: `csrr` writes the value of the register that its number names, of the slot, the launch, the region, the
DDA, a page of its page set or a site; `csrw` writes the RW fields of `FMT`, `SLOT.UNIT`, `SLOT.EPC` and `SITE.BASE` at once (the
model's choice, log entry 50) and of `SLOT.TVEC` at the slot's next turn, when a CLR that it sets clears its register; a write to
a read-only register is ignored. A number that no register holds, 0x500 to 0x7FF among them (log entry 50), traps with
`CSR_ACCESS` (116), and `SITE.BASE` of a site without FILL 3 or 4 with `WIN_RANGE` (33). -/
def Obligations.RegisterWordsAct : Prop :=
  (∀ (d : AReg) (n : BitVec 12) (v : Word) (s : State), (n.toNat, v) ∈ csrTable s →
    ∃ t x, exec (.csrr d n) s = .next t ∧ SlotIs s t s.key x ∧ x.onlyA s.me
      ∧ ∀ r, x.areg r = if r = d ∧ d ≠ 0 then v else s.me.areg r)
  ∧ (∀ (d : AReg) (n : BitVec 12) (s : State), noRegister n.toNat = true →
      exec (.csrr d n) s = .next (s.trapW 116) ∧ exec (.csrw d n) s = .next (s.trapW 116))
  ∧ (∀ (x : AReg) (s : State), Live s →
    let v := s.me.areg x
    let gone : Slot := { s.me with pc := s.me.pc + 1 }
    (∃ t, exec (.csrw x 0x000) s = .next t ∧ SlotIs s t s.key { gone with fmt := v.setWidth 32 &&& 0x0000FF06 })
    ∧ (∃ t, exec (.csrw x 0x003) s = .next t ∧ SlotIs s t s.key { gone with unit := v.setWidth 24 })
    ∧ (∃ t, exec (.csrw x 0x009) s = .next t ∧ SlotIs s t s.key { gone with epc := v &&& 0x0000000000FFFFFF })
    ∧ (∃ t, exec (.csrw x 0x008) s = .next t
        ∧ SlotIs (later s (s.cycle + 8) 3 (some s.ctx.region) (.inr (.tvec s.key (v &&& 0x8000000000FFFFFF)))) t s.key gone)
    ∧ (∀ n : BitVec 12, (n.toNat ∈ [0x001, 0x002, 0x004, 0x00A, 0x00B, 0x00C, 0x010, 0x011, 0x012, 0x200, 0x201]
        ∨ (0x040 ≤ n.toNat ∧ n.toNat < 0x058) ∨ (0x100 ≤ n.toNat ∧ n.toNat < 0x104) ∨ (0x304 ≤ n.toNat ∧ n.toNat < 0x308)
        ∨ (0x400 ≤ n.toNat ∧ n.toNat < 0x500 ∧ n.toNat % 8 ≠ 1)) →
        ∃ t, exec (.csrw x n) s = .next t ∧ SlotIs s t s.key gone)
    ∧ let clears (n : BitVec 12) (bit : Nat) (i : Instr) : Prop := ∃ t, exec (.csrw x n) s = .next t
        ∧ SlotIs (if v.getLsbD bit then later s (s.cycle + 8) 3 (some s.ctx.region) (.inl i) else s) t s.key gone
      clears 0x005 1 (.poisonOriginClr s.key) ∧ clears 0x006 1 (.winmissClr s.key) ∧ clears 0x007 1 (.siteerrClr s.key)
        ∧ clears 0x202 0 (.wallClr s.ctx.region) ∧ clears 0x300 1 (.ddaErrClr s.ctx.region)
        ∧ ∀ p < pagesOf (s.copyOf s.me.launch), p < 32 → clears (BitVec.ofNat 12 (0x401 + 8 * p)) 1
            (.accerrClr (pageCluster (s.launch s.me.launch) (s.copyOf s.me.launch) p)))
  ∧ (∀ (d : AReg) (k : Nat) (s : State), k < 256 →
    let n := BitVec.ofNat 12 (0x800 + k)
    let v := s.me.areg d
    let filled : Prop := ∃ y, siteNamed s k = some y ∧ (y.fill = 3 ∨ y.fill = 4)
    (filled → (∃ t x, exec (.csrr d n) s = .next t ∧ SlotIs s t s.key x ∧ x.onlyA s.me
        ∧ ∀ r, x.areg r = if r = d ∧ d ≠ 0 then look 0 s.me.siteBase k else s.me.areg r)
      ∧ ∃ t x, exec (.csrw d n) s = .next t ∧ SlotIs s t s.key x ∧ x = { s.me with siteBase := x.siteBase, pc := s.me.pc + 1 }
        ∧ ∀ j, look 0 x.siteBase j = if j = k then v &&& 0xF00FFFFFFFFFFFC0 else look 0 s.me.siteBase j)
    ∧ (¬ filled → exec (.csrr d n) s = .next (s.trapW 33) ∧ exec (.csrw d n) s = .next (s.trapW 33)))
  ∧ ∀ (k : Nat) (v : Word) (s : State), SlotIs s (s.runEffect (.tvec k v)) k { s.slot k with tvec := v }

/-! ## Schedule words: what a beat computes -/

/-- R154 to R163, R168, R176 to R178: every form that computes lane by lane writes, in each enabled lane, the value of
its table from the same lane of its sources, with poison by R151, which `ptest` and an integer compare into a mask do not
pass on; `nop` writes nothing. A beat that meets `NEIGH_TAG`, or `REG_ECC` in a word that the form reads, performs in no
lane. Integer forms clamp with SAT = 1 whatever RND is (R148's `fit`: the model's choice, log entry 62); of several poisoned
sources a's origin stays before b's and d's (log entry 63). -/
def Obligations.LaneFormsComputeEachLane : Prop :=
  (∀ (i : Instr) (s : State) (F : LaneForm), laneForm i s.fl.fmt = some F →
    (s.readFault F.o (s.laneReads F.o F.readsB F.readsD) = none →
      exec i s = .next (s.finishBeat F.o ((s.enabled F.o).map fun l => (l, F.lane s l))))
    ∧ ∀ c, s.readFault F.o (s.laneReads F.o F.readsB F.readsD) = some c → exec i s = .next (s.trapB c))
  ∧ ∀ (o : SOp) (s : State), exec (.nop o) s = .next s

/-- R48, R49: a finite value is rounded once. Toward zero, the result is the largest code no further from zero than the
value; to nearest, no finite code lies nearer, and at a tie between two the code written is even. A result that is not
finite comes only from a magnitude beyond every finite code. -/
def Obligations.RoundingFollowsTheMode : Prop :=
  ∀ (ar : Arith) (f : FF) (neg : Bool) (m : Nat) (e : Int), ar.flush = false →
    let x := ratOf neg m e
    let r := fround ar f (.fin neg m e)
    (ar.rnd = .rtz → ∃ y, finiteCode f r.c = some y ∧ y.abs ≤ x.abs
      ∧ (0 ≤ x * y) ∧ ∀ c z, finiteCode f c = some z → z.abs ≤ x.abs → z.abs ≤ y.abs)
    ∧ (ar.rnd = .rne → ∀ y, finiteCode f r.c = some y → ∀ c z, finiteCode f c = some z →
        (y - x).abs ≤ (z - x).abs ∧ (z ≠ y → (y - x).abs = (z - x).abs → r.c % 2 = 0))
    ∧ (finiteCode f r.c = none → ar.rnd = .rne ∧ ar.sat = false ∧ ∀ c z, finiteCode f c = some z → z.abs < x.abs)

/-- R159, R160: sums and products of finite values are exact before the one rounding, the order of finite values is
that of the numbers, and a NaN formed from values that are not NaN is new poison. -/
def Obligations.FloatArithmeticIsExact : Prop :=
  (∀ (a b : Bool) (m n : Nat) (e f : Int),
    (∃ c k g, addVal (.fin a m e) (.fin b n f) = (.fin c k g, false) ∧ ratOf c k g = ratOf a m e + ratOf b n f)
    ∧ (∃ c k g, mulVal (.fin a m e) (.fin b n f) = (.fin c k g, false) ∧ ratOf c k g = ratOf a m e * ratOf b n f)
    ∧ (ltVal false (.fin a m e) (.fin b n f) = true ↔ ratOf a m e < ratOf b n f))
  ∧ (∀ (a b c : Bool) (m n k : Nat) (e f g : Int), ∃ d j h,
      fmaVal (.fin a m e) (.fin b n f) (.fin c k g) = (.fin d j h, false)
      ∧ ratOf d j h = ratOf a m e * ratOf b n f + ratOf c k g)
  ∧ (∀ x : Val, addVal .nan x = (.nan, false) ∧ addVal x .nan = (.nan, false) ∧ mulVal .nan x = (.nan, false)
      ∧ mulVal x .nan = (.nan, false))
  ∧ (∀ a : Bool, addVal (.inf a) (.inf (!a)) = (.nan, true))
  ∧ ∀ (a b : Bool) (e : Int), mulVal (.fin a 0 e) (.inf b) = (.nan, true) ∧ mulVal (.inf b) (.fin a 0 e) = (.nan, true)

/-- R54: the scale of a block and its elements. A block with a NaN or an infinity takes code 0xFF and poisons its
elements, a block of zeros code 0; otherwise e + 127 with e = floor(log2(amax)) − emax, at least −127, and each element is
x × 2^(−e) rounded and saturated in its format, a zero positive. No code that is written is a negative zero or, in mxi8,
−128. -/
def Obligations.BlocksTakeTheirLargestsScale : Prop :=
  ∀ (t : MxTy) (rnd : Rnd) (xs : List Val),
    let q := mxQuant t rnd xs
    (∀ w ∈ q.2.1, (t = .mxi8 → w ≠ 0x80) ∧ (t = .mxf8 → w ≠ 0x80) ∧ (t = .mxf4 → w ≠ 8))
    ∧ q.2.1.length = xs.length
    ∧ ((∃ x ∈ xs, ∀ n m e, x ≠ .fin n m e) → q = (0xFF, xs.map fun _ => 0, true))
    ∧ ((∀ x ∈ xs, ∃ n e, x = .fin n 0 e) → q = (0, xs.map fun _ => 0, false))
    ∧ ∀ a, (∀ x ∈ xs, ∃ n m e, x = .fin n m e ∧ (ratOf n m e).abs ≤ a) → (∃ n m e, Val.fin n m e ∈ xs ∧ (ratOf n m e).abs = a)
      → a ≠ 0 → ∃ e : Int, q = ((e + 127).toNat, xs.map (mxElem t rnd e), false) ∧ -127 ≤ e ∧ a < 2 ^ (e + mxTop t + 1)
        ∧ (-127 < e → 2 ^ (e + mxTop t) ≤ a)
        ∧ ∀ n m x, let c8 := (fround { rnd := rnd, sat := true } .e4m3 (.fin n m (x - e))).c
          match t with
          | .mxf8 => mxElem t rnd e (.fin n m x) = if c8 % 128 = 0 then 0 else c8
          | .mxf4 => mxElem t rnd e (.fin n m x) = (fround { rnd := rnd } .e2m1 (.fin n m (x - e))).c
          | .mxi8 => ∃ k, RoundsTo rnd (64 * ratOf n m (x - e)) k ∧ mxElem t rnd e (.fin n m x) = codeOf 8 (max (-127) (min 127 k))

/-- R156, R164 to R167: `sel` moves whole lanes by its condition mask; `mxq` writes a block's elements to d and its scale
code to d + 1 on the beat that ends the block, and on the others no lane, though its destination takes the tag (log entry
49); `mxdq`, `bpsplit` and `bpjoin` write the lanes of their beat. What `mxq` and `bpsplit` read of an immediate is the
model's choice, log entry 63. -/
def Obligations.SelectAndBlockFormsMove : Prop :=
  (∀ (t : IntTy) (o : SOp) (s : State), s.readFault o (s.selReads o) = none →
    let pick (i : Nat) : Bool := (s.maskOf s.ctx.elem (o.imm.toNat % 8)).getLsbD i
    exec (.sel t o) s = .next (s.finishBeat o ((s.enabled o).map fun i =>
      let a := s.laneA o 0 i
      let b := s.laneB o 0 i
      (i, resultLane (if pick i then a.v else b.v) [a, b] false s.idx))))
  ∧ (∀ (f : MxTy) (o : SOp) (s : State), s.fl.beat % 4 ≠ 3 → s.readFault o s.mxqReads = none →
    exec (.mxq f o) s = .next (s.writeDst o []))
  ∧ (∀ (f : MxTy) (o : SOp) (s : State) (j : Nat), s.fl.beat = 4 * j + 3 → s.readFault o s.mxqReads = none →
    exec (.mxq f o) s = .next ((s.writeDst o (quantised f o s j).1).writeNext o [(j, (quantised f o s j).2)]))
  ∧ (∀ (f : MxTy) (o : SOp) (s : State), s.readFault o (s.mxdqReads f o) = none →
    exec (.mxdq f o) s = .next (s.finishBeat o ((s.enabled o).map fun i => (i, dequantised f o s i))))
  ∧ (∀ (o : SOp) (s : State), s.readFault o (s.coverReads 8) = none →
    let ls := (beatLanes s.fl.beat).map (s.laneA o (immOfInt .i32 o.imm))
    exec (.bpsplit o) s = .next (s.finishBeat o ((List.range 8).map fun m =>
      (8 * s.fl.beat + m, resultLane (planeLane ls m) ls false s.idx))))
  ∧ ∀ (o : SOp) (s : State), let k := o.imm.toNat % 8 + 2
    s.readFault o (s.coverReads k) = none → k ≤ 8 →
    let ls := ((beatLanes s.fl.beat).take k).map (s.laneA o 0)
    exec (.bpjoin o) s = .next (s.finishBeat o ((List.range 8).map fun m =>
      (8 * s.fl.beat + m, resultLane (laneOf 8 fun n => joined ls k (4 * m + n)) ls false s.idx)))

/-- R174, R175: a table word executes at element 15 of a cluster only. It takes the entry that its form names and
answers s × x + c rounded once, c exactly where s is a zero, and the canonical NaN for a NaN, a NaN formed otherwise being
new poison; `lut` takes entry clamp(floor(32 × x) + 128, 0, 255). An entry with a double-bit error traps with `LUT_ECC`
(54). A beat of the plane before a milestone reads that plane's entries (R131). -/
def Obligations.TablesAnswerTheirSegment : Prop :=
  (∀ (o : SOp) (s : State), s.ctx.elem % 16 ≠ 15 →
    exec (.lut o) s = .next s ∧ exec (.lutr o) s = .next s ∧ exec (.lutc o) s = .next s)
  ∧ (∀ (o : SOp) (s : State), s.ctx.elem % 16 = 15 →
    let ar := arith o s.fl.fmt
    let code (i : Nat) : Nat := FF.f32.flushed ar.flush (s.laneA o 0 i).v.toNat
    let entry (n : Nat) : BitVec 64 := look 0 (if s.oldPlane then s.el.oldLut else s.el.lut) (256 * (o.imm.toNat % 4) + n)
    let out (reads : Nat → List Lane) (n : Nat → Nat) (x : Nat → Val) : List (Nat × Lane) := (s.enabled o).map fun i =>
      let r := lutValue ar (entry (n i)) (x i)
      (i, resultLane (BitVec.ofNat 32 r.c) (reads i) r.p s.idx)
    let val (i : Nat) : Val := FF.f32.val (code i)
    let bad (n : Nat → Nat) : Prop := ∃ i ∈ s.enabled o,
      s.eccAt (.lut s.ctx.elem (256 * (o.imm.toNat % 4) + n i)) ∈ [some .double, some .marked]
    let answers (i : Instr) (reads : Nat → List Lane) (n : Nat → Nat) (x : Nat → Val) : Prop :=
      (¬ bad n → exec i s = .next (s.finishBeat o (out reads n x))) ∧ (bad n → exec i s = .next (s.trapB 54))
    (s.readFault o (s.laneReads o false false) = none →
      answers (.lut o) (fun i => [s.laneA o 0 i]) (fun i => lutSegment (val i)) val
      ∧ answers (.lutr o) (fun i => [s.laneA o 0 i]) (fun i => code i / 2 ^ 23 % 256) fun i => absVal (val i))
    ∧ (s.readFault o (s.laneReads o true false) = none →
      answers (.lutc o) (fun i => [s.laneA o 0 i, s.laneB o 0 i]) (fun i => (s.laneB o 0 i).v.toNat % 256) val))
  ∧ (∀ (ar : Arith) (e : BitVec 64), lutValue ar e .nan = ⟨0x7FC00000, false⟩
    ∧ ∀ x, isNan x = false →
      (e.toNat % 2 ^ 31 = 0 → lutValue ar e x = fround ar .f32 (FF.f32.val (e.toNat / 2 ^ 32)))
      ∧ (e.toNat % 2 ^ 31 ≠ 0 → let m := fmaVal (FF.f32.val (e.toNat % 2 ^ 32)) x (FF.f32.val (e.toNat / 2 ^ 32))
        lutValue ar e x = ⟨(fround ar .f32 m.1).c, (fround ar .f32 m.1).p || m.2⟩))
  ∧ ∀ (n : Bool) (m : Nat) (e : Int), lutSegment (.fin n m e) = (max 0 (min 255 ((32 * ratOf n m e).floor + 128))).toNat
      ∧ lutSegment (.inf true) = 0 ∧ lutSegment (.inf false) = 255

/-- R169, R170: a lane operation reads its sources on its first beat and keeps them; `perm`, `bcast` and `lsh` write the
enabled lanes of each beat from what was read. Of the two lanes that a result of `perm` draws on, the lower-numbered one's
origin is kept (R146); where they are one lane, source A's (the model's choice, log entry 63). -/
def Obligations.LaneMovesDrawFromTheFirstBeat : Prop :=
  ∀ (o : SOp) (s : State),
    let c (imm : LaneWord) := s.snapshot o imm
    let kept (imm : LaneWord) : State := (s.keepScratch o (c imm) 0).2
    let w : Nat := 8 * (o.fold.val + 1)
    (s.readFault o (s.permReads o) = none → exec (.perm o) s = .next ((kept (immOfInt .n32 o.imm)).finishBeat o
        ((s.enabled o).map fun i => (i, permuted o (c (immOfInt .n32 o.imm)) i s.idx))))
    ∧ (s.readFault o (s.bcastReads o) = none → exec (.bcast o) s = .next ((kept 0).finishBeat o
        ((s.enabled o).map fun i => (i, broadcast o (c 0) s.idx))))
    ∧ (s.readFault o (s.lshReads o) = none → exec (.lsh o) s = .next ((kept 0).finishBeat o
        ((s.enabled o).map fun i => (i, shifted o (c 0) i s.idx))))
    ∧ (∀ imm i, s.fl.beat = 0 → i < w → look {} (c imm).a i = s.laneA o imm i ∧ look {} (c imm).b i = s.laneB o imm i)
    ∧ (∀ imm, s.fl.beat ≠ 0 → c imm = look {} s.el.scratch s.ctx.slot)
    ∧ ∀ imm i, i < 64 → (look {} (kept imm).el.scratch s.ctx.slot).en.getLsbD i
        = ((c imm).en.getLsbD i || ((s.predMask o).getLsbD i && decide (i / 8 = s.fl.beat)))

/-- R133, R144, R169, R170, R175: a beat of `perm`, `bcast` or `lsh`, and at element 15 of a cluster one of `lut`, `lutr` or
`lutc`, whose neighbour sources carry their tags and whose words are sound COMPLETES: each enabled lane of the register that
it names holds the lane of its table, and every other lane of it what it held. Elsewhere a table word leaves the state as
it is. The origin that `perm` keeps of two poisoned lanes with one number is the model's choice, log entry 63. -/
def Obligations.LaneMovesAndTablesComplete : Prop :=
  ∀ (o : SOp) (s : State) (c : Nat), s.tagOk o.a = true → s.tagOk o.b = true → s.ecc = [] → destOf s o.dst = some c →
    s.ctx.slot < 8 → s.qcnt ≤ 32 → s.fl.beat < 8 →
    let takes (i : Instr) (f : Nat → Lane) : Prop := ∃ t, exec i s = .next t
      ∧ (∀ l ∈ s.enabled o, t.regLane s.ctx.elem s.ctx.slot c l = f l)
      ∧ ∀ l < 64, l ∉ s.enabled o → t.regLane s.ctx.elem s.ctx.slot c l = s.regLane s.ctx.elem s.ctx.slot c l
    let ar := arith o s.fl.fmt
    let x (l : Nat) : Nat := FF.f32.flushed ar.flush (s.laneA o 0 l).v.toNat
    let v (l : Nat) : Val := FF.f32.val (x l)
    let answer (n l : Nat) (arg : Val) (reads : List Lane) : Lane :=
      let r := lutValue ar (look 0 (if s.oldPlane then s.el.oldLut else s.el.lut) (256 * (o.imm.toNat % 4) + n)) arg
      resultLane (BitVec.ofNat 32 r.c) reads r.p s.idx
    takes (.perm o) (fun l => permuted o (s.snapshot o (immOfInt .n32 o.imm)) l s.idx)
    ∧ takes (.bcast o) (fun _ => broadcast o (s.snapshot o 0) s.idx)
    ∧ takes (.lsh o) (fun l => shifted o (s.snapshot o 0) l s.idx)
    ∧ (s.ctx.elem % 16 = 15 →
      takes (.lut o) (fun l => answer (lutSegment (v l)) l (v l) [s.laneA o 0 l])
      ∧ takes (.lutr o) (fun l => answer (x l / 2 ^ 23 % 256) l (absVal (v l)) [s.laneA o 0 l])
      ∧ takes (.lutc o) (fun l => answer ((s.laneB o 0 l).v.toNat % 256) l (v l) [s.laneA o 0 l, s.laneB o 0 l]))
    ∧ (s.ctx.elem % 16 ≠ 15 → exec (.lut o) s = .next s ∧ exec (.lutr o) s = .next s ∧ exec (.lutc o) s = .next s)

/-- R169, R171 to R173: `rsum`, `rmax`, `segscan` and `grp` write nothing before their last beat. There they write every
enabled lane of the word: the sum or the largest of the enabled lanes, the scan of each lane's segment, or the pairs
sorted stably by key, with the keys in d + 1. `grp cnt` counts, for each key below 512, its lanes that are not poisoned;
when its update arrives is not said here. Sums of i32 clamp with SAT = 1 whatever RND is (the model's choice, log entry
62). -/
def Obligations.ReductionsWriteOnTheLastBeat : Prop :=
  (∀ (o : SOp) (s : State),
    let kept (head : BitVec 64) := s.keepScratch o (s.snapshot o 0) head
    let head := s.maskOf s.ctx.elem (o.imm.toNat % 8)
    let en (c : Scratch) : List Nat := (List.range (8 * (o.fold.val + 1))).filter fun i => c.en.getLsbD i
    let ar := arith o s.fl.fmt
    let c := (kept 0).1
    let ls := (en c).map (look {} c.a)
    let h := (kept head).1
    (s.readFault o (s.allReads o) = none → s.fl.beat ≠ o.fold.val →
      (∀ t, exec (.rsum t o) s = .next (kept 0).2) ∧ ∀ t, exec (.rmax t o) s = .next (kept 0).2)
    ∧ (s.readFault o (s.scanReads o) = none → s.fl.beat ≠ o.fold.val → ∀ t, exec (.segscan t o) s = .next (kept head).2)
    ∧ (s.readFault o (s.grpReads o) = none → s.fl.beat ≠ o.fold.val → exec (.grp o) s = .next (kept 0).2)
    ∧ (s.readFault o (s.allReads o) = none → s.fl.beat = o.fold.val →
      (∀ t, exec (.rsum t o) s = .next ((kept 0).2.finishBeat o ((en c).map fun i =>
        (i, resultLane (BitVec.ofNat 32 (reduced t ar ls).c) ls (reduced t ar ls).p s.idx))))
      ∧ ∀ t, exec (.rmax t o) s = .next ((kept 0).2.finishBeat o ((en c).map fun i =>
        (i, resultLane (largest t ar ls) ls false s.idx))))
    ∧ (s.readFault o (s.scanReads o) = none → s.fl.beat = o.fold.val →
      ∀ t, exec (.segscan t o) s = .next ((kept head).2.finishBeat o ((en h).map fun e =>
        let seg := segmentAt (en h) h.head e
        let drawn := (if o.imm.getLsbD 3 then seg.filter (· < e) else seg).map (look {} h.a)
        (e, resultLane (BitVec.ofNat 32 (runningSum t ar drawn).c) drawn (runningSum t ar drawn).p s.idx))))
    ∧ (s.readFault o (s.grpReads o) = none → s.fl.beat = o.fold.val → o.imm.getLsbD 0 = false →
      let ps := ((en c).map fun i => (look ({} : Lane) c.a i, look ({} : Lane) c.b i)).mergeSort fun p q => decide (p.1.v.toNat ≤ q.1.v.toNat)
      let out (v : Lane × Lane → LaneWord) : List (Nat × Lane) := (en c).mapIdx fun j i =>
        (i, resultLane (v (ps.getD j ({}, {}))) [(ps.getD j ({}, {})).1, (ps.getD j ({}, {})).2] false s.idx)
      exec (.grp o) s = .next (((kept 0).2.writeDst o (out (·.2.v))).writeNext o (out (·.1.v)))))
  ∧ ∀ (keys : List Lane) (w n : Nat), (w, n) ∈ tokenCounts keys ↔
    ∃ v, v < 512 ∧ w = 8 * v ∧ n ≠ 0 ∧ n = (keys.filter fun l => !l.p && decide (l.v.toNat = v)).length

/-! ## Schedule words: where results go -/

/-- R94, R121, R132, R136, R139: a beat's result lanes reach the register that DST names at that beat, and no other lane of
any register of any element. The result register and its tag are written by beats with DST 0 to 47, 52, 54 and 55, in the
same lanes; a neighbour that reads on the same cycle sees the old contents under the old tag. What goes to the register
after the destination (R138, R165, R173) reaches no result register. -/
def Obligations.RegistersTakeResults : Prop :=
  ∀ (o : SOp) (s : State) (ls : List (Nat × Lane)), (ls.map (·.1)).Nodup →
    let t := s.writeDst o ls
    let e := s.el
    let e' := t.el
    (s.ctx.slot < 8 → s.qcnt ≤ 32 → (∀ x ∈ ls, x.1 < 64) →
      (∀ c, destOf s o.dst = some c → ∀ x ∈ ls, t.regLane s.ctx.elem s.ctx.slot c x.1 = x.2)
      ∧ ∀ n k c i, k < 8 → c < 48 → i < 64 →
          ¬ (n = s.ctx.elem ∧ k = s.ctx.slot ∧ destOf s o.dst = some c ∧ i ∈ ls.map (·.1)) →
          t.regLane n k c i = s.regLane n k c i)
    ∧ (reachesRes o.dst = true → (∀ x ∈ ls, resLane e' e'.res x.1 = x.2)
      ∧ (∀ i, i ∉ ls.map (·.1) → resLane e' e'.res i = resLane e e.res i)
      ∧ e'.tag = some (s.ctx.slot, dstNumber o.dst) ∧ e'.resView s.cycle = e.resView s.cycle
      ∧ ∀ now, now ≠ s.cycle → e'.resView now = (e'.res, e'.tag))
    ∧ (reachesRes o.dst = false → e'.res = e.res ∧ e'.tag = e.tag ∧ e'.resView = e.resView)
    ∧ ∀ c, s.dstNext o.dst = some c → c < 48 → s.ctx.slot < 8 → s.qcnt ≤ 32 → (∀ x ∈ ls, x.1 < 64) →
      let u := s.writeNext o ls
      (∀ x ∈ ls, u.regLane s.ctx.elem s.ctx.slot c x.1 = x.2)
      ∧ (∀ n k d i, k < 8 → d < 48 → i < 64 → ¬ (n = s.ctx.elem ∧ k = s.ctx.slot ∧ d = c ∧ i ∈ ls.map (·.1)) →
          u.regLane n k d i = s.regLane n k d i)
      ∧ u = { s with elems := u.elems, ecc := u.ecc } ∧ u.el = { s.el with regs := u.el.regs, wrote := u.el.wrote }

/-- R96, R135, R139, R147, R152: a mask takes bit 0 of each result lane; the return register is due the value of the
lowest enabled lane 16 cycles on; a poisoned lane for it is recorded or, with SINKTRAP, traps with `POISON_SINK` (48). A
write leaves every other element and every other kind of state as it was. `POISON.ORIGIN` keeps the first poisoned lane
that reached a sink since its last clear, and counts every one up to 65,535. -/
def Obligations.MasksReturnAndTheFrameOfABeat : Prop :=
  (∀ (o : SOp) (s : State) (ls : List (Nat × Lane)), (∀ x ∈ ls, x.1 < 64) → (ls.map (·.1)).Nodup →
    s.ownerHalted (.inr (.fret s.key s.fl.edge 0)) = false →
    let t := s.writeDst o ls
    let m := o.imm.toNat % 8
    (o.dst = .mask → m ≠ 0 → ∀ i < 64, (t.maskOf s.ctx.elem m).getLsbD i =
      match ls.find? (·.1 == i) with
      | some x => x.2.v.getLsbD 0
      | none => (s.maskOf s.ctx.elem m).getLsbD i)
    ∧ (∀ e n, ¬ (o.dst = .mask ∧ e = s.ctx.elem ∧ n = m) → t.maskOf e n = s.maskOf e n)
    ∧ (∀ x r, o.dst = .seq → ls = x :: r → t.agenda = s.agenda ++
        [dueOf (s.cycle + 16) 20 (some s.ctx.region) (.inr (.fret s.key s.fl.edge (x.2.v.setWidth 64)))])
    ∧ (o.dst ≠ .seq ∨ ls = [] → t.agenda = s.agenda)
    ∧ t = { s with elems := t.elems, ecc := t.ecc, agenda := t.agenda }
    ∧ (∀ e, e ≠ s.ctx.elem → t.elem e = s.elem e)
    ∧ t.el = { s.el with regs := t.el.regs, masks := t.el.masks, res := t.el.res, tag := t.el.tag, resOld := t.el.resOld,
                         tagOld := t.el.tagOld, resAt := t.el.resAt, wrote := t.el.wrote }
    ∧ (∀ x ∈ t.ecc, x ∈ s.ecc ∨ ∃ i c, x = (.resOld s.ctx.elem i, c) ∧ (.res s.ctx.elem i, c) ∈ s.ecc)
    ∧ (o.dst ≠ .seq → s.finishBeat o ls = t)
    ∧ (o.dst = .seq → (s.fl.fmt.getLsbD 2 = true ∧ ∃ x ∈ ls, x.2.p = true) → s.finishBeat o ls = s.trapB 48)
    ∧ (o.dst = .seq → ¬ (s.fl.fmt.getLsbD 2 = true ∧ ∃ x ∈ ls, x.2.p = true) →
        s.finishBeat o ls = (s.recordSinks s.key (ls.map (·.2)) s.idx 0 2).writeDst o ls))
  ∧ ∀ (s : State) (key sink site kind : Nat) (lanes : List Lane), ∃ x,
    SlotIs s (s.recordSinks key lanes sink site kind) key x
      ∧ x = { s.slot key with poison := poisonAfter (s.slot key).poison lanes sink site kind, sinks := x.sinks, sinksOn := x.sinksOn }

/-- R95, R133: a neighbour source outside the grid, or whose result register as it stands at the start of the cycle is
not tagged with the slot and the source index, stops a lane form with `NEIGH_TAG` (17) before any lane performs. -/
def Obligations.NeighbourTagsAreChecked : Prop :=
  ∀ (i : Instr) (s : State) (F : LaneForm) (d : Dir) (c : BitVec 6), laneForm i s.fl.fmt = some F →
    (F.o.a = .nbr d c ∨ F.o.b = .nbr d c) →
    (∀ e, neighbour s.ctx.region s.ctx.row s.ctx.col d = some e → ((s.elem e).resView s.cycle).2 ≠ some (s.ctx.slot, c.toNat)) →
    exec i s = .next (s.trapB 17)

/-- R306 to R309: a cause of point B at a beat. The beat and every later beat of the slot stop, and what they did at other
rows and columns is taken back, but that `MATRIX_ORDER` (25) lets the same beat stand at its cluster's other elements
(R196); the issue position, the rotating base, the counters and `FMT` go back to the beat's, and the slot enters its
handler, where it has one, with the record of the beat. Taken back, a beat leaves no register, mask, bank byte, tag, dirty
bit or landing entry of its element, and no byte of memory that it wrote, as it changed it, and no access of its own (what a
taking back cannot reach: log entry 13). A double-bit error (51, 52, 54, 96) is reported as well (R335). -/
def Obligations.BeatFaultsArePrecise : Prop :=
  (∀ (s : State) (f : Flight) (n code : Nat), s.ctx.flight = some f → s.me.bound = true → s.me.ended = false →
    s.me.awaiting s.cycle = false → causeClass n ≠ .T → HandlerReady s s.key →
    let r : Raised := { num := n, kind := 1, row := s.ctx.row, col := s.ctx.col, beat := f.beat, line := f.line, code := code }
    let u := s.takeBackFrom s.key f.edge (if n = 25 then some (s.ctx.elem / 16) else none)
    let t := s.trapB n code
    t = { u with flights := t.flights, agenda := t.agenda, slots := t.slots, log := t.log, logCnt := t.logCnt
                 ctx := { s.ctx with failed := true } }
    ∧ (n ∉ [51, 52, 54, 96] → t.log = s.log ∧ t.logCnt = s.logCnt) ∧ (n ∈ [51, 52, 54, 96] → t.logCnt = s.logCnt + 1)
    ∧ (∀ j, j ≠ s.key → t.slot j = s.slot j)
    ∧ u.me = { s.me with fret := u.me.fret, winmiss := u.me.winmiss, siteerr := u.me.siteerr, late := u.me.late, paths := u.me.paths
                         failed := u.me.failed, raised := u.me.raised, poison := u.me.poison, sinks := u.me.sinks
                         sinksOn := u.me.sinksOn }
    ∧ t.me = { u.me with cur := f.pos, following := t.me.following, rb := f.rb, ctr2 := f.ctr2, ctr3 := f.ctr3, lineFmt := f.fmt
                         cause := causeBits r, tval := tvalBits r, epc := s.me.pc.setWidth 64
                         pc := BitVec.ofNat 24 (trapEntry s.me), wait := .none, busy := s.cycle + 1 }
    ∧ (∀ g, g ∈ t.flights ↔ g ∈ s.flights ∧ ¬ (slotKey g.region g.slot = s.key ∧ f.edge ≤ g.edge))
    ∧ ∀ d, d ∈ t.agenda ↔ d ∈ u.agenda ∧ ¬ ofWord s.key d)
  ∧ (∀ (s : State) (key edge : Nat) (keep : Option Nat), (∀ x ∈ s.undo, ¬ (x.key = key ∧ edge ≤ x.edge)) →
    s.takeBackFrom key edge keep = s.modSlot key fun sl => sl.dropSinks edge)
  ∧ ∀ (s t : State) (f : Flight), t.ctx.failed = false → t.cycle ≤ f.edge + 27 →
    (∀ x ∈ t.undo, ¬ (x.key = slotKey f.region f.slot ∧ f.edge ≤ x.edge)) →
    let v := (t.noteBeat f s).takeBackFrom (slotKey f.region f.slot) f.edge none
    let was := s.el
    let now := v.elem s.ctx.elem
    (∀ k, seek now.regs k = seek was.regs k ∧ seek now.masks k = seek was.masks k ∧ seek now.res k = seek was.res k
      ∧ seek now.bank k = seek was.bank k ∧ seek now.tags k = seek was.tags k ∧ seek now.dirty k = seek was.dirty k
      ∧ look ({} : Landing) now.landing k = look {} was.landing k) ∧ now.tag = was.tag
    ∧ (∀ e, e ≠ s.ctx.elem → v.elem e = t.elem e)
    ∧ (∀ a ∈ v.accs, a.id ∈ s.accs.map (·.id)) ∧ (∀ a ∈ s.accs, a ∈ t.accs → a ∈ v.accs)
    ∧ ∀ p, memByte v.mem p = if t.memOldAt = t.cycle ∧ p ∈ t.memOld.map (·.1) then memByte s.mem p else memByte t.mem p

/-! ## Schedule words: sites, channels, windows, requests -/

/-- R208, R209, R213 to R216, R218: `lds`, `ldt` and `ldx` load the share words that their tables name, where the bank's
entry on the cycle admits them, into the destination and the site latch; else `BANK_CONFLICT` (18). An `ldx` whose
result register another slot wrote meets `NEIGH_TAG` (17). A beat of `ldt` leaves counters 0 and 1, one pair for each slot
and element, at the word and the row of the next lane, in `ldt.n16` of its lower part: the values are the model's reading of
R209, log entry 68. -/
def Obligations.BankLoadsReadTheShare : Prop :=
  (∀ (o : SOp) (s : State), 0 < (s.share o).se → s.ecc = [] → s.tagOk o.a = true → s.tagOk o.b = true →
    let used (sinks : List Lane) : State := s.useBank.recordSinks s.key sinks s.idx (o.imm.toNat % 256) 0
    let load (sinks : List Lane) (f : Nat → LaneWord) : State := (used sinks).loaded o ((s.enabled o).map fun i => (i, f i))
    let conflict (req : Nat) : State :=
      let e := s.bankEntry s.ctx.elem s.cycle s.oldPlane
      (s.useBank.siteErr s.key (o.imm.toNat % 256) 0 s.idx 1 e.1 e.2 req 0 0).trapB 18
    let ix (i : Nat) : Lane := resLane s.el s.el.res i
    let mine : Prop := ∃ c, s.el.tag = some (s.ctx.slot, c)
    let sink : Prop := s.fl.fmt.getLsbD 2 = true ∧ ∃ i ∈ s.enabled o, (ix i).p = true
    (laneAdmitted s false → exec (.lds o) s = .next (load [] fun i => wordIn s o ((baseWord s o + i) % (s.share o).se)))
    ∧ (laneAdmitted s true → ∀ t, exec (.ldt t o) s = .next (((s.useBank.stepLine (s.siteRec o) t).recordSinks s.key [] s.idx (o.imm.toNat % 256) 0).loaded o
        ((s.enabled o).map fun i => (i, transposed t s o i))))
    ∧ (mine → ¬ sink → laneAdmitted s false →
        exec (.ldx o) s = .next (load ((s.enabled o).map ix) fun i => wordIn s o (indexed s o i)))
    ∧ (¬ laneAdmitted s false → exec (.lds o) s = .next (conflict 0))
    ∧ (¬ laneAdmitted s true → ∀ t, exec (.ldt t o) s = .next (conflict 1))
    ∧ (mine → ¬ sink → ¬ laneAdmitted s false → exec (.ldx o) s = .next (conflict 0))
    ∧ (mine → sink → exec (.ldx o) s = .next (s.trapB 48))
    ∧ (¬ mine → exec (.ldx o) s = .next (s.trapB 17)))
  ∧ (∀ (s : State) (x : Site) (t : LdtTy), let p := match t with | .n32 => 1 | .n16 => 2
    let v := p * 8 * (s.fl.beat + 1) % (p * (x.lrows + 1) * (x.lcols + 1))
    ElemIs s (s.stepLine x t) s.ctx.elem
      { s.el with steps := put s.el.steps s.ctx.slot (v / (x.lrows + 1) / p, v % (x.lrows + 1)) })
  ∧ ∀ (o : SOp) (s : State) (ls : List (Nat × LaneWord)), (ls.map (·.1)).Nodup →
    ∃ e, s.loaded o ls = (s.writeDst o (ls.map fun x => (x.1, Lane.clean x.2))).modEl (fun _ => e)
      ∧ e = { (s.writeDst o (ls.map fun x => (x.1, Lane.clean x.2))).el with siteLatch := e.siteLatch }
      ∧ (∀ x ∈ ls, look 0 e.siteLatch x.1 = x.2)
      ∧ ∀ i, i ∉ ls.map (·.1) → look 0 e.siteLatch i = look 0 s.el.siteLatch i

/-- R214, R215, R223: `sts` and `stx` store their bytes where their tables name them, with their poisoned lanes recorded.
A store to a site outside every slip group is in the bank at the cycle's end, the higher lane winning a byte; one to a
slip-group member performs at the end of t + 8: each stored byte then stands in the storer's buffer and in each member line
of its cluster that holds the byte's granule, and every other byte of every bank stays. -/
def Obligations.BankStoresWriteTheShare : Prop :=
  (∀ (o : SOp) (s : State), 0 < (s.share o).se → s.readFault o (s.bankReads o true false) = none → s.ecc = [] → laneAdmitted s false →
    let a (i : Nat) : Lane := s.laneA o 0 i
    let ix (i : Nat) : Lane := resLane s.el s.el.res i
    let used (sinks : Nat → Lane) : State := s.useBank.recordSinks s.key ((s.enabled o).map sinks) s.idx (o.imm.toNat % 256) 0
    let trap : Bool := s.fl.fmt.getLsbD 2
    (∀ t : StsTy, ¬ (trap = true ∧ ∃ i ∈ s.enabled o, (a i).p = true) →
      exec (.sts t o) s = .next ((used a).storeShare o (storeList s o (storedAt t s o))))
    ∧ (∀ t : StsTy, (trap = true ∧ ∃ i ∈ s.enabled o, (a i).p = true) → exec (.sts t o) s = .next (s.trapB 48))
    ∧ ((∃ c, s.el.tag = some (s.ctx.slot, c)) → ¬ (trap = true ∧ ∃ i ∈ s.enabled o, (a i).p = true ∨ (ix i).p = true) →
      exec (.stx o) s = .next ((used fun i => if (a i).p then a i else ix i).storeShare o
        (storeList s o fun i => (4 * indexed s o i, 4))))
    ∧ ((∀ c, s.el.tag ≠ some (s.ctx.slot, c)) → exec (.stx o) s = .next (s.trapB 17)))
  ∧ (∀ (o : SOp) (s : State) (bs : List (Nat × Byte)), (s.siteRec o).slip = 0 →
    let t := s.storeShare o bs
    ElemIs s t s.ctx.elem { s.el with bank := t.el.bank, dirty := t.el.dirty }
    ∧ (∀ pre y b post, bs = pre ++ (y, b) :: post → y ∉ post.map (·.1) → bankByte t.el ((s.share o).off + y) = b
      ∧ (2 ≤ (s.siteRec o).fill → look false t.el.dirty (dirtyKey (o.imm.toNat % 256) y) = true))
    ∧ (∀ c, (∀ x ∈ bs, c ≠ (s.share o).off + x.1) → bankByte t.el c = bankByte s.el c)
    ∧ ((s.siteRec o).fill < 2 → t.el.dirty = s.el.dirty))
  ∧ (∀ (o : SOp) (s : State) (bs : List (Nat × Byte)), (s.siteRec o).slip ≠ 0 → Live s →
    s.storeShare o bs = later s (s.cycle + 8) 110 (some s.ctx.region) (.inr (.merge s.key s.ctx.elem s.fl.gen (o.imm.toNat % 256)
      (bs.map fun b => (b.1, s.el.tagAt (o.imm.toNat % 256) (s.share o).lw b.1, b.2)))))
  ∧ ∀ (s : State) (key elem gen site : Nat) (bs : List (Nat × Option GTag × Byte)),
    let t := s.runEffect (.merge key elem gen site bs)
    t = { s with elems := t.elems, undo := t.undo } ∧ (∀ e, e ≠ elem → e / 16 ≠ elem / 16 → t.elem e = s.elem e)
    ∧ (∀ e, t.elem e = { s.elem e with bank := (t.elem e).bank, dirty := (t.elem e).dirty }
        ∧ (e ≠ elem → (t.elem e).dirty = (s.elem e).dirty))
    ∧ let c := s.copy (elemRegion elem) gen
      let x : Site := look {} c.sites site
      let inMember (e a y : Nat) (tag : GTag) : Prop := e / 16 = elem / 16 ∧ ∃ m ∈ c.sites, m.2.slip = x.slip
        ∧ m.2.banks.getLsbD (e % 16) = true ∧ ∃ g ∈ (s.elem e).tags, g.2 = tag ∧ g.1 / 256 / 4096 = m.1
          ∧ a = (shareOf m.2 e).off + g.1 / 256 % 4096 * 4 * (shareOf m.2 e).lw + g.1 % 256 * 64 + y % 64
      let place (e a : Nat) (v : Byte) : Prop := ∃ b ∈ bs, b.2.2 = v ∧ ((e = elem ∧ a = (shareOf x elem).off + b.1)
        ∨ (x.slip ≠ 0 ∧ ∃ tag, b.2.1 = some tag ∧ inMember e a b.1 tag))
      (∀ e a v, place e a v → (∀ w, place e a w → w = v) → bankByte (t.elem e) a = v)
      ∧ ∀ e a, (∀ v, ¬ place e a v) → bankByte (t.elem e) a = bankByte (s.elem e) a

/-- R82, R85, R86, R219, R220: `send` puts its enabled lanes on the channel, due at the receiver at the end of t + D, or,
where a seam port on the route is not stitched to a page of its own set, due at that port the cycle after the token reaches
it; `recv` takes the held beat into its destination and the receive latch, and raises `TIMING_RECV` (19) where none is held,
or `ORPHAN` (98) where the sender's cluster is fenced off (R332). The tracks and ports of a route are the compiler's, a free
value: log entry 10. -/
def Obligations.ChannelsCarryBeats : Prop :=
  ∀ (o : SOp) (s : State),
    let key := s.fl.gen * 48 + s.ctx.region
    let chan := o.imm.toNat % 256
    let x := s.launch s.fl.launch
    let shut (h : Config.Hop) : Bool :=
      !(s.cluster (pageCluster x (s.copy x.region s.fl.gen) h.page)).seams.getLsbD h.port.val
    let route := (Config.channelRoute key chan).zipIdx
    let sent (d : Nat) (w : Option Config.Hop) : State :=
      later { s with serial := s.serial + 1, beats := s.beats ++
        [{ id := s.serial, region := s.ctx.region, chan := chan, slot := s.ctx.slot, launch := s.fl.launch, gen := s.fl.gen,
           src := s.ctx.elem, dst := s.chanElem s.fl.launch (Config.channelReceiver key chan),
           lanes := (beatLanes s.fl.beat).map fun i => if i ∈ s.enabled o then some (s.laneA o 0 i) else none,
           arrive := s.cycle + d, edge := s.fl.edge, wall := w }] }
        (s.cycle + d) 108 (some s.ctx.region) (.inl (.channelBeatArrival s.serial))
    (s.readFault o (s.laneReads o false false) = none → (s.launch s.fl.launch).halted = false → (∀ b ∈ s.beats, b.id < s.serial) →
      ((∀ h ∈ Config.channelRoute key chan, shut h = false) →
        exec (.send o) s = .next (sent (1 + Config.channelTracks key chan + (Config.channelRoute key chan).length) none))
      ∧ ∀ h n pre post, route = pre ++ (h, n) :: post → shut h = true → (∀ g ∈ pre, shut g.1 = false) →
        exec (.send o) s = .next (sent (h.cycles + n + 1) (some h)))
    ∧ (∀ b, s.readFault o s.maskReads = none → s.beats.find? (fun b => b.region == s.ctx.region && b.launch == s.fl.launch
          && b.chan == chan && b.held) = some b →
      let got (i : Nat) : Option Lane := (b.lanes[i % 8]?).getD none
      let ls := (s.enabled o).filterMap fun i => (got i).map fun l => (i, l)
      exec (.recv o) s = .next ((({ s with beats := s.beats.filter (·.id != b.id) } : State).writeDst o ls).modEl fun e =>
        { e with recvLatch := (List.range 8).filterMap fun i => (got i).map fun l => (i, l) }))
    ∧ (s.readFault o s.maskReads = none →
      s.beats.find? (fun b => b.region == s.ctx.region && b.launch == s.fl.launch && b.chan == chan && b.held) = none →
      let src := s.chanElem s.fl.launch (Config.channelSender key chan)
      ((s.cluster (src / 16)).shut = true → exec (.recv o) s = .next (s.trapB 98))
      ∧ ((s.cluster (src / 16)).shut = false →
        exec (.recv o) s = .next ((s.siteErr s.key 0 0 s.idx 2 0 0 4 chan 0).trapB 19)))

/-- R140, R141, R234 to R236, R239: on its first beat a window fill, a synchronising load or an atomic sends its access
and opens a window on the lowest free landing entry, to close 8 × (LEN + STRETCH) cycles on. A fill sets its line's tag.
No register, mask or bank byte changes yet. With no free entry it meets `SCHED_MISS` (16), outside its span `WIN_RANGE`
(33), and `BANK_CONFLICT` (18) where the first slice of its line that has neither an entry of its class nor SPARE is met
(R227); later beats of a fill do nothing. -/
def Obligations.WindowsOpenOnTheFirstBeat : Prop :=
  ∀ (o : SOp) (s : State), 0 < (s.share o).le →
    let a := lineAt s o
    let j := localLine s o
    let n := o.imm.toNat % 256
    let close := s.cycle + 8 * ((s.window o).1 + (s.region s.ctx.region).winstretch.toNat)
    let opened (t : State) (entry : Nat) (x : Access) (atomic : Bool) : Prop :=
      x ∈ t.accs ∧ look {} t.el.landing entry = windowOf s o x.id entry atomic
      ∧ (∀ m, m ≠ entry → look {} t.el.landing m = look {} s.el.landing m)
      ∧ dueOf close 105 (some s.ctx.region) (.inl (.windowClose s.ctx.elem ⟨entry % 4, Nat.mod_lt _ (by decide)⟩)) ∈ t.agenda
      ∧ t = { s with serial := t.serial, accs := t.accs, slots := t.slots, elems := t.elems, agenda := t.agenda,
                     launches := t.launches, stamps := t.stamps }
      ∧ (∀ k, k ≠ s.key → t.slot k = s.slot k)
      ∧ t.me = { s.me with paths := t.me.paths, waymarks := t.me.waymarks, poison := t.me.poison, sinks := t.me.sinks
                           sinksOn := t.me.sinksOn }
      ∧ (∀ e, e ≠ s.ctx.elem → t.elem e = s.elem e)
      ∧ t.el = { s.el with landing := t.el.landing, tags := t.el.tags, dirty := t.el.dirty }
    (∀ entry, s.winFault o (s.fillReads o) false [] = none → s.fl.beat = 0 → (s.siteRec o).slip = 0 → s.el.freeEntry = some entry →
      (s.launch s.fl.launch).halted = false →
      (∃ t x, exec (.ldw o) s = .next t ∧ opened t entry x false
        ∧ x = { accessOf s o x.id .read a with len := 4 * (s.share o).lw, entry := entry }
        ∧ ∀ g d, g < (s.share o).lw / 16 → look d t.el.tags (granKey n j g) = { space := 0, off := a + 64 * g })
      ∧ ∃ t x, exec (.ldsy o) s = .next t ∧ opened t entry x false
        ∧ x = { accessOf s o x.id .sync a with len := 4 * (s.share o).lw, entry := entry }
        ∧ ∀ g d, g < (s.share o).lw / 16 → look d t.el.tags (granKey n j g) = { space := 0, off := a + 64 * g })
    ∧ (∀ i op entry, atomOf i = some (o, op) → s.winFault o (s.atomReads o op) true (s.atomSinks o op) = none →
      s.fl.beat = 0 → s.el.freeEntry = some entry → (s.launch s.fl.launch).halted = false →
      ∃ t x, exec i s = .next t ∧ opened t entry x true
        ∧ x = { accessOf s o x.id .atom a with
                len := 4 * (s.share o).lw, entry := entry, store := true, op := op, sat := o.sat, rnd := o.rnd,
                ops := (s.enabled o).map fun k => (k, (s.laneA o 0 k).v, (s.laneB o 0 k).v) }
        ∧ t.el.tags = s.el.tags ∧ t.el.dirty = s.el.dirty
        ∧ t.me.poison = poisonAfter s.me.poison (s.atomSinks o op) s.idx n 1)
    ∧ (s.winFault o (s.fillReads o) false [] = none → s.fl.beat ≠ 0 → exec (.ldw o) s = .next s ∧ exec (.ldsy o) s = .next s)
    ∧ (s.winFault o (s.fillReads o) false [] = none → s.fl.beat = 0 → s.el.freeEntry = none →
      exec (.ldw o) s = .next ((s.winMiss s.key s.idx o.win.toNat 1 0 0).trapB 16)
      ∧ exec (.ldsy o) s = .next ((s.winMiss s.key s.idx o.win.toNat 1 0 0).trapB 16))
    ∧ (s.readFault o (s.fillReads o) = none → s.fl.beat = 0 → s.spanOk (s.siteRec o) a (4 * (s.share o).lw) false = false →
      exec (.ldw o) s = .next (s.trapB 33) ∧ exec (.ldsy o) s = .next (s.trapB 33))
    ∧ let entry (sl k : Nat) : Nat := (s.slice sl).slots.toNat / 4 ^ k % 4
      let cls := if (s.siteRec o).fill = 3 then 0 else 2
      let admitted (g : Nat) : Prop := ∃ k < 16, entry (sliceOf (64 * g)) k = cls ∨ entry (sliceOf (64 * g)) k = 3
      ∀ pre g post, ((List.range ((4 * (s.share o).lw + 63) / 64)).map (a / 64 + ·)) = pre ++ g :: post → (∀ x ∈ pre, admitted x) →
        ¬ admitted g → s.readFault o (s.fillReads o) = none → s.fl.beat = 0 →
        s.spanOk (s.siteRec o) a (4 * (s.share o).lw) false = true →
        let k := s.cycle % 16
        let t := (s.siteErr s.key n 0 s.idx 1 k (entry (sliceOf (64 * g)) k) 5 0 0).trapB 18
        exec (.ldw o) s = .next t ∧ exec (.ldsy o) s = .next t

/-- R223, R237, R238, R300: a store with write-back under its line's own tag: its bytes merge at the end of t + 8, its
write-back is queued and reads the bank from t + 9 on, its poisoned lanes are recorded, and nothing else changes yet. An
`mcast` with MLIST 0 is an `stw`; with a list it also sends a replica to each listed slice of the saggar. -/
def Obligations.StoresQueueTheirWriteBack : Prop :=
  ∀ (o : SOp) (s : State), 0 < (s.share o).le →
    let a := lineAt s o
    let j := localLine s o
    let n := o.imm.toNat % 256
    let ls := (s.enabled o).map fun i => s.laneA o 0 i
    let bs := storeList s o fun i => (4 * i, 4)
    let ok : Prop := s.winFault o (s.laneReads o false false) true ls = none ∧ Live s ∧ (s.launch s.fl.launch).halted = false
      ∧ (∀ x ∈ s.accs, x.elem = s.ctx.elem → (s.launch x.launch).halted = false) ∧ (s.el.lineTags n j).map (·.2) = lineTagsAt (s.share o) a
    let stored (t : State) : Prop :=
      (∃ x ∈ t.accs, x = { accessOf s o x.id .wback a with st := .queued, len := 4 * (s.share o).lw, notBefore := s.cycle + 9 })
      ∧ dueOf (s.cycle + 8) 110 (some s.ctx.region) (.inr (.merge s.key s.ctx.elem s.fl.gen n (bs.map fun b =>
          (4 * (s.share o).lw * j + b.1, some { space := 0, off := a + b.1 / 64 * 64 }, b.2)))) ∈ t.agenda
      ∧ dueOf (s.cycle + 9) 101 (some s.ctx.region) (.inl (.writeBackRead s.ctx.elem)) ∈ t.agenda
      ∧ t = { s with serial := t.serial, accs := t.accs, slots := t.slots, agenda := t.agenda, regions := t.regions }
      ∧ (∀ k, k ≠ s.key → t.slot k = s.slot k)
      ∧ t.me = { s.me with paths := t.me.paths, waymarks := t.me.waymarks, poison := poisonAfter s.me.poison ls s.idx n 0
                           sinks := t.me.sinks, sinksOn := t.me.sinksOn }
    let list := s.fl.base.toNat / 2 ^ 60
    let w := look 0 (s.region s.ctx.region).mcast list
    let inList (k : Nat) : Prop := ∃ e < 4, w.getLsbD (44 + e) = true ∧ k = w.toNat / 2 ^ (8 * e) % 256
    let home (k : Nat) : Prop := k < 192 ∧ s.holdsSaggar (k / 4) (saggarOf (s.launch s.fl.launch)) = true
    (ok → ∃ t, exec (.stw o) s = .next t ∧ stored t ∧ t.regions = s.regions)
    ∧ (list = 0 → exec (.mcast o) s = exec (.stw o) s)
    ∧ (ok → list ≠ 0 → ∃ t, exec (.mcast o) s = .next t ∧ stored t
      ∧ ∀ k, inList k → home k → ∃ x ∈ t.accs, ∃ pa, pa = sliceBase + sliceBytes * k + (a - sliceBase) % sliceBytes
        ∧ x = { accessOf s o x.id .replica pa with line := 0, bytes := bs.map fun b => (pa + b.1, b.2) })
    ∧ (s.readFault o (s.laneReads o false false) = none → s.fl.beat = 0 → ¬ (s.fl.fmt.getLsbD 2 = true ∧ ∃ l ∈ ls, l.p = true) →
      s.spanOk (s.siteRec o) a (4 * (s.share o).lw) true = false → exec (.stw o) s = .next (s.trapB 33))

/-- R104, R106, R241, R242, R262: a beat of `treq` with one plain packet in its first four lanes, or two in all eight, is
accepted when the packets are good and their handles free and distinct: the requests are queued and the handles fill; else
the beat is refused whole, with `XFER_FORMAT` (37), `XFER_BUSY` (83) or `XFER_FULL` (38). `dtap` writes its samples, rounded
to f32, to the destination and the tap latch. -/
def Obligations.RequestsAreAcceptedWhole : Prop :=
  (∀ (o : SOp) (s : State), s.readFault o (s.laneReads o false false) = none → s.ecc = [] →
    let b := 8 * s.fl.beat
    let clean (n : Nat) : Prop := s.enabled o = (List.range n).map (b + ·) ∧ ∀ i < n, (s.laneA o 0 (b + i)).p = false
    let pk (g : Nat) : BitVec 128 := (s.laneA o 0 (b + 4 * g + 3)).v ++ (s.laneA o 0 (b + 4 * g + 2)).v
      ++ (s.laneA o 0 (b + 4 * g + 1)).v ++ (s.laneA o 0 (b + 4 * g)).v
    let slice := 4 * s.ctx.region + o.imm.toNat / 4 % 4
    let port := o.imm.toNat % 4
    let h (g : Nat) : Nat := (pk g).toNat / 2 ^ 118 % 64
    let plain (g : Nat) : Prop := (pk g).toNat / 2 ^ 124 = 0
    let good (g : Nat) : Prop := plain g ∧ pktOk s.flCopy (pk g) 0 = true
    let free (g : Nat) : Prop := (s.handle s.ctx.region (h g)).st = .free
    let queued := (s.reqs.filter fun r => r.slice == slice && r.port == port && r.st == .queued).length
    let taken (t : State) (g : Nat) : Prop := (∃ r ∈ t.reqs, r.pkt = pk g ∧ r.slice = slice ∧ r.port = port ∧ r.slot = s.key
        ∧ r.launch = s.fl.launch ∧ r.at_ = s.cycle ∧ (r.st = .queued ∨ r.st = .running))
      ∧ t.handle s.ctx.region (h g) = {
          st := .filling, owner := s.fl.launch,
          dest := if (pk g).getLsbD 112 || (pk g).getLsbD 111 then none
            else some ((pk g).toNat / 2 ^ 87 % 2 ^ 24, 64 * ((pk g).toNat / 2 ^ 72 % 2 ^ 15 + 1)) }
    (clean 4 →
      (good 0 → free 0 → queued < 64 → ∃ t, exec (.treq o) s = .next t ∧ taken t 0
        ∧ (∀ k, k ≠ h 0 → t.handle s.ctx.region k = s.handle s.ctx.region k)
        ∧ t = { s with serial := s.serial + 1, reqs := t.reqs, regions := t.regions, slices := t.slices })
      ∧ (plain 0 → pktOk s.flCopy (pk 0) 0 = false → exec (.treq o) s = .next (s.trapB 37))
      ∧ (good 0 → ¬ free 0 → exec (.treq o) s = .next (s.trapB 83 (h 0)))
      ∧ (good 0 → free 0 → 64 ≤ queued → exec (.treq o) s = .next (s.trapB 38)))
    ∧ (clean 8 → plain 0 → plain 1 →
      (good 0 → good 1 → free 0 → free 1 → h 0 ≠ h 1 → queued < 63 → ∃ t, exec (.treq o) s = .next t ∧ taken t 0 ∧ taken t 1
        ∧ (∀ k, k ≠ h 0 → k ≠ h 1 → t.handle s.ctx.region k = s.handle s.ctx.region k)
        ∧ t = { s with serial := s.serial + 2, reqs := t.reqs, regions := t.regions, slices := t.slices })
      ∧ (¬ (good 0 ∧ good 1) → exec (.treq o) s = .next (s.trapB 37))
      ∧ (good 0 → good 1 → ¬ free 0 → exec (.treq o) s = .next (s.trapB 83 (h 0)))
      ∧ (good 0 → good 1 → free 0 → (¬ free 1 ∨ h 0 = h 1) → exec (.treq o) s = .next (s.trapB 83 (h 1)))
      ∧ (good 0 → good 1 → free 0 → free 1 → h 0 ≠ h 1 → 63 ≤ queued → exec (.treq o) s = .next (s.trapB 38))))
  ∧ ∀ (o : SOp) (s : State), s.readFault o s.maskReads = none →
    let y (i : Nat) : BitVec 33 := s.fl.taps.getD (i % 8) 0
    let v (i : Nat) : LaneWord := BitVec.ofNat 32 (fround { rnd := o.rnd } .f32 (ofInt (y i).toInt (-32) false)).c
    exec (.dtap o) s = .next ((s.finishBeat o ((s.enabled o).map fun i => (i, Lane.clean (v i)))).modEl fun e =>
      { e with tapLatch := putAll e.tapLatch ((s.enabled o).map fun i => (i, v i)) })

/-! ## Schedule words: the matrix array -/

/-- R184 to R186, R188, R194: a beat of `mfa` joins its lanes to those of the other elements, and the sixteenth element's
beat queues, in order, each step whose last lane has come, with its codes and, once their lane has come, its row scales,
its word's cursor being L where the word begins, or meets `FEED_FULL` (24). `mfb` writes its lanes' bytes to its line of the
weight buffer, tags it, and sets its poison bit, which the beat clears that completes the line within its word, unpoisoned;
`mzero` sets its element's four rows of a tile to +0, and the sixteenth begins a new run. -/
def Obligations.MatrixOperandsAreBuffered : Prop :=
  (∀ (t : MTy) (o : SOp) (s : State), s.readFault o (s.feedReads t) = none →
    let cl := s.ctx.elem / 16
    let c := s.cluster cl
    let me := s.ctx.elem % 16
    let id := s.fl.wordId
    let w0 : FWord := (c.fwords.find? (·.serial == id)).getD
      { serial := id, total := kValues t (8 * (o.fold.val + 1)) / 2 ^ (o.imm.toNat / 2 ^ 12 % 4), cursor := o.imm.toNat % 2 ^ 12 }
    let w : FWord := { w0 with lanes := putAll w0.lanes ((s.feedLanes t).map fun i => (64 * me + i, s.laneA o 0 i)),
                               seen := if w0.seen.contains me then w0.seen else me :: w0.seen }
    let others := c.fwords.filter (·.serial != id)
    (w.seen.length < 16 → ∃ u, exec (.mfa t o) s = .next u ∧ ClusterIs s u cl { c with fwords := others ++ [w] })
    ∧ (∀ c', 16 ≤ w.seen.length → s.queueBeat t o w = some c' → ∃ u, exec (.mfa t o) s = .next u ∧ ClusterIs s u cl c'
      ∧ c' = { c with feed := c'.feed, fwords := c'.fwords } ∧ c'.feed.length ≤ 16)
    ∧ (16 ≤ w.seen.length → w.dead = false →
      let p := 2 ^ (o.imm.toNat / 2 ^ 12 % 4)
      let scaleAt : Option Nat := match t with | .mxf8 | .mxi8 => some 32 | .mxf4 => some 16 | _ => none
      let come : Prop := ∀ l ∈ scaleAt, l < 8 * (s.fl.beat + 1)
      let new := (List.range w.total).filter fun i =>
        decide (w.pushed ≤ i ∧ (codePlace t (i * p + p - 1) 3).1 < 8 * (s.fl.beat + 1))
      (s.queueBeat t o w = none ↔ 16 < c.feed.length + new.length)
      ∧ ∀ c' : Cluster, s.queueBeat t o w = some c' → c'.feed.length = c.feed.length + new.length
        ∧ (∀ (n : Nat) (st : FStep), c.feed[n]? = some st → ∃ x : FStep, c'.feed[n]? = some x ∧ x = { st with ready := x.ready, scales := x.scales }
          ∧ (st.word ≠ id ∨ st.ready ≠ none ∨ ¬ come → x = st)
          ∧ (st.word = id → st.ready = none → come → x.ready = some (s.cycle + 1)))
        ∧ (∀ (n i : Nat), new[n]? = some i → ∃ x : FStep, c'.feed[c.feed.length + n]? = some x ∧ x = {
              ready := x.ready, queuedAt := s.cycle, edge := s.fl.edge, tile := o.imm.toNat / 2 ^ 14, ty := t, pack := p,
              region := s.ctx.region, slot := s.key, launch := s.fl.launch, word := id, index := i, line := o.imm.toNat % 2 ^ 12,
              vals := stepVals t p i w.lanes, scales := x.scales }
          ∧ (come → x.ready = some (s.cycle + 1)) ∧ (¬ come → x.ready = none)
          ∧ ∀ l ∈ scaleAt, come → ∀ r < 64, x.scales[r]?
              = some (BitVec.ofNat 8 ((look ({} : Lane) w.lanes (64 * (r / 4) + l)).v.toNat / 2 ^ (8 * (r % 4)))))
        ∧ ∃ v ∈ c'.fwords, v = { w with pushed := w.pushed + new.length, seen := [] })
    ∧ (16 ≤ w.seen.length → s.queueBeat t o w = none → exec (.mfa t o) s = .next
        ((s.setCluster cl { c with fwords := others ++ [{ w with seen := [] }] }).trapB 24)))
  ∧ (∀ (t : MTy) (p i : Nat) (lanes : Map Lane) (r u : Nat), r < 64 → u < p →
    let q := codePlace t (i * p + u) (r % 4)
    let x := look ({} : Lane) lanes (64 * (r / 4) + q.1)
    (stepVals t p i lanes)[r * p + u]? = some (BitVec.ofNat 16 (x.v.toNat / 2 ^ q.2.1 % 2 ^ q.2.2), x.p))
  ∧ (∀ (f : BForm) (o : SOp) (s : State) (i0 : Nat) (is : List Nat), s.readFault o (s.laneReads o false false) = none →
    s.enabled o = i0 :: is →
    let cl := s.ctx.elem / 16
    let line := o.imm.toNat % 2 ^ 12 + s.ctx.elem % 16 * ((o.fold.val + 1) / 2) + i0 / 16
    ∃ t x, exec (.mfb f o) s = .next t ∧ ClusterIs { s with ecc := t.ecc } t cl x
      ∧ (∀ i ∈ s.enabled o, ∀ b < 4, x.wbyte none line (4 * (i % 16) + b) = BitVec.ofNat 8 ((s.laneA o 0 i).v.toNat / 256 ^ b))
      ∧ (∀ l b, b < 64 → ¬ (l = line ∧ ∃ i ∈ s.enabled o, i % 16 = b / 4) → x.wbyte none l b = (s.cluster cl).wbyte none l b)
      ∧ (x.wline line).tag = some (f, o.imm.getLsbD 12) ∧ (∀ l, l ≠ line → x.wline l = (s.cluster cl).wline l)
      ∧ ((∃ i ∈ s.enabled o, (s.laneA o 0 i).p = true) → (x.wline line).p = true)
      ∧ (let old := look (0, 0) (s.cluster cl).wwrote line
        let before (l : Nat) : Prop := old.1 = s.fl.wordId + 1 ∧ old.2.getLsbD l = true
        let completes : Prop := (∃ l < 16, ¬ before l) ∧ ∀ l < 16, before l ∨ ∃ i ∈ s.enabled o, i % 16 = l
        (∀ i ∈ s.enabled o, (s.laneA o 0 i).p = false) →
          (completes → (x.wline line).p = false) ∧ (¬ completes → (x.wline line).p = ((s.cluster cl).wline line).p))
      ∧ x = { s.cluster cl with
              wbytes := x.wbytes, wlines := x.wlines, wwrote := x.wwrote, wOld := x.wOld, wOldLines := x.wOldLines,
              wOldAt := s.cycle })
  ∧ (∀ (f : BForm) (o : SOp) (s : State), s.readFault o (s.laneReads o false false) = none → s.enabled o = [] →
    exec (.mfb f o) s = .next s)
  ∧ ∀ (o : SOp) (s : State), s.readFault o s.maskReads = none → TileRests s o →
    let cl := s.ctx.elem / 16
    let z := o.imm.toNat % 4
    let me := s.ctx.elem % 16
    ∃ t x, exec (.mzero o) s = .next t ∧ ClusterIs { s with ecc := t.ecc } t cl x
      ∧ (∀ i j, 4 * me ≤ i → i < 4 * me + 4 → j < 64 → x.word z i j = { v := 0, p := false })
      ∧ (∀ y i j, y < 4 → i < 64 → j < 64 → (y ≠ z ∨ i < 4 * me ∨ 4 * me + 4 ≤ i) → x.word y i j = (s.cluster cl).word y i j)
      ∧ (15 ≤ (look [] (s.cluster cl).zeroed z).length → me ∉ look [] (s.cluster cl).zeroed z → x.run z = {})
      ∧ (∀ y, y ≠ z → x.run y = (s.cluster cl).run y)
      ∧ x = { s.cluster cl with tiles := x.tiles, sums := x.sums, zeroed := x.zeroed, runs := x.runs, firstBeat := x.firstBeat }

/-- R59, R195 to R200, R203 to R205: `mdrain` reads the tile's rows of its element on its first beat and writes every enabled
lane on its last; `mchk` reports in lane 0 the count of tile words that it corrected; a tile that is not at rest stops both,
and `mzero` and `mjoin`, with `MATRIX_ORDER` (25). A word read with a double-bit error is `ACC_ECC` (51); checksums that
differ in one row and one column alike, or in one of either alone, are mended, and others are `ACC_SUM` (52). `mjoin` opens a
joint operation at its leader's element 0, with `od` of as many planes as have landed, counted in its expert's block, and
does nothing at the other elements; a bad descriptor is cause 49 (R203). -/
def Obligations.MatrixResultsLeaveTheTile : Prop :=
  (∀ (t : FltTy) (o : SOp) (s : State), s.readFault o s.maskReads = none → TileRests s o → s.ecc = [] → s.flCopy.accprot = false →
    let kept := s.keepScratch o (look {} s.el.scratch s.ctx.slot) 0
    (s.fl.beat = 0 → o.fold.val ≠ 0 → ∃ u, exec (.mdrain t o) s = .next u
      ∧ (∀ i < 64, look {} (look {} u.el.scratch s.ctx.slot).a i = drainedLane s t o i)
      ∧ u.el = { s.el with scratch := u.el.scratch } ∧ (∀ e, e ≠ s.ctx.elem → u.elem e = s.elem e)
      ∧ (∀ y i j, (u.cluster (s.ctx.elem / 16)).word y i j = (s.cluster (s.ctx.elem / 16)).word y i j)
      ∧ u = { s with elems := u.elems, clusters := u.clusters })
    ∧ (s.fl.beat = 0 → o.fold.val = 0 → ∃ u : State, exec (.mdrain t o) s = .next (u.writeDst o ((s.enabled o).map fun i => (i, drainedLane s t o i)))
      ∧ u = { s with elems := u.elems, clusters := u.clusters } ∧ u.el = { s.el with scratch := u.el.scratch })
    ∧ (s.fl.beat ≠ 0 → s.fl.beat ≠ o.fold.val → exec (.mdrain t o) s = .next kept.2)
    ∧ (s.fl.beat ≠ 0 → s.fl.beat = o.fold.val →
      exec (.mdrain t o) s = .next (kept.2.writeDst o
        (((List.range 64).filter fun i => kept.1.en.getLsbD i).map fun i => (i, look {} kept.1.a i)))))
  ∧ (∀ (o : SOp) (s : State), s.readFault o s.maskReads = none → TileRests s o →
    let cl := s.ctx.elem / 16
    let z := o.imm.toNat % 4
    let mine := s.ecc.filter fun e => match e.1 with | .tile c k => c == cl && k / 4096 == z | _ => false
    (s.cluster cl).chk = none → s.flCopy.accprot = false → (∀ e ∈ mine, e.2 = .single) →
    ∃ u v, exec (.mchk o) s = .next (v.writeDst o ((beatLanes 0).map fun i =>
        (i, Lane.clean (if i = 0 then BitVec.ofNat 32 mine.length else 0)))) ∧ ClusterIs { s with ecc := v.ecc } v cl u
      ∧ u = { s.cluster cl with firstBeat := u.firstBeat, accerr := u.accerr, chk := some (s.fl.wordId, s.cycle, mine.length) }
      ∧ u.accerr.toNat / 2 ^ 48 = min 65535 ((s.cluster cl).accerr.toNat / 2 ^ 48 + mine.length)
      ∧ ∀ e, e ∈ v.ecc ↔ e ∈ s.ecc ∧ e ∉ mine)
  ∧ (∀ (i : Instr) (o : SOp) (s : State) (per : Option Nat), s.readFault o s.maskReads = none → TileRests s o →
    let cl := s.ctx.elem / 16
    let c := s.cluster cl
    let z := o.imm.toNat % 4
    (i = .mchk o ∧ c.chk = none ∧ per = none)
      ∨ (s.fl.beat = 0 ∧ look false c.drained z = false ∧ ((i = .mdrain .f32 o ∧ per = some 16)
        ∨ ((i = .mdrain .f16 o ∨ i = .mdrain .bf16 o) ∧ per = some 32))) →
    let reads (k : Nat) : Prop := k / 4096 = z ∧ ∀ n ∈ per, k % 4096 / 256 = s.ctx.elem % 16 ∧ k % 64 / n = o.imm.toNat / 4 % 4
    let stops (num kind : Nat) : Prop := ∃ v : State, exec i s = .next (v.trapB num) ∧ v = { s with clusters := v.clusters, ecc := v.ecc }
      ∧ (∀ d, d ≠ cl → v.cluster d = s.cluster d)
      ∧ (v.cluster cl) = { c with accerr := (v.cluster cl).accerr, firstBeat := (v.cluster cl).firstBeat }
      ∧ ∃ w, w.toNat % 2 ^ 48 = c.accerr.toNat % 2 ^ 48 ∧ AccErrIs w (v.cluster cl).accerr z kind
    (s.flCopy.accprot = false → (∃ k e, (EccAt.tile cl k, e) ∈ s.ecc ∧ reads k ∧ e ≠ .single) → stops 51 1)
    ∧ (s.flCopy.accprot = true → SumsBad c z → stops 52 2)
    ∧ (s.flCopy.accprot = true → ¬ SumsBad c z → let n := if sumsOff c z 0 = [] ∧ sumsOff c z 1 = [] then 0 else 1
      ∃ t, exec i s = .next t ∧ sumsOff (t.cluster cl) z 0 = [] ∧ sumsOff (t.cluster cl) z 1 = []
        ∧ (t.cluster cl).accerr.toNat / 2 ^ 48 = min 65535 (c.accerr.toNat / 2 ^ 48 + n)
        ∧ (∀ y r j, y < 4 → r < 64 → j < 64 → (t.cluster cl).word y r j = if y = z ∧ r ∈ sumsOff c z 0 ∧ j ∈ sumsOff c z 1
            then { c.word y r j with v := (c.word y r j).v ^^^ look 0 c.sums (128 * z + r) } else c.word y r j)
        ∧ (i = .mchk o → ∃ v : State, t = v.writeDst o ((beatLanes 0).map fun l =>
            (l, Lane.clean (if l = 0 then BitVec.ofNat 32 n else 0))))))
  ∧ (∀ (o : SOp) (s : State), s.noteFirst.tileBusy (o.imm.toNat % 4) = true →
    (s.readFault o s.maskReads = none → exec (.mzero o) s = .next (s.noteFirst.trapB 25)
      ∧ exec (.mchk o) s = .next (s.noteFirst.trapB 25) ∧ ∀ t, exec (.mdrain t o) s = .next (s.noteFirst.trapB 25))
    ∧ (s.readFault o (s.joinReads o) = none → exec (.mjoin o) s = .next (s.noteFirst.trapB 25)))
  ∧ ∀ (o : SOp) (s : State) (q m : Nat), s.readFault o (s.joinReads o) = none → TileRests s o →
    s.memberOf s.fl.launch (s.ctx.elem / 16) = some (q, m) →
    let seen := look (0, 0) (s.launch s.fl.launch).joins q
    (s.ctx.elem % 16 ≠ 0 ∨ m ≠ seen.2 % 4 ∨ seen.1 = s.fl.wordId + 1 → exec (.mjoin o) s = .next s.noteFirst)
    ∧ (s.ctx.elem % 16 = 0 → m = seen.2 % 4 → seen.1 ≠ s.fl.wordId + 1 → (s.launch s.fl.launch).halted = false →
      (∀ j ∈ s.joins, j.id ≠ 8 * s.fl.wordId + q) →
      let d := (s.laneA o 0 0).v
      let e := (s.laneA o 0 1).v
      let od := o.imm.getLsbD 2
      let h := s.handle s.ctx.region (o.imm.toNat / 8 % 64)
      let w := o.imm.toNat / 2 ^ 9 % 8 + 2
      let landed := if h.st = .free then 8 else h.planes
      let form := ((s.cluster (s.ctx.elem / 16)).wline (d.toNat % 2 ^ 12)).tag
      let good : Prop := d.toNat < 2 ^ 24 ∧ (od = true → e.toNat < 2 ^ 11 ∧ ∃ n c, form = some (.bp n, c))
      (good → ∃ t j, exec (.mjoin o) s = .next t ∧ t.joins = s.joins ++ [j] ∧ j.id = 8 * s.fl.wordId + q ∧ j.launch = s.fl.launch
        ∧ j.quad = q ∧ j.leader = m ∧ j.tile = o.imm.toNat % 4 ∧ j.start = s.cycle ∧ j.base = d.toNat % 2 ^ 12
        ∧ j.half = d.toNat / 2 ^ 12 % 2 ^ 12 + 1 ∧ j.stop = false ∧ j.done = false ∧ j.taken = [0, 0, 0, 0] ∧ j.on = od
        ∧ LaunchIs { s with joins := t.joins, clusters := t.clusters, agenda := t.agenda, upds := t.upds, serial := t.serial } t
            s.fl.launch { s.launch s.fl.launch with joins := put (s.launch s.fl.launch).joins q (s.fl.wordId + 1, seen.2 + 1) }
        ∧ (od = false → t.upds = s.upds ∧ t.serial = s.serial
          ∧ t.agenda = s.agenda ++ [dueOf (s.cycle + 65536) 15 (some s.ctx.region) (.inl (.joinStall j.id))])
        ∧ ∀ n c, od = true → form = some (.bp n, c) → j.planes = max 2 (min w (min landed (n.val + 2)))
          ∧ ∃ u, t.upds = s.upds ++ [u] ∧ u.slice = 4 * s.ctx.region + e.toNat / 2 ^ 9 % 4 ∧ u.launch = s.fl.launch
            ∧ u.adds = [(8 * (e.toNat % 2 ^ 9) + 1, 1), (8 * (e.toNat % 2 ^ 9) + 2, j.planes)]
                ++ (if j.planes < w then [(8 * (e.toNat % 2 ^ 9) + 3, 1)] else [])
            ∧ t.agenda = s.agenda ++ [dueOf (s.cycle + 65536) 15 (some s.ctx.region) (.inl (.joinStall j.id)),
                dueOf u.due 112 none (.inl (.counterUpdate u.id))])
      ∧ (¬ good → s.me.bound = true → s.me.ended = false → ∃ t, exec (.mjoin o) s = .next t ∧ Raises t s.key 49 3
        ∧ ∃ j ∈ t.joins, j.id = 8 * s.fl.wordId + q ∧ j.stop = true ∧ j.done = true))


/-! ## Events: launches -/

/-- R64 to R71, R73, R75: the tokens of a stream make one launch and hand it to its port's queue; a token out of place
abandons its own stream; the checks of CLOSE refuse a launch with `LAUNCH_RANGE` (8) or `LAUNCH_FORMAT` (9); a waiting launch ages each
10 ms; a semaphore takes a write whose EXPECT is its owner and whose owner is 0 or the writing port. That a full queue is looked
at before the other conditions of an OPEN, and that a placed launch ages too, is the model's choice: log entry 32. -/
def Obligations.TokensMakeALaunch : Prop :=
  (∀ (h : HostPort) (p : Fin 16) (why : BadToken) (s : State), ∃ u, exec (.badTokenWrite h p why) s = .next u
    ∧ PortIs s u p.val (droppedPort (s.port p.val) (match why with | .size => 1 | .header => 2)))
  ∧ (∀ (t : Token) (s : State),
    let p := t.port.val
    let y := s.port p
    let seqOn : Port := { y with seq := y.seq + 1 }
    (64 ≤ y.queue.length → y.stream = none → ∃ u, exec (.openTok t) s = .next u
      ∧ PortIs { s with log := u.log, logCnt := s.logCnt + 1 } u p (droppedPort y 4))
    ∧ (y.queue.length < 64 → y.stream = none → t.seq = 0 → t.len = 56 → ∃ u, exec (.openTok t) s = .next u
      ∧ u = { s with serial := u.serial, launches := u.launches, ports := u.ports, loads := u.loads }
      ∧ u.port p = { y with stream := some s.serial, seq := 1 } ∧ (∀ j, j ≠ p → u.port j = s.port j)
      ∧ u.launch s.serial = {
          host := t.host, port := p, prio := y.prio, ident := BitVec.ofNat 128 (t.payload.toNat / 2 ^ 320),
          objVa := BitVec.ofNat 72 (t.payload.toNat / 2 ^ 248), objLen := t.payload.toNat / 2 ^ 216 % 2 ^ 32,
          openRsv := t.payload.toNat % 2 ^ 216 != 0, load := (u.launch s.serial).load }
      ∧ (∀ j, j ≠ s.serial → u.launch j = s.launch j)
      ∧ (s.anyCopy (u.launch s.serial).ident = false → ∃ d ∈ u.loads, (u.launch s.serial).load = some d.id
          ∧ d.ident = (u.launch s.serial).ident ∧ d.phase = false))
    ∧ (y.queue.length < 64 → (y.stream ≠ none ∨ t.seq ≠ 0 ∨ t.len ≠ 56) →
      ∃ u, exec (.openTok t) s = .next u ∧ OutOfPlace s u t)
    ∧ ((∀ l, InPlace s t l → (s.launch l).gotParam = true ∨ t.len ≠ 56) →
      ∃ u, exec (.paramTok t) s = .next u ∧ OutOfPlace s u t)
    ∧ ((∀ l, InPlace s t l → (s.launch l).gotParam = false ∨ t.len.toNat = 0 ∨ 56 < t.len.toNat) →
      ∃ u, exec (.dataTok t) s = .next u ∧ OutOfPlace s u t)
    ∧ ((∀ l, InPlace s t l → (s.launch l).gotParam = false ∨ t.len ≠ 0) →
      ∃ u, exec (.closeTok t) s = .next u ∧ OutOfPlace s u t)
    ∧ ∀ l, InPlace s t l →
      let x := s.launch l
      let closed : Launch := { x with stage := .closed, closeAt := s.cycle }
      let good : Prop := x.openRsv = false ∧ x.block.toNat % 2 ^ 82 = 0 ∧ saggarOf x ≠ 0xFFF
        ∧ (x.argv = false → x.hasData = false) ∧ (x.argv = true → x.data.length = x.argLen)
      (x.gotParam = false → t.len = 56 → ∃ u, exec (.paramTok t) s = .next u
        ∧ TokenTaken s u p l { x with block := t.payload, gotParam := true } seqOn)
      ∧ (x.gotParam = true → 1 ≤ t.len.toNat → t.len.toNat ≤ 56 → ∃ u, exec (.dataTok t) s = .next u
        ∧ TokenTaken s u p l { x with data := x.data ++ leBytes t.payload.toNat t.len.toNat, hasData := true } seqOn)
      ∧ (x.gotParam = true → t.len = 0 → x.units < 2 ^ 24 → good → x.status ≠ 2 → ∃ u, exec (.closeTok t) s = .next u
        ∧ TokenTaken (later s (s.cycle + 20000000) 2 none (.inl (.launchAging l))) u p l closed
            { y with stream := none, queue := y.queue ++ [l] })
      ∧ (x.gotParam = true → t.len = 0 → x.port = p → 2 ^ 24 ≤ x.units →
        ∃ u, exec (.closeTok t) s = .next u ∧ Refused s u l 8)
      ∧ (x.gotParam = true → t.len = 0 → x.port = p → x.units < 2 ^ 24 → ¬ good →
        ∃ u, exec (.closeTok t) s = .next u ∧ Refused s u l 9))
  ∧ (∀ (p : Fin 16) (s : State), ∃ u, exec (.ingressClr p) s = .next u
    ∧ PortIs s u p.val { s.port p.val with dropped := 0, lastErr := 0 })
  ∧ (∀ (l : Nat) (s : State), let x := s.launch l
    (((x.stage = .closed ∨ x.stage = .waiting ∨ x.stage = .placed) ∧ x.armed = false) → ∃ u, exec (.launchAging l) s = .next u
      ∧ LaunchIs (later s (s.cycle + 20000000) 2 none (.inl (.launchAging l))) u l { x with age := min 3 (x.age + 1) })
    ∧ ((x.stage = .running ∨ x.stage = .retired ∨ x.stage = .open ∨ x.armed = true) → exec (.launchAging l) s = .next s))
  ∧ ∀ (h : HostPort) (n : Fin 16) (v : BitVec 32) (s : State),
    let w := look 0 s.hostSem n.val
    let code := match h with | .A => 1 | .B => 2
    let new := v.toNat / 2 ^ 30
    let ok : Prop := v.toNat / 2 ^ 28 % 4 = w.toNat / 2 ^ 30 ∧ (new = 0 ∨ new = code)
    ∃ u, exec (.hostSemWrite h n v) s = .next u ∧ u = { s with hostSem := u.hostSem }
      ∧ (∀ j, j ≠ n.val → look 0 u.hostSem j = look 0 s.hostSem j)
      ∧ (¬ ok → look 0 u.hostSem n.val = w)
      ∧ (ok → look 0 u.hostSem n.val = BitVec.ofNat 2 new ++ (0 : BitVec 14)
          ++ (if new = w.toNat / 2 ^ 30 then w.setWidth 16 else w.setWidth 16 + 1))

/-- R36 to R39, R66, R68, R77, R78, R88: a load brings its object to a region's schedule store under the next generation,
over no copy that is referred to, unless the region holds the copy by then; a failed read refuses its launch with `OBJ_READ`
(13), and an aborted one is reported as well (43); the check of the arguments; the placement of the head launch takes a free
rectangle, the lowest free slots and its reservation within the budget. The loader's region and store, and what becomes of
a load once its launch can bind, are the model's choice where R38 and R66 are silent (log entry 30); so is that RESERVED grows
at placement (log entry 32), where R87 sums armed launches. -/
def Obligations.LaunchesAreLoadedAndPlaced : Prop :=
  (∀ (o : Obj) (region gen : Nat) (ident : BitVec 128) (g : BitVec 12) (ecc : Option Nat) (more : Option Blame) (s u : State),
    s.loadInto o region ident g ecc more = .ok (some (u, gen)) →
    let old := s.region region
    let new := u.region region
    gen = (if old.lastGen = 2 ^ 32 - 1 then 1 else old.lastGen + 1)
      ∧ u = { s with regions := u.regions, ecc := u.ecc } ∧ (∀ j, j ≠ region → u.region j = s.region j)
      ∧ ∃ c, c ∈ new.copies ∧ c.gen = gen ∧ c.ident = ident ∧ c.bindable = true
        ∧ (∀ d ∈ new.copies, d ∈ old.copies ∨ d = c) ∧ (∀ d ∈ old.copies, d.gen ∈ s.refs region → d ∈ new.copies)
        ∧ new = { old with store := new.store, copies := new.copies, lastGen := gen })
  ∧ (∀ (ld region gen : Nat) (b : List Byte) (d : Load) (s u : State),
    s.loads.find? (fun d => d.id == ld && !d.phase) = some d → s.waitingOn ld = [d.launch] →
    let x := s.launch d.launch
    let o := objOf b
    x.stage = .closed → x.gotParam = true → (d.fresh = true → s.bindings d.ident (saggarOf x) = []) →
    (∀ why, ∃ v t, exec (.objectLoad ld (.fails why)) s = .next t
      ∧ (why = .fault → v = s) ∧ (why = .abort → Reported s v 43 d.region 0)
      ∧ Refused { v with loads := s.loads.filter (·.id != ld)
                         reports := { ident := d.ident, refused := some { cause := 13 } } :: s.reports } t d.launch 13)
    ∧ (b.length = d.len → (∀ c ∈ [o.step1, o.step2, o.step3, o.step4], c = (none : Option Blame)) → o.storeBytes ≤ 2 ^ 21 →
      (if d.fresh then s.loadRegion o.storeBytes else some d.region) = some region →
      let after : Launch := { x with load := none }
      let left := s.loads.filter (·.id != ld)
      let twin (c : Copy) : Prop := c ∈ (s.region region).copies ∧ c.bindable = true ∧ c.ident = d.ident
        ∧ c.saggar = if o.patches = [] then none else some (saggarOf x)
      ((∃ c, twin c) → ∃ t, exec (.objectLoad ld (.bytes b)) s = .next t ∧ LaunchIs { s with loads := left } t d.launch after)
      ∧ ((∀ c, ¬ twin c) → s.loadInto o region d.ident (saggarOf x) none none = .ok (some (u, gen)) →
        ∃ t, exec (.objectLoad ld (.bytes b)) s = .next t
          ∧ LaunchIs { u with loads := left, reports := o.report region gen none :: s.reports } t d.launch after)))
  ∧ (∀ (l r gen : Nat) (more : List (Nat × Nat)) (s : State), let x := s.launch l
    let left (t : State) : State := { s with loads := t.loads }
    x.stage = .closed → x.argChecked = false → s.bindings x.ident (saggarOf x) = (r, gen) :: more →
    let good : Prop := x.argv = true → ∃ y, (s.copy r gen).sites.find? (·.1 == x.argSite) = some (x.argSite, y) ∧ y.life = 2
      ∧ x.argLen ≤ siteBytes y
    let shared : Prop := (s.copy r gen).saggar = none
    (good → ∃ t v, exec (.launchArgCheck l) s = .next t
      ∧ LaunchIs (left t) t l { x with argChecked := true, load := v } ∧ (shared → v = x.load ∧ t.loads = s.loads)
      ∧ (¬ shared → v = none ∧ (∀ d ∈ t.loads, d ∈ s.loads) ∧ ∀ d ∈ s.loads, some d.id ≠ x.load → d ∈ t.loads))
    ∧ (¬ good → ∃ t, exec (.launchArgCheck l) s = .next t ∧ Refused (left t) t l 9))
  ∧ ∀ (l r cc cr : Nat) (c : Copy) (s : State), s.nextHead = some l → s.placeAct l = .place r cc cr → s.shapeOf l = some c →
    let rect := rectOf r cc cr c.pcol c.prow
    (∀ d ∈ (s.region r).copies, relFits { s.launch l with region := r, cc0 := cc, cr0 := cr } d = true) →
    s.kilnReserved + s.kilnBase.toNat + c.reserved ≤ s.budget
      ∧ (∀ cl ∈ rect, (s.cluster cl).launch = none ∧ (s.cluster cl).fencedAt = none) ∧ cc + c.pcol ≤ 7 ∧ cr + c.prow ≤ 4
      ∧ ∃ t, exec .placement s = .next t ∧ t.mem = s.mem ∧ t.kilnReserved = s.kilnReserved + c.reserved
        ∧ (∀ j, j ≠ l → t.launch j = s.launch j)
        ∧ (t.launch l).region = r ∧ (t.launch l).cc0 = cc ∧ (t.launch l).cr0 = cr ∧ (t.launch l).res = c.reserved
        ∧ ((t.launch l).stage = .placed ∨ (t.launch l).stage = .waiting)
        ∧ (t.launch l).slots = (((List.range 8).filter fun i => !(s.slot (slotKey r i)).bound)).take
            ((c.kernels.map (·.slots)).sum)
        ∧ (∀ i ∈ (t.launch l).slots, (t.slot (slotKey r i)).bound = true ∧ (t.slot (slotKey r i)).launch = l)
        ∧ (∀ k, (∀ i ∈ (t.launch l).slots, k ≠ slotKey r i) → t.slot k = s.slot k)
        ∧ (∀ p < c.pcol * c.prow, let k := t.cluster (clusterAt r (cc + p % c.pcol) (cr + p / c.pcol))
            k.launch = some l ∧ k.page = p ∧ k.saggar = saggarOf (s.launch l) ∧ k.seams = stitched c.pcol c.prow p)
        ∧ ∀ cl, cl ∉ rect → (t.cluster cl).launch = (s.cluster cl).launch ∧ (t.cluster cl).page = (s.cluster cl).page

/-- R70, R79 to R82, R87, R89, R90, R303, R347: a page that arms clears its array, masks and result registers, and the last
one arms the launch; the slots start at their first edge cycle; a move holds the slots, and at its end, once no beat of the
launch is in flight, each page stands on its new cluster; the kiln charges each launch the energy of its counted operations in
the ratio of sensed to counted energy, rounded up, and gates a launch that overdrew. The model's choices: ACCERR is 0 at
arming (log entry 35), what the hold and its end wait for (log entry 33), the part of a window that a share covers and where
MEASURED stops (log entry 34), and the gate once the module's total exceeds BUDGET (log entry 18). -/
def Obligations.PagesArmMoveAndDraw : Prop :=
  (∀ (l p : Nat) (s : State), let x := s.launch l
    x.stage = .placed → p < pagesOf (s.copyOf l) →
    let cl := pageCluster x (s.copyOf l) p
    ∃ t, exec (.pageArm l p) s = .next t ∧ t.mem = s.mem ∧ (∀ j, j ≠ l → t.launch j = s.launch j)
      ∧ t.launch l = (if p + 1 = pagesOf (s.copyOf l) then { x with armed := true, armAt := s.cycle } else x)
      ∧ (p + 1 = pagesOf (s.copyOf l) → l ∉ (t.port x.port).queue)
      ∧ (t.cluster cl).armed = true ∧ (t.cluster cl).accerr = 0 ∧ (t.cluster cl).feed = []
      ∧ (t.cluster cl).accprot = (s.copyOf l).accprot ∧ (∀ j, j ≠ cl → t.cluster j = s.cluster j)
      ∧ (∀ e < 16, (t.elem (16 * cl + e)).masks = [] ∧ (t.elem (16 * cl + e)).res = [])
      ∧ dueOf s.cycle 30 none (.inl (.matrixStep cl)) ∈ t.agenda)
  ∧ (∀ (l : Nat) (s : State), let x := s.launch l
    x.stage = .placed → x.armed = true → ∃ t, exec (.launchSlotsStart l) s = .next t
      ∧ t = { s with slots := t.slots, launches := t.launches }
      ∧ t.launch l = { x with stage := .running } ∧ (∀ j, j ≠ l → t.launch j = s.launch j)
      ∧ (∀ k ∈ s.slotKeys l, ∃ c, t.slot k = { s.slot k with start := some c } ∧ s.cycle ≤ c ∧ c < s.cycle + 8 ∧ c % 8 = k % 8)
      ∧ ∀ k, k ∉ s.slotKeys l → t.slot k = s.slot k)
  ∧ (∀ (l cc cr : Nat) (s : State), let x := s.launch l
    let c := s.copyOf l
    let new := rectOf x.region cc cr c.pcol c.prow
    let again : State := later s (s.cycle + 8 - s.cycle % 8) 9 none (.inl (.move l cc cr))
    let start (t : State) : Prop := t = { s with slots := t.slots, launches := t.launches, clusters := t.clusters
                                                 agenda := s.agenda.filter fun d => !s.holdDue l d
                                                 frozen := s.frozen ++ s.agenda.filter (s.holdDue l) }
      ∧ t.launch l = { x with moving := some (cc, cr), movedAt := s.cycle, moveBy := none } ∧ (∀ j, j ≠ l → t.launch j = s.launch j)
      ∧ (∀ k ∈ s.slotKeys l, t.slot k = { s.slot k with moved := true }) ∧ (∀ k, k ∉ s.slotKeys l → t.slot k = s.slot k)
      ∧ (∀ cl ∈ new, t.cluster cl = { s.cluster cl with launch := some l, saggar := saggarOf x, armed := false })
      ∧ ∀ cl, cl ∉ new → t.cluster cl = s.cluster cl
    let now : Prop := s.cycle % 8 = 0 ∧ s.quiet l = true
    (x.moveBy = none → s.moveAllowed l cc cr = false → exec (.move l cc cr) s = .next s)
    ∧ (x.moveBy = none → s.moveAllowed l cc cr = true →
      (now → ∃ t, exec (.move l cc cr) s = .next t ∧ start t)
      ∧ (¬ now → ∃ t, exec (.move l cc cr) s = .next t ∧ LaunchIs again t l { x with moveBy := some (s.cycle + 128000) }))
    ∧ ∀ last, x.moveBy = some last →
      (x.moving ≠ none → exec (.move l cc cr) s = .next s)
      ∧ (x.moving = none → (s.mayMove l cc cr = false ∨ last < s.cycle) → ∃ v t, exec (.move l cc cr) s = .next t
        ∧ Reported v t 29 x.region 0 ∧ LaunchIs s v l { x with moveBy := none })
      ∧ (x.moving = none → s.mayMove l cc cr = true → s.cycle ≤ last →
        (now → ∃ t, exec (.move l cc cr) s = .next t ∧ start t) ∧ (¬ now → exec (.move l cc cr) s = .next again)))
  ∧ (∀ (l cc cr : Nat) (s : State), let x := s.launch l
    let c := s.copyOf l
    let new := rectOf x.region cc cr c.pcol c.prow
    let old := rectOf x.region x.cc0 x.cr0 c.pcol c.prow
    (x.moving = none → x.moveBy = none → exec (.moveAbort l) s = .next s ∧ exec (.moveDone l) s = .next s)
    ∧ (∀ last, x.moving = none → x.moveBy = some last → ∃ v t, exec (.moveAbort l) s = .next t ∧ Reported v t 29 x.region 0
      ∧ LaunchIs { s with agenda := v.agenda } v l { x with moveBy := none }
      ∧ ∀ d, d ∈ v.agenda ↔ d ∈ s.agenda ∧ ∀ i j, d.act ≠ .inl (.move l i j))
    ∧ (x.moving = some (cc, cr) →
    (∃ v t, exec (.moveAbort l) s = .next t ∧ Reported v t 29 x.region 0
      ∧ v = { s with slots := v.slots, launches := v.launches, clusters := v.clusters, agenda := v.agenda, frozen := v.frozen }
      ∧ v.launch l = { x with moving := none, moveBy := none } ∧ (∀ j, j ≠ l → v.launch j = s.launch j)
      ∧ (∀ k ∈ s.slotKeys l, v.slot k = { s.slot k with moved := false }) ∧ (∀ k, k ∉ s.slotKeys l → v.slot k = s.slot k)
      ∧ (∀ cl ∈ new, v.cluster cl = { s.cluster cl with launch := none, saggar := 0xFFF, armed := false })
      ∧ ∀ cl, cl ∉ new → v.cluster cl = s.cluster cl)
    ∧ ((∃ f ∈ s.flights, f.launch = l) → exec (.moveDone l) s = .next s)
    ∧ ((∀ f ∈ s.flights, f.launch ≠ l) → (∀ cl ∈ new, cl ∉ old) → cc + c.pcol ≤ 7 → x.cc0 + c.pcol ≤ 7 → ∃ t, exec (.moveDone l) s = .next t ∧ t.mem = s.mem
      ∧ t.launch l = { x with cc0 := cc, cr0 := cr, moving := none, watches := (t.launch l).watches } ∧ (∀ j, j ≠ l → t.launch j = s.launch j)
      ∧ (∀ k ∈ s.slotKeys l, (t.slot k).moved = false)
      ∧ ∀ p < c.pcol * c.prow, let m := clusterAt x.region (x.cc0 + p % c.pcol) (x.cr0 + p / c.pcol)
        let n := clusterAt x.region (cc + p % c.pcol) (cr + p / c.pcol)
        (t.cluster m).launch = none ∧ (t.cluster m).seams = 0 ∧ (t.cluster n).launch = (s.cluster m).launch
          ∧ (t.cluster n).tiles = (s.cluster m).tiles ∧ (t.cluster n).seams = (s.cluster m).seams
          ∧ ∀ e < 16, t.elem (16 * n + e) = { s.elem (16 * m + e) with bank := (t.elem (16 * n + e)).bank }
            ∧ ((∀ r ∈ c.rels, r.sect ≠ 9) → t.elem (16 * n + e) = s.elem (16 * m + e)))))
  ∧ (∀ (sensed total l : Nat) (s : State), (s.cycle + 1) % 200000 = 0 → s.drawing = [l] →
    let x := s.launch l
    let m := if s.counted = 0 then 0 else (x.drawn * sensed + s.counted - 1) / s.counted
    let excess := if total ≤ s.budget then 0 else min 15 ((16 * (total - s.budget) + total - 1) / total)
    let warned : Prop := s.budget < total ∧ ∀ k ∈ s.slotKeys l, (s.slot k).gate ≠ 0
    ∃ v t, exec (.kilnReconcile sensed total) s = .next t ∧ (warned → Reported s v 121 0 0) ∧ (¬ warned → v = s)
      ∧ t = { v with slots := t.slots, launches := t.launches, kilnWindow := t.kilnWindow, counted := 0 }
      ∧ t.launch l = { x with energy := x.energy + m, windows := x.windows + 1, drawn := 0 }
      ∧ (∀ j, j ≠ l → t.launch j = s.launch j)
      ∧ (∀ k ∈ s.slotKeys l, t.slot k = { s.slot k with gate := max (heldTurns m x.res) excess })
      ∧ (∀ k, k ∉ s.slotKeys l → t.slot k = s.slot k)
      ∧ t.kilnWindow = BitVec.ofNat 32 (s.kilnWindow.toNat / 2 ^ 32 + 1) ++ BitVec.ofNat 32 (min (2 ^ 20 - 1) total))
  ∧ (∀ (sensed total : Nat) (s : State), (s.cycle + 1) % 200000 ≠ 0 → exec (.kilnReconcile sensed total) s = .next s)
  ∧ ∀ (v : BitVec 32) (s : State), exec (.kilnBudgetWrite v) s
      = .next { s with kilnBudget := BitVec.ofNat 20 (min 380000 (v.toNat % 2 ^ 20)) }

/-- R128 to R131, R325: the end of a phase image's load, the commit at M − 256, a cancel between commit and switch, the
switch at M and the release of the old plane at M + H. At the switch every slot that has not ended starts the new program
at word 0 with its registers kept, and at the release what is still in flight is `PLANE_DRAIN` (28). A cancelled image's copy
stays in its store (R343). -/
def Obligations.MilestonesSwitchPlanes : Prop :=
  ∀ (l : Nat) (s : State),
    let x := s.launch l
    let c := s.copyOf l
    let others (t : State) : Prop := ∀ j, j ≠ l → t.launch j = s.launch j
    let mine (d : Load) : Prop := s.loads.find? (fun d => x.mload == some d.id) = some d
    (∀ cfg d, mine d → mState x.mstat = 1 → s.imageAt (saggarOf x) d.va.toNat = none → ∃ t, exec (.mloadDone l cfg) s = .next t
      ∧ t = { s with launches := t.launches, regions := t.regions, loads := t.loads, reports := t.reports } ∧ others t
      ∧ (t.launch l).shadow = none ∧ (t.launch l).mload = none ∧ mState (t.launch l).mstat = 3 ∧ mCause (t.launch l).mstat = 13)
    ∧ (∀ (cfg : Option Nat) (d : Load) (b : List Byte) (gen : Nat) (u : State), mine d → mState x.mstat = 1 →
      s.imageAt (saggarOf x) d.va.toNat = some b → sameShape (objOf b) c = true →
      s.kilnReserved - x.res + reservation (objOf b).epi (objOf b).pages (objOf b).kernels + s.kilnBase.toNat ≤ s.budget →
      s.loadInto (objOf b) x.region (BitVec.ofNat 128 (objOf b).ident) (saggarOf x) cfg none = .ok (some (u, gen)) →
      relFits x (u.copy x.region gen) = true →
      ∃ t, exec (.mloadDone l cfg) s = .next t ∧ others t ∧ t.mem = s.mem
        ∧ (t.launch l).shadow = some gen ∧ (t.launch l).mload = none ∧ mState (t.launch l).mstat = 2)
    ∧ (mPend x.mstat = true → x.committed = false → x.milestone.toNat = s.cycle + 256 →
      (mState x.mstat = 2 → x.halted = false → ∃ t, exec (.milestoneCommit l) s = .next t
        ∧ LaunchIs (later s x.milestone.toNat 6 (some x.region) (.inl (.milestoneSwitch l))) t l
            { x with committed := true, stretch := (s.region x.region).winstretch.toNat })
      ∧ (mState x.mstat ≠ 2 → ∃ v t, exec (.milestoneCommit l) s = .next t
        ∧ Reported v t 93 x.region (v.launch l).mstat.toNat ∧ LaunchIs s v l { x with mstat := (v.launch l).mstat }
        ∧ mBits (v.launch l).mstat = (2, false, mState x.mstat)))
    ∧ (mPend x.mstat = true → x.committed = true → s.cycle + 8 ≤ x.milestone.toNat → ∀ page,
      ∃ t, exec (.milestoneCancel l page) s = .next t ∧ others t ∧ t.logCnt = s.logCnt + 1 ∧ t.mem = s.mem ∧ t.regions = s.regions
        ∧ (t.launch l).committed = false ∧ (t.launch l).shadow = none ∧ (t.launch l).gen = x.gen
        ∧ mBits (t.launch l).mstat = (2, false, 3) ∧ mCause (t.launch l).mstat = 12)
    ∧ (∀ g, mPend x.mstat = true → x.committed = true → x.milestone.toNat = s.cycle → x.shadow = some g → x.halted = false →
      ∃ t, exec (.milestoneSwitch l) s = .next t ∧ others t ∧ t.mem = s.mem
        ∧ (t.launch l).gen = g ∧ (t.launch l).oldGen = some c.gen ∧ (t.launch l).shadow = none
        ∧ (t.launch l).committed = false ∧ mBits (t.launch l).mstat = (1, false, 0)
        ∧ t.kilnReserved = s.kilnReserved - x.res + (s.copy x.region g).reserved
        ∧ (∀ k ∈ s.slotKeys l, (s.slot k).ended = false → (t.slot k).pc = 0 ∧ (t.slot k).tvec = 0 ∧ (t.slot k).wait = .none
          ∧ (t.slot k).following = [] ∧ (t.slot k).a = (s.slot k).a ∧ (t.slot k).k = (s.slot k).k
          ∧ (t.slot k).fmt = (s.slot k).fmt ∧ (t.slot k).ctr2 = (s.slot k).ctr2 ∧ (t.slot k).rb = (s.slot k).rb
          ∧ inHandler (t.slot k) = false)
        ∧ (∀ k, k ∉ s.slotKeys l → t.slot k = s.slot k)
        ∧ dueOf (s.cycle + (27 + 8 * c.fmax + Config.longestRoute (c.gen * 48 + x.region) + 8 * (c.wmax + x.stretch))) 6
            (some x.region) (.inl (.planeRelease l)) ∈ t.agenda)
    ∧ (∀ g, x.oldGen = some g →
      (s.planeBusy l g = false → ∃ t, exec (.planeRelease l) s = .next t
        ∧ LaunchIs { s with regions := t.regions } t l { x with oldGen := none } ∧ (∀ j, j ≠ x.region → t.region j = s.region j)
        ∧ t.region x.region = if g ∈ t.refs x.region then s.region x.region
            else { s.region x.region with copies := (s.region x.region).copies.map fun d =>
              if d.gen = g ∧ d.pins ≠ [] then { d with pins := [], bindable := false } else d })
      ∧ (s.planeBusy l g = true → ∃ t, exec (.planeRelease l) s = .next t
        ∧ ((∀ k ∈ s.slotKeys l, (s.slot k).bound = true ∧ (s.slot k).ended = false) → (t.launch l).oldGen = none
          ∧ ∀ k ∈ s.slotKeys l, Raises t k 28 6)))

/-- R69, R340 to R345: a launch whose slots have ended and whose beats, windows, accesses and updates are done retires: its pages
take the ID 0xFFF, its slots are unbound, its reservation is returned, and the token of R342 goes out where its port
carries it. A launch of no units retires with status 1. An unload makes a copy unbindable, and the copy goes once nothing
refers to it; GEN written while it waits changes nothing of that. -/
def Obligations.RetirementReturnsEverything : Prop :=
  (∀ (l : Nat) (s : State), let x := s.launch l
    (s.mayRetire l = true → ∃ t, exec (.launchRetire l) s = .next t ∧ t.mem = s.mem
      ∧ (∀ j, j ≠ l → t.launch j = s.launch j) ∧ (t.launch l).stage = .retired
      ∧ t.kilnReserved = s.kilnReserved - x.res ∧ (∀ a ∈ t.accs, a.launch ≠ l) ∧ (∀ b ∈ t.beats, b.launch ≠ l)
      ∧ (∀ j ∈ t.joins, j.launch ≠ l) ∧ (t.region x.region).ddaOwner ≠ some l
      ∧ (∀ cl, (s.cluster cl).launch = some l →
          t.cluster cl = { s.cluster cl with launch := none, saggar := 0xFFF, armed := false, seams := 0 })
      ∧ (∀ cl, (s.cluster cl).launch ≠ some l → t.cluster cl = s.cluster cl)
      ∧ (∀ k ∈ s.slotKeys l, (t.slot k).bound = false ∧ (t.slot k).wait = .none ∧ (t.slot k).raised = [])
      ∧ (∀ k, k ∉ s.slotKeys l → t.slot k = s.slot k)
      ∧ (portCarries s x.cplva → t.outbox = (x.cplva, leBytes (completionToken (t.launch l) s.cycle).toNat 64) :: s.outbox)
      ∧ (¬ portCarries s x.cplva → t.outbox = s.outbox ∧ s.logCnt ≠ t.logCnt))
    ∧ (s.mayRetireEmpty l = true → ∃ t, exec (.launchRetire l) s = .next t
      ∧ t = { s with launches := t.launches, ports := t.ports, outbox := t.outbox, log := t.log, logCnt := t.logCnt }
      ∧ t.launch l = { x with stage := .retired, status := 1, load := none } ∧ (∀ j, j ≠ l → t.launch j = s.launch j)
      ∧ l ∉ (t.port x.port).queue
      ∧ (portCarries s x.cplva → t.outbox = (x.cplva, leBytes (completionToken (t.launch l) s.cycle).toNat 64) :: s.outbox)))
  ∧ ∀ (r : Nat) (v : BitVec 64) (s : State), let g := s.region r
    let gen := v.toNat % 2 ^ 32
    let st (w : Word) : Nat := w.toNat / 2 ^ 61 % 4
    (v.toNat / 2 ^ 63 = 1 → st g.unload ≠ 1 → (∃ c ∈ g.copies, c.gen = gen) → ∃ t, exec (.unloadGo r v) s = .next t
      ∧ RegionIs s t r { g with unload := BitVec.ofNat 64 (2 ^ 61 + gen), unloadOf := gen,
                                copies := g.copies.map fun c => if c.gen = gen then { c with bindable := false } else c })
    ∧ (v.toNat / 2 ^ 63 = 1 → st g.unload ≠ 1 → (∀ c ∈ g.copies, c.gen ≠ gen) → ∃ t, exec (.unloadGo r v) s = .next t
      ∧ RegionIs s t r { g with unload := BitVec.ofNat 64 (3 * 2 ^ 61 + gen) })
    ∧ (v.toNat / 2 ^ 63 = 1 → st g.unload = 1 → exec (.unloadGo r v) s = .next s)
    ∧ (v.toNat / 2 ^ 63 = 0 → ∃ t, exec (.unloadGo r v) s = .next t ∧ RegionIs s t r { g with unload := (t.region r).unload }
      ∧ (t.region r).unload.toNat = g.unload.toNat / 2 ^ 32 * 2 ^ 32 + gen)
    ∧ (st g.unload = 1 → g.unloadOf ∉ s.refs r → ∃ t, exec (.copyRelease r) s = .next t
      ∧ RegionIs s t r { g with copies := g.copies.filter (·.gen != g.unloadOf), unload := (t.region r).unload }
      ∧ st (t.region r).unload = 2 ∧ (t.region r).unload.toNat % 2 ^ 32 = g.unload.toNat % 2 ^ 32)
    ∧ ((st g.unload ≠ 1 ∨ g.unloadOf ∈ s.refs r) → exec (.copyRelease r) s = .next s)

/-! ## Events: accesses, windows and traffic -/

/-- R224, R227, R234 to R239, R272, R273: an access whose turn it is performs at its node, granule by granule as their banks
serve them (an atomic whole); what they do not serve tries again on the next cycle. A fill takes its granules' stamps, where
its line still holds their tags, and the words of memory; a synchronising load takes the words whose full/empty bit is set; a
stamp that refuses is recorded, or is `ALIAS_UNDECL` (34) against a store's slot, whose tag is then refused until a check of
the line passes: a write-back under it performs nothing. A write-back or replica writes exactly its bytes; an atomic writes
each lane's new word and answers the old one. What performs is noted, to be taken back (R306). How banks serve is the model's
reading, log entry 67. -/
def Obligations.AccessesPerformAtTheirNodes : Prop :=
  (∀ (a : Access) (s : State), s.acc a.id = some a → s.mayPerform a = true → s.ecc = [] → s.memOldAt ≠ s.cycle →
    let on := (s.partsAt a a.lines).1
    let v := (s.partsAt a a.lines).2
    let ok (st : Stamp) : Bool := stampOk (s.copy (elemRegion a.elem) a.gen).sites a st
    let free : Prop := ∀ g ∈ a.granules, ∀ st, (g, st) ∈ s.stamps → ok st = true
    let refusedBy (g : Nat) (st : Stamp) : Prop := g ∈ a.granules ∧ s.stamps.find? (·.1 == g) = some (g, st) ∧ ok st = false
    let refused : Prop := ∃ g st, refusedBy g st
    let takes (t : State) : Prop := (∀ g d, look d t.stamps g =
        if g ∈ a.granules then (if s.holdsTag a g then { launch := a.launch, site := a.site, w := a.store } else d)
        else look d s.stamps g)
      ∧ ∀ x, x ∈ t.refused ↔ x ∈ s.refused ∧ ¬ (x.launch = a.launch ∧ x.elem = a.elem ∧ x.site = a.site ∧ x.line = a.line)
    let gets (i : Instr) (done : State → Prop) : Prop := ∃ t, exec i s = .next (if on = a.lines then t
        else later t (s.cycle + 1) 101 none (.inl i)) ∧ (on = [] → t = v) ∧ (on ≠ [] → done t)
    let here (i : Nat) : Prop := i < a.len / 4 ∧ a.addr / 64 + i / 16 ∈ on
    let rest : Map Byte := a.bytes.filter fun b => !on.contains (b.1 / 64)
    let wrote (t : State) : Prop := t = { v with mem := t.mem, memOld := t.memOld, memOldAt := s.cycle, accs := t.accs, undo := t.undo }
      ∧ MemWrites s t (a.bytes.filter fun b => on.contains (b.1 / 64))
      ∧ t.acc a.id = (if rest = [] then none else some { a with bytes := rest }) ∧ ∀ x, x.id ≠ a.id → (x ∈ t.accs ↔ x ∈ s.accs)
    let served (v : State) : Prop := v = { s with slices := v.slices }
      ∧ ∀ n, v.slice n = { s.slice n with bankAt := (v.slice n).bankAt, waits := (v.slice n).waits, atomAt := (v.slice n).atomAt }
    served v ∧ (∀ g ∈ on, g ∈ a.lines)
    ∧ (a.kind = .read → a.lines ≠ [] → a.reply = [] → free → gets (.sliceFillRead a.id) fun t =>
      ∃ c, t = { v with accs := t.accs, stamps := t.stamps, refused := t.refused, undo := t.undo } ∧ takes t
      ∧ t.acc a.id = some c ∧ c = { a with st := c.st, reply := c.reply }
      ∧ (∀ i, here i → look 0 c.reply i = memWord s (a.addr + 4 * i)) ∧ (∀ i, c.reply.any (·.1 == i) = true ↔ here i)
      ∧ (c.st = .performed ↔ ∀ i < a.len / 4, here i))
    ∧ (a.kind = .sync → a.lines ≠ [] → a.reply = [] → free → gets (.sliceFillRead a.id) fun t =>
      ∃ c, t = { v with accs := t.accs, stamps := t.stamps, refused := t.refused, undo := t.undo } ∧ takes t
      ∧ t.acc a.id = some c ∧ c = { a with st := c.st, reply := c.reply }
      ∧ (∀ i, c.reply.any (·.1 == i) = true ↔ here i ∧ s.feAt (a.addr + 4 * i) = true)
      ∧ (∀ i, here i → s.feAt (a.addr + 4 * i) = true → look 0 c.reply i = memWord s (a.addr + 4 * i))
      ∧ (c.st = .performed ↔ ∀ i < a.len / 4, here i ∧ s.feAt (a.addr + 4 * i) = true))
    ∧ ((a.kind = .read ∨ a.kind = .sync) → a.lines ≠ [] → a.reply = [] → refused → gets (.sliceFillRead a.id) fun t =>
      ∃ g st, refusedBy g st ∧ t = { v with accs := t.accs, undo := t.undo }
      ∧ t.acc a.id = some { a with st := .performed, stamped := some (st.site, sliceOf (64 * g)) })
    ∧ (a.kind = .check → free → ∃ t, exec (.stampCheck a.id) s = .next t ∧ takes t
      ∧ t = { s with accs := s.accs.filter (·.id != a.id), stamps := t.stamps, refused := t.refused, undo := t.undo })
    ∧ (a.kind = .check → refused → (s.slot a.slot).bound = true → (s.slot a.slot).ended = false →
      ∃ t, exec (.stampCheck a.id) s = .next t ∧ Raises t a.slot 34 3 ∧ t.mem = s.mem ∧ (∀ x ∈ t.accs, x.id ≠ a.id)
        ∧ t.refused = { launch := a.launch, elem := a.elem, site := a.site, line := a.line, addr := a.addr, len := a.len } :: s.refused)
    ∧ ((a.bytes.map (·.1)).Nodup → a.bytes ≠ [] →
      (a.kind = .wback → s.tagRefused a = false → gets (.writeBackPerform a.id) wrote)
      ∧ (a.kind = .wback → s.tagRefused a = true → gets (.writeBackPerform a.id) fun t =>
        t = { v with accs := s.accs.filter (·.id != a.id), undo := t.undo })
      ∧ (a.kind = .replica → gets (.mcastReplica a.id) wrote))
    ∧ (a.kind = .atom → s.atomTurn a = true → (a.ops.map (·.1)).Nodup →
      let b := (s.atomCome a).atBanks a.cls (.acc a.id (a.addr / 64)) a.order (bankNodes a.lines)
      served b.2 ∧ (b.1 = false → exec (.atomicPerform a.id) s = .next (later b.2 (s.cycle + 1) 101 none (.inl (.atomicPerform a.id))))
      ∧ (b.1 = true → ∃ t r, exec (.atomicPerform a.id) s = .next t
        ∧ t = { b.2 with mem := t.mem, memOld := t.memOld, memOldAt := t.memOldAt, accs := t.accs, undo := t.undo }
        ∧ t.acc a.id = some { a with st := .performed, reply := r }
        ∧ (∀ o ∈ a.ops, let p := a.addr + 4 * o.1
            look 0 r o.1 = memWord s p
              ∧ memWord t p = atomNew a.op { rnd := a.rnd, sat := a.sat } (memWord s p) o.2.1 o.2.2)
        ∧ ∀ p, (∀ o ∈ a.ops, p < a.addr + 4 * o.1 ∨ a.addr + 4 * o.1 + 4 ≤ p) → memByte t.mem p = memByte s.mem p)))
  ∧ (∀ (cls order : Nat) (who : BankUser) (n : Nat) (bs : List Nat) (s : State), let x := s.slice n
    let e := x.slots.toNat / 4 ^ (s.cycle % 16) % 4
    let ahead (v : BankWait) : Prop := v ∈ x.waits ∧ s.stillWaits v = true ∧ ∃ b ∈ bs, b ∈ v.banks
    (∀ v ∈ x.waits, v.who ≠ who) →
    ((s.atBanks cls who order [(n, bs)]).1 = true ↔ (∀ b ∈ bs, look (s.cycle + 1) x.bankAt b ≠ s.cycle)
      ∧ (∀ v, ahead v → v.cls ≠ cls) ∧ (e = cls ∨ (e = 3 ∧ ∀ v, ahead v → cls ≤ v.cls))))
  ∧ ∀ (n : Nat) (s : State),
    let first := s.accs.find? fun a => a.elem == n && a.kind == .wback && a.st == .queued && decide (a.notBefore ≤ s.cycle)
    (first = none → exec (.writeBackRead n) s = .next s)
    ∧ ∀ a, first = some a → (∀ x ∈ s.accs, x.elem = n → (s.launch x.launch).halted = false) →
      let h := shareOf (accSite s a) n
      let e := s.elem n
      (s.bankFree n false = false →
        exec (.writeBackRead n) s = .next (later s (s.cycle + 1) 101 (some (elemRegion n)) (.inl (.writeBackRead n))))
      ∧ (s.bankFree n false = true → (e.lineTags a.site a.line).map (·.2) = lineTagsAt h a.addr →
        e.dirtyOf h a.site a.line ≠ [] → 4 * h.lw * (a.line + 1) ≤ 65536 → ∃ t x, exec (.writeBackRead n) s = .next t
        ∧ ElemIs { s with accs := t.accs, undo := t.undo } t n x ∧ x = { e with otherUse := some s.cycle, dirty := x.dirty }
        ∧ x.dirtyOf h a.site a.line = []
        ∧ t.acc a.id = some { a with st := .sent, bytes := (e.dirtyOf h a.site a.line).map fun b => (a.addr + b.1, b.2) })

/-- R141, R142, R224, R235, R236, R279, R281, R332: a reply reaches its landing entry, or is dropped and counted at a shut
cluster; a window opened before the fence is then an orphan. A window closes with all its data: a fill's line stands in the
bank, bytes stored since kept, and the enabled lanes of its register take the words; an atomic's register takes the old words.
With data missing it closes dry, and its cause is `SCHED_MISS` (16) at point C, or `ORPHAN` (98) of an orphan or at a fenced
cluster; so it is with a stamp that refused it (34), uncorrectable memory (36) or an uncorrectable full/empty bit (87). The
first miss is recorded, and its late data end PEND with SHORT. A waymark acknowledged leaves the set, with its path unless it
was used since, and carries the failures ahead of it. -/
def Obligations.WindowsCloseOnTime : Prop :=
  (∀ (a : Access) (s : State), s.acc a.id = some a → a.st = .performed →
    let e := s.elem a.elem
    let w : Landing := look {} e.landing a.entry
    let gone : State := { s with accs := s.accs.filter (·.id != a.id) }
    let mine : Prop := w.isOpen = true ∧ w.acc = a.win
    let open_ : Prop := ∀ c, (s.cluster c).shut = false
    (open_ → mine → ∃ t, exec (.windowDataArrival a.id) s = .next t
      ∧ ElemIs gone t a.elem (e.lands a.entry { w with
          data := putAll w.data (a.reply.map fun x => (x.1, Lane.clean x.2)), ecc := w.ecc || a.ecc, fe := w.fe || a.fe
          stamped := if w.stamped = none then a.stamped else w.stamped }))
    ∧ (open_ → ¬ mine → ∃ t x, exec (.windowDataArrival a.id) s = .next t ∧ SlotIs gone t a.slot x
      ∧ x = { s.slot a.slot with late := x.late, winmiss := x.winmiss }
      ∧ ∀ l, (s.slot a.slot).late = some l → (s.launch (s.slot a.slot).launch).halted = false →
        let settles : Prop := l.win = a.win ∧ l.left = 0 ∧ ∀ b ∈ s.accs, b.win = a.win → b.id = a.id
        (settles → x.late = none ∧ x.winmiss.getLsbD 22 = false
          ∧ x.winmiss.toNat / 2 ^ 10 % 2 ^ 12 = min 4095 ((s.cycle - l.close + 7) / 8))
        ∧ (¬ settles → x = s.slot a.slot))
    ∧ ((s.cluster (a.elem / 16)).shut = true → mine → ∃ t o d, exec (.windowDataArrival a.id) s = .next t
      ∧ ElemIs { gone with clusters := t.clusters } t a.elem (e.lands a.entry { w with lost := true, orphan := o })
      ∧ (o = true ↔ w.orphan = true ∨ ∀ tf, (s.cluster (a.elem / 16)).fencedAt = some tf → w.edge + elemCol a.elem < tf)
      ∧ (∀ c, t.cluster c = if c = a.elem / 16 then { s.cluster c with fence1 := (t.cluster c).fence1 } else s.cluster c)
      ∧ d < 4 ∧ ∀ i < 4, fDrops (t.cluster (a.elem / 16)).fence1 i
          = if i = d then min 65535 (fDrops (s.cluster (a.elem / 16)).fence1 i + 1) else fDrops (s.cluster (a.elem / 16)).fence1 i))
  ∧ (∀ (n : Nat) (j : Fin 4) (s : State),
    let e := s.elem n
    let w : Landing := look {} e.landing j.val
    let h := shareOf (look {} (s.copy (elemRegion n) w.gen).sites w.site) n
    let missing : Prop := w.lost = true ∨ (∃ a ∈ s.accs, a.win = w.acc ∧ a.elem = n) ∨ (w.atomic = true ∧ 8 * w.beats < w.width)
    let all : Prop := w.orphan = false ∧ ¬ missing ∧ w.stamped = none ∧ w.ecc = false ∧ w.fe = false
    let byte (i : Nat) : Byte := if look false e.dirty (dirtyKey w.site (4 * h.lw * w.line + i)) then bankByte e (h.off + (4 * h.lw * w.line + i))
      else (look ({} : Lane) w.data (i / 4)).v.extractLsb' (8 * (i % 4)) 8
    let word (i : Nat) : LaneWord := byte (4 * i + 3) ++ byte (4 * i + 2) ++ byte (4 * i + 1) ++ byte (4 * i)
    let closed (t : State) : Prop := (look ({} : Landing) (t.elem n).landing j.val).isOpen = false
    let takes (t : State) (i : Nat) (v : Lane) : Prop := look {} (t.elem n).regs (regKey (w.slot % 8) w.reg i) = v
    let unwritten : Prop := ∀ x ∈ e.wrote, x.2.2 ≠ s.cycle
    let raises (num : Nat) (v : State) : Prop := ∃ t, exec (.windowClose n j) s = .next t
      ∧ t = { v.raiseNow w.slot { num := num, kind := 2, row := elemRow n, col := elemCol n, line := w.sline } with undo := t.undo }
      ∧ closed v ∧ (v.elem n).regs = e.regs ∧ (v.elem n).bank = e.bank ∧ v.mem = s.mem
    ((w.isOpen = false ∨ s.cycle < w.close) → exec (.windowClose n j) s = .next s)
    ∧ (w.isOpen = true → w.close ≤ s.cycle → (s.launch w.launch).terminated = false →
      (all → s.ecc = [] → w.atomic = false → w.code < 48 → unwritten →
        ∃ t, exec (.windowClose n j) s = .next t ∧ ElemIs { s with undo := t.undo } t n (t.elem n) ∧ closed t
          ∧ (∀ i < 4 * h.lw, bankByte (t.elem n) (h.off + (4 * h.lw * w.line + i)) = byte i)
          ∧ (∀ a, (a < h.off + 4 * h.lw * w.line ∨ h.off + 4 * h.lw * (w.line + 1) ≤ a) → bankByte (t.elem n) a = bankByte e a)
          ∧ ∀ i < w.width, i < h.lw → i < 64 → w.mask.getLsbD i = true → takes t i (Lane.clean (word i)))
      ∧ (all → s.ecc = [] → w.atomic = true → w.code < 48 → unwritten →
        ∃ t, exec (.windowClose n j) s = .next t ∧ ElemIs { s with undo := t.undo } t n (t.elem n) ∧ closed t ∧ (t.elem n).bank = e.bank
          ∧ ∀ i < w.width, i < 64 → w.mask.getLsbD i = true → w.data.any (·.1 == i) = true → takes t i (look {} w.data i))
      ∧ (w.orphan = false → missing → (s.cluster (n / 16)).shut = false → ∃ v, raises 16 v
        ∧ ((s.slot w.slot).winmiss.getLsbD 0 = false → (v.slot w.slot).winmiss.getLsbD 0 = true
          ∧ (v.slot w.slot).winmiss.getLsbD 22 = true
          ∧ (v.slot w.slot).late = some { win := w.acc, close := w.close, elem := n, word := w.word
                                          left := if w.atomic then (w.width + 7) / 8 - w.beats else 0 }))
      ∧ ((w.orphan = true ∨ (missing ∧ (s.cluster (n / 16)).shut = true)) → ∃ v, raises 98 v)
      ∧ (w.orphan = false → ¬ missing → w.stamped ≠ none → ∃ v, raises 34 v)
      ∧ (w.orphan = false → ¬ missing → w.stamped = none → w.ecc = true → ∃ v, raises 36 v)
      ∧ (w.orphan = false → ¬ missing → w.stamped = none → w.ecc = false → w.fe = true → ∃ v, raises 87 v)))
  ∧ ∀ (key e sl scope since : Nat) (s : State), (s.slot key).wait = .fence scope since →
    let p := 256 * e + sl
    let x := s.slot key
    let ahead (f : Nat × Nat) : Bool := f.1 == p && decide (f.2 < since)
    (s.mayAck key e sl = true → ∃ t, exec (.waymarkAck key e sl) s = .next t ∧ SlotIs s t key { x with
      wayErr := x.wayErr || x.failed.any ahead, failed := x.failed.filter fun f => !ahead f
      waymarks := x.waymarks.filter (· != p), paths := x.paths.filter fun y => y.1 != p || decide (since ≤ y.2) })
    ∧ (s.mayAck key e sl = false → exec (.waymarkAck key e sl) s = .next s)

/-- R144, R145, R182, R197 to R201, R226, R313: a scrubber takes the next word of its storage: 3,072 register words, 16,384
tile words or 256 checksum rows, each with the column of its number, in intervals without a step, and 524,288 slice words; it
corrects, marks and reports. A corrected word's write-back takes the register scrubber's cycle. -/
def Obligations.ScrubbersCorrectAndReport : Prop :=
  (∀ (n : Nat) (s : State), (s.elem n).portAt = some s.cycle → exec (.regScrub n) s = .next s)
  ∧ (∀ (n : Nat) (s : State), (s.elem n).portAt ≠ some s.cycle → ∃ v t, exec (.regScrub n) s = .next t
    ∧ ElemIs s v n { s.elem n with scrubAt := ((s.elem n).scrubAt + 1) % 3072 }
    ∧ let at_ := (s.elem n).scrubAt
      (∀ i c, (s.boundRegs n)[at_ / 64]? = some (i, c) → Scrubbed s v t (.reg n (regKey i c (at_ % 64))) true 101 n 0)
      ∧ ((s.boundRegs n)[at_ / 64]? = none → t = v))
  ∧ (∀ (cl : Nat) (s : State), let c := s.cluster cl
    let a : EccAt := .tile cl c.scrubAt
    (s.stepped cl = true → exec (.accScrub cl) s = .next s)
    ∧ (s.stepped cl = false → c.accprot = false → ∃ v t, exec (.accScrub cl) s = .next t
      ∧ ClusterIs s v cl { c with scrubAt := (c.scrubAt + 1) % 16384
                                  accerr := if s.eccAt a = some .single then corrUp c.accerr else c.accerr }
      ∧ Scrubbed s v t a true 102 cl c.accerr.toNat)
    ∧ (s.stepped cl = false → c.accprot = true → let z := c.scrubAt % 256 / 64
      let i := c.scrubAt % 64
      let next : Cluster := { c with scrubAt := (c.scrubAt + 1) % 256 }
      let off : Prop := look 0 c.sums (128 * z + i) ≠ 0 ∨ look 0 c.sums (128 * z + 64 + i) ≠ 0
      (¬ off → ∃ t, exec (.accScrub cl) s = .next t ∧ ClusterIs s t cl next)
      ∧ (off → ¬ SumsBad c z → ∃ t x, exec (.accScrub cl) s = .next t ∧ ClusterIs s t cl x
        ∧ x = { next with tiles := x.tiles, sums := x.sums, accerr := corrUp c.accerr } ∧ sumsOff x z 0 = [] ∧ sumsOff x z 1 = []
        ∧ ∀ y r j, y < 4 → r < 64 → j < 64 → x.word y r j = if y = z ∧ r ∈ sumsOff c z 0 ∧ j ∈ sumsOff c z 1
            then { c.word y r j with v := (c.word y r j).v ^^^ look 0 c.sums (128 * z + r) } else c.word y r j)
      ∧ (off → SumsBad c z → ∃ v t, ClusterIs s v cl next ∧ exec (.accScrub cl) s = .next t
        ∧ Reported v t 102 cl c.accerr.toNat)))
  ∧ (∀ (n : Nat) (s : State), ∃ v t, exec (.sliceScrub n) s = .next t
    ∧ SliceIs s v n { s.slice n with scrubAt := ((s.slice n).scrubAt + 1) % 524288 }
    ∧ Scrubbed s v t (.slice n (s.slice n).scrubAt) false 103 n 0)
  ∧ ∀ (n addr : Nat) (s : State),
    (addr / 2 ^ 36 = n → s.eccBad (.hbm (addr / 64)) = true → ∃ t, exec (.hbmScrubReport n addr) s = .next t ∧ Reported s t 104 n 0)
    ∧ ((addr / 2 ^ 36 ≠ n ∨ s.eccBad (.hbm (addr / 64)) = false) → exec (.hbmScrubReport n addr) s = .next s)

/-- R180 to R182, R186, R189 to R193, R197, R201, R206, R320, R331: an armed cluster's array takes one interval on each cycle: a
bubble where its queue is empty, a replay where one is due, each with a scrub; nothing where its launch is halted. The oldest
queued step, once it is ready, leaves the queue in its interval, the fourth for f16 and bf16; every word of its tile takes the
step's pairs, BUSY counts the interval, and the cursor of its word moves past the lines that it read. A word of a tile after a
step is the exact sum of its value and its products, rounded once, a bf16 product rounded to f32 first; it is poisoned with a
value that it takes, or where the sum overflows. A step at an empty line is `MATRIX_FORM` (49), and one of other scales than
its run's `SCALE_RUN` (50): it and the later steps of its word leave and add nothing. The completion of a joint operation comes
4 cycles after the last of its steps. -/
def Obligations.TheArrayStepsEachInterval : Prop :=
  (∀ (cl : Nat) (s : State), let c := s.cluster cl
    let on : Prop := c.armed = true ∧ c.shut = false
    (¬ on → exec (.matrixStep cl) s = .next s)
    ∧ (on → s.arrayHalted cl = true → exec (.matrixStep cl) s = .next (later s (s.cycle + 1) 30 none (.inl (.matrixStep cl))))
    ∧ (on → s.arrayHalted cl = false → s.joins = [] → s.ecc = [] → (c.accprot = true → c.sums = []) →
      let again : State := later s (s.cycle + 1) 30 none (.inl (.matrixStep cl))
      let scrubbed : Nat := if s.stepped cl then c.scrubAt else (c.scrubAt + 1) % (if c.accprot then 256 else 16384)
      (c.replayDue = false → c.feed = [] → ∃ t, exec (.matrixStep cl) s = .next t
        ∧ ClusterIs again t cl { c with bubbles := bubbleUp c.bubbles, scrubAt := scrubbed })
      ∧ (c.replayDue = true → ∃ t, exec (.matrixStep cl) s = .next t
        ∧ ClusterIs again t cl { c with replayDue := false, scrubAt := scrubbed
                                        bubbles := c.bubbles.extractLsb' 16 48
                                          ++ BitVec.ofNat 16 (min 65535 (c.bubbles.toNat % 65536 + 1)) })))
  ∧ (∀ (cl : Nat) (s : State) (st : FStep) (rest : List FStep) (fw : FWord) (k n : Nat) (f : BForm) (sc : Option ScaleIn),
    let c := s.cluster cl
    c.armed = true → c.shut = false → s.arrayHalted cl = false → s.joins = [] → s.ecc = [] → (c.accprot = true → c.sums = []) →
    c.replayDue = false → c.feed = st :: rest → (∃ r, st.ready = some r ∧ r ≤ s.cycle) →
    c.fwords.find? (·.serial == st.word) = some fw →
    ((n = 0 ∧ c.doing = none) ∨ (0 < n ∧ c.doing = some (.own st.word st.index, n) ∧ st.queuedAt < c.doingAt)) →
    let again : State := later s (s.cycle + 1) 30 none (.inl (.matrixStep cl))
    let sa := sideCodes st.scales
    let sb := match sc with | some x => x.codes | none => List.replicate 64 127
    let agrees : Prop := (c.run st.tile).live = true → (c.run st.tile).sa = sa ∧ (c.run st.tile).sb = sb
    let stops (num : Nat) : Prop := (s.slot st.slot).bound = true → (s.slot st.slot).ended = false →
      ∃ t, exec (.matrixStep cl) s = .next t ∧ Raises t st.slot num 3
        ∧ (t.cluster cl).feed = c.feed.filter (fun x => x.word != st.word) ∧ (t.cluster cl).tiles = c.tiles
    ((c.wline fw.cursor).tag = none → stops 49)
    ∧ (StandsAt c fw.cursor k f → ScalesAre c fw k f sc → (pairedBy st.ty f ≠ some st.pack → stops 49)
      ∧ (pairedBy st.ty f = some st.pack → (¬ agrees → stops 50)
        ∧ (agrees → stepLines f = 2 → n < 3 → ∃ t, exec (.matrixStep cl) s = .next t ∧ ClusterIs { again with undo := t.undo } t cl
          { c with busy := c.busy + 1, stepAt := some s.cycle, doing := some (.own st.word st.index, n + 1)
                   doingAt := if n = 0 then s.cycle else c.doingAt })
        ∧ (agrees → (stepLines f = 1 ∨ n = 3) → ∃ t x, exec (.matrixStep cl) s = .next t ∧ ClusterIs { again with undo := t.undo } t cl x
          ∧ x = { c with tiles := x.tiles, runs := x.runs, drained := x.drained, fwords := x.fwords, busy := c.busy + 1
                         stepAt := some s.cycle, doing := none, feed := rest, taken := put c.taken st.tile s.cycle }
          ∧ (∀ z i j, i < 64 → j < 64 → x.word z i j = if z = st.tile
              then stepWord st.ty (c.word z i j) (stepPairs s cl st (fw.cursor + k) f sc i j) else c.word z i j)
          ∧ (x.run st.tile).live = true ∧ (x.run st.tile).sa = sa ∧ (x.run st.tile).sb = sb
          ∧ ∀ w ∈ x.fwords, w.serial = st.word → w.cursor = fw.cursor + k + stepLines f ∧ w.scale = sc))))
  ∧ (∀ (a : MTy) (z : TileWord) (zn : Bool) (zm : Nat) (ze : Int) (ps : List (Rat × ((Val × Bool) × (Val × Bool)))),
      FF.f32.val z.v.toNat = .fin zn zm ze →
      (∀ p ∈ ps, ∃ xn xm xe yn ym ye, p.2.1.1 = .fin xn xm xe ∧ p.2.2.1 = .fin yn ym ye
        ∧ if a = .bf16 then finiteCode .f32 (fround {} .f32 (mulVal p.2.1.1 p.2.2.1).1).c = some p.1
          else p.1 = ratOf xn xm xe * ratOf yn ym ye) →
      let w := stepWord a z (ps.map (·.2))
      (∃ n m e, w.v = BitVec.ofNat 32 (fround {} .f32 (.fin n m e)).c ∧ ratOf n m e = ratOf zn zm ze + exactSum (ps.map (·.1)))
        ∧ (w.p = true ↔ z.p = true ∨ (∃ p ∈ ps, p.2.1.2 = true ∨ p.2.2.2 = true) ∨ ∃ n, FF.f32.val w.v.toNat = .inf n))
  ∧ (∀ sp c, (∃ n m e, mval .i8 sp c = (.fin n m e, false) ∧ ratOf n m e = num .i8 c)
      ∧ (∃ n m e, mval .n8 sp c = (.fin n m e, false) ∧ ratOf n m e = num .n8 c)
      ∧ (∃ n m e, mval .mxi8 sp c = (.fin n m e, false) ∧ ratOf n m e = (num .i8 c : Rat) / 64)
      ∧ ∀ (b : Fin 7) (k : Nat), 0 < k → k ≤ 8 → ∃ n m e, bval (.bp b) sp k c = (.fin n m e, false)
        ∧ ratOf n m e = (kPlane (num .i8 c) k : Rat) / 64)
  ∧ (∀ (c c' : Cluster) (x : StepIn), c.addStep x = some c' →
      (∀ z i j, z ≠ x.tile → i < 64 → j < 64 → c'.word z i j = c.word z i j) ∧ (c'.run x.tile).live = true
        ∧ (c'.run x.tile).sa = x.sa ∧ (c'.run x.tile).sb = x.sb
        ∧ c' = { c with tiles := c'.tiles, runs := c'.runs, drained := c'.drained })
  ∧ (∀ (c : Cluster) (x : StepIn), (c.run x.tile).live = true → ((c.run x.tile).sa ≠ x.sa ∨ (c.run x.tile).sb ≠ x.sb) →
      c.addStep x = none)
  ∧ (∀ (cl : Nat) (s t : State) (j j' : Join), exec (.matrixStep cl) s = .next t → (s.joins.map (·.id)).Nodup → j ∈ s.joins →
      j' ∈ t.joins → j'.id = j.id → (∃ k ∈ j.taken, k ≠ 2 * j.half) → (∀ k ∈ j'.taken, k = 2 * j.half) →
      (s.launch j.launch).halted = false → dueOf (s.cycle + 4) 15 (some j.region) (.inl (.joinComplete j.id)) ∈ t.agenda)
  ∧ (∀ (id : Nat) (s : State), ∃ t, exec (.joinComplete id) s = .next t ∧ t = { s with joins := t.joins }
      ∧ (∀ j ∈ t.joins, j.id = id → j.done = true ∧ j.stop = true) ∧ ∀ j, j.id ≠ id → (j ∈ t.joins ↔ j ∈ s.joins))
  ∧ ∀ (id : Nat) (s : State),
    ((∀ j ∈ s.joins, j.id = id → j.done = true) → exec (.joinStall id) s = .next s)
    ∧ ∀ j, s.joins.find? (fun j => j.id == id && !j.done) = some j → let k := slotKey j.region j.slot
      (s.slot k).bound = true → (s.slot k).ended = false → ∃ t, exec (.joinStall id) s = .next t
        ∧ SlotIs s t k { s.slot k with raised := (s.slot k).raised ++ [{ num := 27, kind := 3, at_ := s.cycle }] }

/-- R85, R86, R220, R227, R248, R249, R331, R352: counts add up and stop at 2^48 − 1, one cleared on the same cycle excepted;
a channel beat waits in its holding entry, or meets another and is `TIMING_RECV` (19), as it is once its time there runs
out, which stands still while its launch is held for a move; at a wall it is dropped and counted, and the first drop's fields
are kept; at a seam of a fenced cluster it is dropped and counted at its side, up to 65,535; a slot table takes effect when no
launch is armed; a memory window that is enabled changes only EN. That the limit stands still in a move is the model's reading:
log entry 33. -/
def Obligations.CountsChannelsAndTablesAct : Prop :=
  (∀ (u : CountUpd) (s : State), s.upds.find? (fun v => v.id == u.id && decide (v.due ≤ s.cycle)) = some u →
    (u.adds.map (·.1)).Nodup → ∃ t x, exec (.counterUpdate u.id) s = .next t
      ∧ SliceIs { s with upds := s.upds.filter (·.id != u.id), undo := t.undo } t u.slice x ∧ x = { s.slice u.slice with counters := x.counters }
      ∧ (∀ a ∈ u.adds, look 0 x.counters a.1 = if look (s.cycle + 1) (s.slice u.slice).cleared a.1 = s.cycle
          then look 0 (s.slice u.slice).counters a.1
          else BitVec.ofNat 64 (min (2 ^ 48 - 1) ((look 0 (s.slice u.slice).counters a.1).toNat + a.2)))
      ∧ ∀ k, (∀ a ∈ u.adds, a.1 ≠ k) → look 0 x.counters k = look 0 (s.slice u.slice).counters k)
  ∧ (∀ (n b w : Nat) (v : BitVec 64) (s : State),
    (v = 0 → n < 192 → b < 512 → w < 6 → ∃ t x, exec (.expertCounterWrite n b w v) s = .next t ∧ SliceIs s t n x
      ∧ x = { s.slice n with counters := x.counters, cleared := x.cleared }
      ∧ ∀ k, look 0 x.counters k = if k = 8 * b + w then 0 else look 0 (s.slice n).counters k)
    ∧ (v ≠ 0 → exec (.expertCounterWrite n b w v) s = .next s))
  ∧ (∀ (b : ChanBeat) (s : State), s.beats.find? (·.id == b.id) = some b →
    let key := slotKey b.region b.slot
    let taken (t : State) : Prop := (∀ x, x ∈ t.beats ↔ x ∈ s.beats ∧ x.id ≠ b.id) ∧ Raises t key 19 3 ∧ t.mem = s.mem
    let gone : State := { s with beats := s.beats.filter (·.id != b.id) }
    let rival : Prop := ∃ x ∈ s.beats, x.held = true ∧ x.region = b.region ∧ x.launch = b.launch ∧ x.chan = b.chan
    let kept : State := { s with beats := s.beats.map fun (x : ChanBeat) => if x.id = b.id then { x with held := true } else x }
    (b.held = false → (∀ cl ∈ s.clustersOf b.launch, (s.cluster cl).shut = false) → b.wall = none → ¬ rival →
      ((s.launch b.launch).halted = false → (s.launch b.launch).moving = none →
        exec (.channelBeatArrival b.id) s = .next (later kept (s.cycle + 9) 20 (some b.region) (.inl (.recvHoldExpiry b.id))))
      ∧ ((s.launch b.launch).moving ≠ none → exec (.channelBeatArrival b.id) s = .next
        { kept with frozen := s.frozen ++ [dueOf (s.cycle + 9) 20 (some b.region) (.inl (.recvHoldExpiry b.id))] }))
    ∧ (b.held = false → (∀ cl ∈ s.clustersOf b.launch, (s.cluster cl).shut = false) → b.wall = none → rival → (s.slot key).bound = true →
      (s.slot key).ended = false → ∃ t, exec (.channelBeatArrival b.id) s = .next t ∧ taken t)
    ∧ (b.held = false → ∀ cl d, s.beatDropped b = some (cl, d) → ∃ t, exec (.channelBeatArrival b.id) s = .next t
      ∧ ClusterIs gone t cl { s.cluster cl with fence1 := (t.cluster cl).fence1 }
      ∧ ∀ i < 4, fDrops (t.cluster cl).fence1 i = if i = d then min 65535 (fDrops (s.cluster cl).fence1 i + 1)
          else fDrops (s.cluster cl).fence1 i)
    ∧ (b.held = false → (∀ cl ∈ s.clustersOf b.launch, (s.cluster cl).shut = false) → ∀ h n, b.wall = some h →
      clusterAcross (pageCluster (s.launch b.launch) (s.copy b.region b.gen) h.page) h.port.val = some n →
      ∃ t, exec (.channelBeatArrival b.id) s = .next t
        ∧ RegionIs gone t (n / 28) { s.region (n / 28) with wall := (t.region (n / 28)).wall }
        ∧ let old := (s.region (n / 28)).wall.toNat
          let new := (t.region (n / 28)).wall.toNat
          let into := (s.cluster n).saggar
          let own := saggarOf (s.launch b.launch)
          new / 2 ^ 48 = min 65535 (old / 2 ^ 48 + 1)
            ∧ (old / 2 ^ 48 = 0 → new / 2 ^ 47 % 2 = (if into = own then 1 else 0) ∧ new / 2 ^ 42 % 2 ^ 5 = n % 28
                ∧ new / 2 ^ 40 % 4 = (h.port.val + 2) % 4 ∧ new / 2 ^ 34 % 2 ^ 6 = h.track % 64 ∧ new / 2 ^ 30 % 2 ^ 4 = h.tslot % 16
                ∧ new / 2 ^ 18 % 2 ^ 12 = own.toNat ∧ new / 2 ^ 6 % 2 ^ 12 = into.toNat)
            ∧ (old / 2 ^ 48 ≠ 0 → new % 2 ^ 48 = old % 2 ^ 48))
    ∧ (b.held = true → (s.slot key).bound = true → (s.slot key).ended = false →
      ∃ t, exec (.recvHoldExpiry b.id) s = .next t ∧ taken t))
  ∧ (∀ (n : Nat) (s : State), let x := s.slice n
    let armedHere : Prop := ∃ e ∈ s.launches, e.2.region = n / 4 ∧ e.2.armed = true ∧ e.2.stage ≠ .retired
    (∀ w, x.slotsNew = some w → ¬ armedHere → ∃ t, exec (.sliceSlotsApply n) s = .next t
      ∧ SliceIs s t n { x with slots := w, slotsNew := none })
    ∧ ((x.slotsNew = none ∨ armedHere) → exec (.sliceSlotsApply n) s = .next s))
  ∧ ∀ (n : Fin 8) (v : BitVec 64) (s : State), let old := look 0 s.memwin n.val
    let new := v &&& 0x80FFFFFC000007FF
    let en (w : Word) : Bool := w.getLsbD 63
    let base (w : Word) : Nat := w.toNat / 2 ^ 34 % 2 ^ 22 * 2 ^ 30
    let size (w : Word) : Nat := w.toNat % 2 ^ 11 * 2 ^ 30
    let clash : Prop := ∃ i < 8, i ≠ n.val ∧ en (look 0 s.memwin i) = true
      ∧ base new < base (look 0 s.memwin i) + size (look 0 s.memwin i) ∧ base (look 0 s.memwin i) < base new + size new
    (en old = false → en new = true → (0x18000000000 < base new + size new ∨ clash) → exec (.hostMemwinWrite n v) s = .next s)
    ∧ (en old = false → (en new = false ∨ (base new + size new ≤ 0x18000000000 ∧ ¬ clash)) →
      ∃ t, exec (.hostMemwinWrite n v) s = .next t ∧ t = { s with memwin := t.memwin }
        ∧ ∀ j, look 0 t.memwin j = if j = n.val then new else look 0 s.memwin j)
    ∧ (en old = true → ∃ t, exec (.hostMemwinWrite n v) s = .next t ∧ t = { s with memwin := t.memwin }
        ∧ ∀ j, look 0 t.memwin j = if j = n.val then (BitVec.ofBool (en v) ++ old.setWidth 63) else look 0 s.memwin j)

/-- R208, R222, R224, R227, R232, R242 to R247, R295, R313: a unit of a request, once its banks serve it, moves its 64 bytes
between its remote address and home space, whose full/empty bits it sets, or its site's bank, whose granule it tags; its
remote address is the operation's own, and PLANES counts the whole planes that have landed. A unit whose page stands in no
entry of the buffer walks the tables, one entry at a time; a fault or an uncorrectable word hands the request to the
firmware path; a stamp that refuses the unit, and a full watch set, stop the request with ERR and `ALIAS_UNDECL` (34) or
`SLIP_WATCH` (35). The last unit makes the handle full, and its point is signalled; a passed deadline ends a fetch, which its
expert block counts; the firmware path moves what is left, with zeros, full bits, ERR and a report for a unit that fails again; a drained
handle is free; an invalidation drops the entries it names. -/
def Obligations.TransfersLandAndFinish : Prop :=
  (∀ (q : Req) (u : Nat), let row : Int := 64 * ((u / pktLen q.pkt : Nat) : Int) * extStride q.ext + 64 * ((u % pktLen q.pkt : Nat) : Int)
    (pktOp q.pkt = 0 → q.remote u = (pktVa q.pkt + 64 * u) % 2 ^ 64)
    ∧ (pktOp q.pkt = 1 → (q.remote u : Int) = ((pktVa q.pkt : Int) + row) % 2 ^ 64)
    ∧ (pktOp q.pkt = 2 → q.remote u = (pktVa q.pkt + 128 * extCount q.ext + 64 * u) % 2 ^ 64)
    ∧ ∀ l, 2 ≤ q.planes l ∧ q.planes l ≤ extPlanes q.ext + 2
      ∧ ∀ k ≤ extPlanes q.ext, k + 2 ≤ q.planes l ↔ ∀ i < k * extCount q.ext, i ∈ l)
  ∧ (∀ (q : Req) (u : Nat) (e : Tlb) (s : State), s.req q.id = some q → q.st = .running → u < q.units → u ∉ q.done → s.ecc = [] →
    s.memOldAt ≠ s.cycle → pktSpace q.pkt = 0 → q.remote u < 2 ^ 57 →
    (s.slice q.slice).tlb.find? (fun x => x.saggar == q.saggar && x.space == 0
      && decide (x.page ≤ q.remote u / 65536 ∧ q.remote u / 65536 < x.page + x.pages) && (x.w || !pktDir q.pkt)) = some e →
    let a := e.frame + (q.remote u - 65536 * e.page)
    let n := pktHandle q.pkt
    let h := s.handle q.region n
    let q' : Req := { q with done := u :: q.done, landed := if pktOp q.pkt = 2 then q.planes (u :: q.done) else q.landed }
    let again : Due := dueOf (s.cycle + 1) 116 none (.inl (.transferUnitLand q.id u .own))
    let counted (t : State) : Prop := t.handle q.region n = { h with units := h.units + 1, planes := if pktOp q.pkt = 2 then q'.landed else 8 }
      ∧ (∀ j, j ≠ n → t.handle q.region j = s.handle q.region j) ∧ ReqIs s t q'
      ∧ (q.units ≤ q'.done.length → ∃ m : Fin 64, m.val = n % 64 ∧ dueOf s.cycle 120 none (.inl (.handleFull q.region m)) ∈ t.agenda)
    (inHbm a 64 = true ∨ inSlices a 64 = true) →
    (pktSite q.pkt = false →
      let home := homePa q.region (pktLoff q.pkt + 64 * u)
      let b := s.atBanks 1 (.unit q.id u) 0 (bankNodes ((home :: if inSlices a 64 then [a] else []).map (· / 64)))
      let moved (t : State) (to_ from_ : Nat) : Prop := counted t ∧ MemSameBut s t to_ 64
        ∧ ∀ i < 64, memByte t.mem (to_ + i) = memByte s.mem (from_ + i)
      (b.1 = false → exec (.transferUnitLand q.id u .own) s = .next { b.2 with agenda := s.agenda ++ [again] })
      ∧ (b.1 = true → pktDir q.pkt = false → ∃ t, exec (.transferUnitLand q.id u .own) s = .next t ∧ moved t home a
        ∧ ∀ i < 16, t.feAt (home + 4 * i) = true)
      ∧ (b.1 = true → pktDir q.pkt = true → ∃ t, exec (.transferUnitLand q.id u .own) s = .next t ∧ moved t a home)
      ∧ (b.1 = true → ∃ t x, exec (.transferUnitLand q.id u .fails) s = .next t ∧ t.mem = s.mem ∧ t.logCnt = s.logCnt
        ∧ t.req q.id = some x ∧ x.st = .firmware ∧ t.handle q.region n = { h with fw := true }))
    ∧ (pktSite q.pkt = true → a % 64 = 0 →
      let x := s.reqSite q
      let m := q.pkt.toNat / 2 ^ 103 % 256
      let l := s.launch q.launch
      let at_ := siteAt x (pageCluster l (s.copy q.region q.gen) x.page) (64 * (q.pkt.toNat / 2 ^ 87 % 2 ^ 16 + u))
      let el := s.elem at_.1
      let tag := el.tagAt m (shareOf x at_.1).lw at_.2
      let open_ : Prop := s.phase = .finish ∧ s.bankFree at_.1 true = true ∧ s.seqWaits at_.1 = false
      let b := s.atBanks (if inHbm a 64 then 2 else 1) (.unit q.id u) 0 (bankNodes [a / 64])
      let stopped (num : Nat) : Prop := ∃ t, exec (.transferUnitLand q.id u .own) s = .next t ∧ t.mem = s.mem ∧ t.elem at_.1 = el
        ∧ Raises t q.slot num 4 ∧ (t.handle q.region n).err = true ∧ ∃ y, t.req q.id = some y ∧ y.st = .ended ∧ y.done = q.done
      l.stage = .running → (s.cluster (at_.1 / 16)).shut = false → (s.cluster (at_.1 / 16)).launch = some q.launch →
      (s.slot q.slot).launch = q.launch → (s.slot q.slot).bound = true → (s.slot q.slot).ended = false →
      (¬ open_ → exec (.transferUnitLand q.id u .own) s = .next { s with agenda := s.agenda ++ [again] })
      ∧ (open_ → b.1 = false → exec (.transferUnitLand q.id u .own) s = .next { b.2 with agenda := s.agenda ++ [again] })
      ∧ (open_ → b.1 = true → pktDir q.pkt = true → ∃ t, exec (.transferUnitLand q.id u .own) s = .next t ∧ counted t
        ∧ MemSameBut s t a 64 ∧ (∀ i < 64, memByte t.mem (a + i) = bankByte el (256 * x.boff + at_.2 + i))
        ∧ t.elem at_.1 = { el with otherUse := some s.cycle })
      ∧ (open_ → b.1 = true → pktDir q.pkt = false →
        let refuses (st : Stamp) : Prop := st.launch = q.launch ∧ st.site ≠ m ∧ (st.w = true ∨ x.store = true)
          ∧ ¬ (x.slip ≠ 0 ∧ (look {} (s.copy (elemRegion at_.1) q.gen).sites st.site).slip = (look {} (s.copy (elemRegion at_.1) q.gen).sites m).slip)
        let old := s.stamps.find? (·.1 == a / 64)
        (∀ k st, old = some (k, st) → elemRegion at_.1 = q.region → refuses st → stopped 34)
        ∧ (elemRegion at_.1 = q.region → (∀ k st, old = some (k, st) → ¬ refuses st) → x.slip ≠ 0 → tag = none →
            32 ≤ (look [] l.watches x.slip).length → (∀ w ∈ look [] l.watches x.slip, w.tag ≠ { space := 0, off := a }) → stopped 35)
        ∧ (elemRegion at_.1 = q.region → (∀ k st, old = some (k, st) → ¬ refuses st) → x.slip = 0 → (∀ g, tag = some g → g.off % 64 = 0) →
          ∃ t y, exec (.transferUnitLand q.id u .own) s = .next t ∧ counted t ∧ t.mem = s.mem
            ∧ t.elem at_.1 = y ∧ y = { el with bank := y.bank, tags := y.tags, otherUse := some s.cycle }
            ∧ (∀ i < 64, bankByte y (256 * x.boff + at_.2 + i) = memByte s.mem (a + i))
            ∧ (∀ i, (i < 256 * x.boff + at_.2 ∨ 256 * x.boff + at_.2 + 64 ≤ i) → bankByte y i = bankByte el i)
            ∧ y.tagAt m (shareOf x at_.1).lw at_.2 = some { space := 0, off := a }
            ∧ (∀ j, j ≠ at_.1 → t.elem j = s.elem j)
            ∧ t.stamps.find? (·.1 == a / 64) = some (a / 64, { launch := q.launch, site := m, w := x.store })))))
  ∧ (∀ (q : Req) (u k : Nat) (l : Nat × Level) (tbl : Nat) (w : Bool) (s : State), s.req q.id = some q → q.st = .running → u < q.units →
    u ∉ q.done → pktSpace q.pkt = 0 → q.remote u < 2 ^ 57 →
    (∀ e ∈ (s.slice q.slice).tlb, ¬ (e.saggar = q.saggar ∧ e.space = 0 ∧ e.page ≤ q.remote u / 65536
      ∧ q.remote u / 65536 < e.page + e.pages ∧ (e.w = true ∨ pktDir q.pkt = false))) →
    look (0, s.xlatBase.toNat, true) q.walks u = (k, tbl, w) → (walkPath q.saggar 0 (q.remote u))[k]? = some l →
    let a := tbl + 8 * l.1
    let b := s.atBanks 1 (.unit q.id u) 0 (if inHbm a 8 || inSlices a 8 then bankNodes [a / 64] else [])
    let again : Due := dueOf (s.cycle + 1) 116 none (.inl (.transferUnitLand q.id u .own))
    let h := s.handle q.region (pktHandle q.pkt)
    (b.1 = false → exec (.transferUnitLand q.id u .own) s = .next { b.2 with agenda := s.agenda ++ [again] })
    ∧ (b.1 = true → ∀ e, b.2.tableEntry a = some e →
      (∀ t' w', l.2.step w (some e) = .inr (t', w') → ∃ t, exec (.transferUnitLand q.id u .own) s = .next { t with agenda := s.agenda ++ [again] }
        ∧ t = { b.2 with reqs := t.reqs } ∧ ReqIs s t { q with walks := put q.walks u (k + 1, t', w') })
      ∧ (∀ f bits w', l.2.step w (some e) = .inl (.leaf f bits w') → (w' = true ∨ pktDir q.pkt = false) →
        ∃ t, exec (.transferUnitLand q.id u .own) s = .next t ∧ t.mem = s.mem ∧ t.agenda = s.agenda ++ [again]
          ∧ ∃ rest, (t.slice q.slice).tlb = { saggar := q.saggar, space := 0, page := q.remote u / 2 ^ bits * 2 ^ (bits - 16)
                                              pages := 2 ^ (bits - 16), frame := f, w := w' } :: rest)
      ∧ ((l.2.step w (some e) = .inl .fault ∨ ∃ f bits, l.2.step w (some e) = .inl (.leaf f bits false) ∧ pktDir q.pkt = true) →
        ∃ t x, exec (.transferUnitLand q.id u .own) s = .next t ∧ t.mem = s.mem ∧ t.logCnt = s.logCnt + 1
          ∧ look 0 t.log (s.logCnt.toNat % 1024)
              = BitVec.ofNat 48 s.cycle ++ (39 : BitVec 7) ++ (0 : BitVec 9) ++ BitVec.ofNat 16 q.slice ++ (0 : BitVec 48)
          ∧ t.req q.id = some x ∧ x.st = .firmware ∧ t.handle q.region (pktHandle q.pkt) = { h with fw := true })))
  ∧ (∀ (r : Nat) (n : Fin 64) (q : Req) (s : State),
    s.reqs.find? (fun q => q.region == r && pktHandle q.pkt == n.val && q.complete) = some q → (s.handle r n.val).st = .filling →
    (s.launch q.launch).stage ≠ .retired → pktOp q.pkt ≠ 2 → ∃ t, exec (.handleFull r n) s = .next t
      ∧ HandleIs s t r n.val { s.handle r n.val with st := .full } ∧ (∀ x ∈ t.reqs, x.id ≠ q.id) ∧ t.mem = s.mem
      ∧ t.agenda = s.agenda ++ (if pktRvp q.pkt = 0 then []
          else [dueOf (if (s.launch (s.target q.launch (pktRvp q.pkt - 1)).1).region = q.region then s.cycle
              else s.cycle + Config.crossDelay q.id) 132 none (.inr (.rvSignal q.launch (pktRvp q.pkt - 1)))]))
  ∧ (∀ (q : Req) (s : State), s.req q.id = some q → q.complete = false → pktOp q.pkt = 2 →
    (s.cycle < q.at_ + 8 * extDeadline q.ext → exec (.fetchDeadline q.id) s = .next s)
    ∧ (q.at_ + 8 * extDeadline q.ext ≤ s.cycle → ∃ t n, exec (.fetchDeadline q.id) s = .next t ∧ ReqIs s t { q with st := .ended }
      ∧ n.val = pktHandle q.pkt ∧ t.agenda = s.agenda ++ [dueOf s.cycle 120 none (.inl (.handleFull q.region n))]
      ∧ t.mem = s.mem ∧ t.regions = s.regions
      ∧ let fetched := 8 * extExpert q.ext + 4
        (∀ k, look (s.cycle + 1) (s.slice q.slice).cleared k ≠ s.cycle) → ∀ k, look 0 (t.slice q.slice).counters k
          = if k = fetched then BitVec.ofNat 64 (min (2 ^ 48 - 1) ((look 0 (s.slice q.slice).counters k).toNat + (q.landed - 2)))
            else if k = fetched + 1 then BitVec.ofNat 64 (min (2 ^ 48 - 1) ((look 0 (s.slice q.slice).counters k).toNat + 1))
            else look 0 (s.slice q.slice).counters k))
  ∧ (∀ (q : Req) (us : List (Nat × UnitRead)) (s : State), s.req q.id = some q → q.st = .firmware → pktSite q.pkt = false →
    ∃ t x, exec (.firmwareCopyDone q.id us) s = .next t ∧ t.req q.id = some x
      ∧ (∀ u, u ∈ x.done ↔ u ∈ q.done ∨ (u < q.units ∧ ∃ d, (u, d) ∈ us))
      ∧ (pktDir q.pkt = false → (∃ u < q.units, u ∉ q.done ∧ us.find? (·.1 == u) = some (u, .fails)) →
          (t.handle q.region (pktHandle q.pkt)).err = true))
  ∧ (∀ (q : Req) (u a : Nat) (s v : State), s.req q.id = some q → q.st = .firmware → pktSite q.pkt = false → u < q.units →
    u ∉ q.done → s.ecc = [] → s.memOldAt ≠ s.cycle → pktSpace q.pkt = 0 → pktOp q.pkt ≠ 2 →
    let home := homePa q.region (pktLoff q.pkt + 64 * u)
    let h := s.handle q.region (pktHandle q.pkt)
    let counted (t : State) (err : Bool) : Prop := ReqIs s t { q with done := u :: q.done }
      ∧ t.handle q.region (pktHandle q.pkt) = { h with units := h.units + 1, planes := 8, err := err }
    (s.xlatAt q.slice q.saggar 0 (q.remote u) (pktDir q.pkt) = (v, .pa a) → (inHbm a 64 = true ∨ inSlices a 64 = true) →
      ∃ t, exec (.firmwareCopyDone q.id [(u, .own)]) s = .next t ∧ counted t h.err
        ∧ (pktDir q.pkt = false → MemSameBut s t home 64 ∧ (∀ i < 64, memByte t.mem (home + i) = memByte s.mem (a + i))
          ∧ ∀ i < 16, t.feAt (home + 4 * i) = true)
        ∧ (pktDir q.pkt = true → MemSameBut s t a 64 ∧ ∀ i < 64, memByte t.mem (a + i) = memByte s.mem (home + i)))
    ∧ (pktDir q.pkt = false → ∃ t, exec (.firmwareCopyDone q.id [(u, .fails)]) s = .next t ∧ counted t true ∧ MemSameBut s t home 64
        ∧ (∀ i < 64, memByte t.mem (home + i) = 0) ∧ (∀ i < 16, t.feAt (home + 4 * i) = true)
        ∧ t.logCnt = s.logCnt + 1 ∧ look 0 t.log (s.logCnt.toNat % 1024)
            = BitVec.ofNat 48 s.cycle ++ (40 : BitVec 7) ++ (0 : BitVec 9) ++ BitVec.ofNat 16 q.slice ++ (0 : BitVec 48)))
  ∧ (∀ (r : Nat) (s : State), let g := s.region r
    (s.maySteal r = true → ∃ t, exec (.firmwareCycleSteal r) s = .next t ∧ RegionIs s t r { g with steal := true, fwWait := some s.cycle })
    ∧ (s.maySteal r = false → exec (.firmwareCycleSteal r) s = .next s))
  ∧ (∀ (r : Nat) (n : Fin 64) (s : State), let h := s.handle r n.val
    (h.st = .draining → h.drainAt ≤ s.cycle → ∃ t, exec (.handleDrainEnd r n) s = .next t ∧ HandleIs s t r n.val {}
      ∧ t = { s with regions := t.regions })
    ∧ ((h.st ≠ .draining ∨ s.cycle < h.drainAt) → exec (.handleDrainEnd r n) s = .next s))
  ∧ ∀ (v : BitVec 64) (s : State), ∃ t, exec (.xlatInval v) s = .next t ∧ t = { s with slices := t.slices }
    ∧ ∀ n e, e ∈ (t.slice n).tlb ↔ e ∈ (s.slice n).tlb ∧ v.toNat ≠ 2 ^ 64 - 1
      ∧ ¬ (e.saggar.toNat = v.toNat / 2 ^ 52 ∧ e.space = v.toNat / 2 ^ 44 % 256 ∧ e.page ≤ v.toNat % 2 ^ 41
        ∧ v.toNat % 2 ^ 41 < e.page + e.pages)

/-! ## Events: waits, the DDA -/

/-- R281, R288, R289, R291, R293, R294, R297, R309, R313: a wait that is done lets its slot go on past its word, with WC
one up after `rvwait`, 8 cycles after its phase had passed; a handle with ERR or of another launch, a marked acknowledgement, and
a shared point that has ended while the slot still waits for it trap at the word; `csync` lets every slot of the launch go on together 4 cycles later; a raised cause is delivered on its
slot's turn; late releases and late wakes are reported. -/
def Obligations.WaitsEnd : Prop :=
  (∀ (key : Nat) (s : State), let sl := s.slot key
    let on (x : Slot) : Slot := { x with pc := x.pc + 1, wait := .none }
    let ended (x : Slot) (w : Nat) : Prop := x = { sl with wait := .none, raised := { num := 81, kind := 0, code := w } :: sl.raised }
    (∀ w c, sl.wait = .rv w (some c) →
      (s.cycle < c → exec (.rvwaitResume key) s = .next s)
      ∧ (c ≤ s.cycle → ∃ t x, exec (.rvwaitResume key) s = .next t ∧ SlotIs s t key x
        ∧ x = { on sl with wc := x.wc } ∧ ∀ j, look 0 x.wc j = if j = w then look 0 sl.wc w + 1 else look 0 sl.wc j))
    ∧ (∀ w, sl.wait = .rv w none → let p := s.target sl.launch w
      let past := ((s.point p.1 p.2).ph.toNat + 65536 - (look 0 sl.wc w).toNat) % 65536
      (s.cycle < sl.busy → s.settleSlot key = s)
      ∧ (sl.busy ≤ s.cycle → (s.point p.1 p.2).gone = true → ended ((s.settleSlot key).slot key) w)
      ∧ (sl.busy ≤ s.cycle → (s.point p.1 p.2).gone = false → 1 ≤ past → past ≤ 32767 →
        SlotIs s (s.settleSlot key) key { sl with wait := .rv w (some (s.cycle + 8)) })
      ∧ (sl.busy ≤ s.cycle → (s.point p.1 p.2).gone = false → (past = 0 ∨ 32767 < past) → s.settleSlot key = s))
    ∧ (∀ h c, sl.wait = .handle h (some c) → let y := s.handle (key / 8) h
      let mine : Prop := y.st = .free ∨ y.owner = sl.launch
      (s.cycle < c → exec (.hwaitResume key) s = .next s)
      ∧ (c ≤ s.cycle → mine → y.err = false → ∃ t, exec (.hwaitResume key) s = .next t ∧ SlotIs s t key (on sl))
      ∧ (c ≤ s.cycle → mine → y.err = true →
        exec (.hwaitResume key) s = .next (s.raiseNow key { num := 84, kind := 0, code := h }))
      ∧ (c ≤ s.cycle → ¬ mine → exec (.hwaitResume key) s = .next (s.raiseNow key { num := 83, kind := 0, code := h })))
    ∧ (∀ n c, sl.wait = .fence n c →
      (s.fenceDone key n c = false → exec (.fenceResume key) s = .next s)
      ∧ (s.fenceDone key n c = true → sl.wayErr = false → ∃ t, exec (.fenceResume key) s = .next t ∧ SlotIs s t key (on sl))
      ∧ (s.fenceDone key n c = true → sl.wayErr = true → ∃ v, SlotIs s v key { sl with wayErr := false }
        ∧ exec (.fenceResume key) s = .next (v.raiseNow key { num := 36, kind := 0 })))
    ∧ (∀ w, let p := s.target sl.launch w
      let ac := look 0 sl.ac w
      (∀ op, sl.wait = .away w op → ∃ t pre post, exec (.sharedPointAnswer key) s = .next t ∧ s.agenda = pre ++ post
        ∧ t = { s with agenda := pre ++ { at_ := s.cycle, rank := match op with | .arrive => 131 | .query => 133,
                                          region := none, act := .inr (.rvAnswer key) } :: post }
        ∧ (∀ e ∈ pre, laterArrival s.cycle key e = false) ∧ ∀ e, post.head? = some e → laterArrival s.cycle key e = true)
      ∧ (s.pointLives p = false → let t := s.runEffect (.rvAnswer key)
        let x := s.pointSlice p.1
        (t.slice x).orphans.toNat / 2 ^ 32 = min (2 ^ 32 - 1) ((s.slice x).orphans.toNat / 2 ^ 32 + 1)
          ∧ (sl.wait = .away w .query → ended (t.slot key) w) ∧ (sl.wait = .away w .arrive → t.slot key = on sl))
      ∧ (s.pointLives p = true → let t := s.runEffect (.rvAnswer key)
        let past := ((s.point p.1 p.2).ph.toNat + 65536 - (look 0 sl.wc w).toNat) % 65536
        (sl.wait = .away w .query → 1 ≤ past → past ≤ 32767 →
          ∃ x, SlotIs s t key x ∧ x = { on sl with wc := x.wc } ∧ look 0 x.wc w = look 0 sl.wc w + 1)
        ∧ (sl.wait = .away w .query → (past = 0 ∨ 32767 < past) → t = s)
        ∧ ∀ y, sl.wait = .away w .arrive → arrival ac (s.point p.1 p.2) = some y → ∃ x,
          SlotIs { s with points := t.points } t key x ∧ t.point p.1 p.2 = y.check ∧ x = { on sl with ac := x.ac }
            ∧ look 0 x.ac w = ac + 1))
    ∧ (∀ r, sl.bound = true → sl.ended = false → sl.awaiting s.cycle = false → (s.launch sl.launch).halted = false →
      sl.raised = [r] → r.at_ < s.cycle → ∃ v, SlotIs s v key { sl with raised := [] }
        ∧ exec (.trapDelivery key) s = .next (v.deliver key r sl.pc))
    ∧ ((∀ r ∈ sl.raised, s.cycle ≤ r.at_ ∧ r.at_ ≠ 0) → exec (.trapDelivery key) s = .next s))
  ∧ (∀ (l : Nat) (s : State),
    (s.mayCsync l = false → exec (.csyncRelease l) s = .next s)
    ∧ (s.mayCsync l = true → (s.slotKeys l).Nodup → ∃ t, exec (.csyncRelease l) s = .next t ∧ t = { s with slots := t.slots }
      ∧ (∀ k ∈ s.slotKeys l, t.slot k = if (s.slot k).ended then s.slot k
          else { s.slot k with pc := (s.slot k).pc + 1, wait := .none, busy := s.cycle + 4 })
      ∧ ∀ k, k ∉ s.slotKeys l → t.slot k = s.slot k)
    ∧ let stuck : Prop := ∃ k ∈ s.slotKeys l, ∃ m c, (s.slot k).wait = .csync m c ∧ c + 2 ^ 32 ≤ s.cycle
      let held : Prop := ∃ k ∈ s.slotKeys l, (s.slot k).held = true
      (stuck → held → ∃ t, exec (.csyncStall l) s = .next t ∧ Reported s t 95 (s.launch l).region 0)
      ∧ (¬ (stuck ∧ held) → exec (.csyncStall l) s = .next s))
  ∧ ∀ (r : Nat) (s : State),
    (∃ t, exec (.sequencerWake r) s = .next t ∧ RegionIs s t r { s.region r with gatedSeq := false })
    ∧ let late : Prop := (s.region r).gatedSeq = true ∧ ∃ i < 8, ∃ c, c + 248 ≤ s.cycle
        ∧ ((∃ w, (s.slot (slotKey r i)).wait = .rv w (some c)) ∨ ∃ h, (s.slot (slotKey r i)).wait = .handle h (some c))
      (late → ∃ t, exec (.wakeLate r) s = .next t ∧ Reported s t 94 r 0) ∧ (¬ late → exec (.wakeLate r) s = .next s)

/-- R250, R252 to R260, R263, R283, R336: a domain's step gives each of its cells the integrand and the residue of the rule and the
domain one step less to take; a cell whose integrand would leave its range stops the step (reason 2), an emitted increment is
added to its counter, or dropped where a dx counter is not zero (reason 1) or a counter would reach ±2 (reason 0); at the end
of that cycle all four domains stop, `DDA.ERR` keeps the overrun of the lowest cell, and `DDA_OVERRUN` (64) is raised once, against
the slot that started the cell's domain or else the source's; `dpatch` ends with every patch changed together, latches and
counters cleared; `dsave` writes its 193 units one by one, each once its bank serves it, and sets their full/empty bits; `drest`
reads the image back as the same cells, after the steps of its cycle. -/
def Obligations.TheDdaSteps : Prop :=
  (∀ (r : Nat) (d : Fin 4) (s : State), let g := s.region r
    let x := g.dom d.val
    let on : Prop := x.running = true ∧ x.left ≠ 0 ∧ x.next = s.cycle
    (¬ on → exec (.ddaStep r d) s = .next s)
    ∧ (on → s.ecc = [] → DdaRuns s r → (g.cells.map (·.1)).Nodup →
      (∀ e ∈ g.cells, domOf e.2.patch = d.val → -(2 ^ 32) < ddaY g e.2 ∧ ddaY g e.2 < 2 ^ 32) →
      ∃ t, exec (.ddaStep r d) s = .next t
        ∧ RegionIs { s with agenda := t.agenda } t r { g with cells := (t.region r).cells, doms := (t.region r).doms }
        ∧ (∀ n c, (n, c) ∈ g.cells → (t.region r).cell n = if domOf c.patch = d.val then ddaAfter g c else c)
        ∧ (∀ j, j ≠ d.val → (t.region r).dom j = g.dom j)
        ∧ (t.region r).dom d.val = { x with left := x.left - 1, steps := (x.steps + 1) % 2 ^ 32, next := s.cycle + x.period
                                            running := x.left != 1, steppedAt := some s.cycle }
        ∧ (∀ e ∈ s.agenda, e ∈ t.agenda)
        ∧ (1 < x.left → dueOf (s.cycle + x.period) 10 (some r) (.inl (.ddaStep r d)) ∈ t.agenda))
    ∧ (on → s.ecc = [] → ∀ n c, g.cells.find? (fun e => domOf e.2.patch == d.val
        && !decide (-(2 ^ 32) < ddaY g e.2 ∧ ddaY g e.2 < 2 ^ 32)) = some (n, c) →
      ∃ t, exec (.ddaStep r d) s = .next t ∧ RegionIs (later s s.cycle 13 (some r) (.inr (.ddaHalt r))) t r
        { g with overruns := g.overruns ++ [(n, 2, 0)] }))
  ∧ (∀ (r src dst i : Nat) (dz : Int) (s : State), i < 4 → src < 512 → (∀ e ∈ s.agenda, ∀ l, e.act ≠ .inr (.ddaEmit r l)) →
    let g := s.region r
    let c := g.cell dst
    let v := (c.pend.toList).getD i 0
    let t := s.runEffect (.ddaEmit r [(src, dst, i, dz)])
    let lost (reason : Nat) : Prop := RegionIs (later s s.cycle 13 (some r) (.inr (.ddaHalt r))) t r
      { g with overruns := g.overruns ++ [(dst, reason, src)] }
    (i = 0 → v ≠ 0 → lost 1)
    ∧ ((i ≠ 0 ∨ v = 0) → (v + dz = 2 ∨ v + dz = -2) → lost 0)
    ∧ ((i ≠ 0 ∨ v = 0) → v + dz ≠ 2 → v + dz ≠ -2 → ∃ y, RegionIs s t r { g with cells := y }
      ∧ (∀ n, (t.region r).cell n = if n = dst then { c with pend := ((t.region r).cell dst).pend } else g.cell n)
      ∧ ∀ j < 4, ((t.region r).cell dst).pend.toList.getD j 0 = if j = i then v + dz else c.pend.toList.getD j 0))
  ∧ (∀ (r cell reason src : Nat) (pre post : List (Nat × Nat × Nat)) (s : State), let g := s.region r
    g.overruns = pre ++ (cell, reason, src) :: post → (∀ o ∈ pre, cell < o.1) → (∀ o ∈ post, cell ≤ o.1) →
    let t := s.runEffect (.ddaHalt r)
    let d := domOf (g.cell cell).patch
    (∀ j < 4, (t.region r).dom j = { g.dom j with running := false }) ∧ (t.region r).overruns = [] ∧ (t.region r).cells = g.cells
      ∧ (g.ddaErr.getLsbD 0 = true → (t.region r).ddaErr = g.ddaErr)
      ∧ (g.ddaErr.getLsbD 0 = false → (t.region r).ddaErr = BitVec.ofNat 32 (g.dom d).steps ++ BitVec.ofNat 9 cell ++ BitVec.ofNat 2 d
          ++ BitVec.ofNat 2 reason ++ BitVec.ofNat 9 src ++ (1 : BitVec 10))
      ∧ ∀ k, (g.dom d).starter = some k
          ∨ ((g.dom d).starter = none ∧ reason ≠ 2 ∧ (g.dom (domOf (g.cell src).patch)).starter = some k) →
        (s.slot k).bound = true → (s.slot k).ended = false →
        t.slot k = { s.slot k with raised := (s.slot k).raised ++ [{ num := 64, kind := 4, at_ := s.cycle }] })
  ∧ (∀ (key first : Nat) (got : List Word) (e : Due) (s : State), let r := key / 8
    let g := s.region r
    s.agenda.find? (fun d => match d.act with | .inr (.patched k _ _) => k == key && decide (d.at_ ≤ s.cycle) | _ => false) = some e →
    e.act = .inr (.patched key first got) →
    let good : Prop := ∀ p ∈ got, patchOk p = true
    let rests (d : Nat) : Prop := (g.dom d).running = false ∧ (g.dom d).steppedAt ≠ some s.cycle
    let still : Prop := ∀ i p, got[i]? = some p → rests (domOf (g.cell (first + i)).patch) ∧ rests (domOf p)
    let gone : State := { s with agenda := s.agenda.erase e }
    (good → still → ∃ t, exec (.dpatchDone key) s = .next t ∧ t = { gone with regions := t.regions, slots := t.slots }
      ∧ t.slot key = { s.slot key with pc := (s.slot key).pc + 1, wait := .none } ∧ (∀ k, k ≠ key → t.slot k = s.slot k)
      ∧ t.region r = { g with cells := (t.region r).cells } ∧ (∀ j, j ≠ r → t.region j = s.region j)
      ∧ ∀ n, (t.region r).cell n = match (if first ≤ n then got[n - first]? else none) with
          | some p => { g.cell n with patch := p, latch := 0, pend := Vector.replicate 4 0 }
          | none => g.cell n)
    ∧ (¬ good → exec (.dpatchDone key) s = .next (gone.raiseNow key { num := 66, kind := 0 }))
    ∧ (good → ¬ still → exec (.dpatchDone key) s = .next (gone.raiseNow key { num := 65, kind := 0 })))
  ∧ (∀ (key off : Nat) (s : State), let r := key / 8
    off % 64 = 0 → off + 12352 ≤ 2 ^ 24 →
    (∀ n, (s.slot key).wait = .save off n →
      (n < 193 → (s.launch (s.slot key).launch).halted = false → let a := homePa r (off + 64 * n)
        let b := s.atBanks 1 (.save key) 0 (bankNodes [a / 64])
        let again : List Due := [dueOf (s.cycle + 1) 116 (some r) (.inr (.saveUnit key))]
        let t := s.runEffect (.saveUnit key)
        (b.1 = false → t = { b.2 with agenda := s.agenda ++ again })
        ∧ (b.1 = true → SlotIs { s with mem := t.mem, memOld := t.memOld, memOldAt := t.memOldAt, slices := t.slices, ecc := t.ecc
                                        agenda := s.agenda ++ if n = 192 then [] else again } t key
            { s.slot key with wait := .save off (n + 1) }
          ∧ MemSameBut s t a 64 ∧ (∀ i < 64, memByte t.mem (a + i) = (ddaImage (s.region r) s.cycle).getD (64 * n + i) 0)
          ∧ ∀ i < 16, t.feAt (a + 4 * i) = true))
      ∧ (n < 193 → exec (.dsaveDone key none) s = .next s
        ∧ ∃ v, Reported s v 36 (4 * r + (off + 64 * n) / 2 ^ 22) 0
          ∧ exec (.dsaveDone key (some n)) s = .next (v.raiseNow key { num := 36, kind := 0 }))
      ∧ (193 ≤ n → ∃ t, exec (.dsaveDone key none) s = .next t
        ∧ SlotIs s t key { s.slot key with pc := (s.slot key).pc + 1, wait := .none }))
    ∧ ((s.slot key).wait = .restore off → (s.phase ≠ .start ∨ s.stepsDue r = true) → exec (.drestDone key) s
      = .next (later s (if s.phase = .start then s.cycle else s.cycle + 1) 12 (some r) (.inl (.drestDone key))))
    ∧ ((s.slot key).wait = .restore off → s.phase = .start → s.stepsDue r = false → s.ecc = [] → let b := s.homeRead r off 12352
      (imageOk b = true → ∃ t, exec (.drestDone key) s = .next t
        ∧ t.region r = (s.region r).fromImage b s.cycle key ∧ (∀ j, j ≠ r → t.region j = s.region j) ∧ t.mem = s.mem
        ∧ t.slot key = { s.slot key with pc := (s.slot key).pc + 1, wait := .none } ∧ (∀ k, k ≠ key → t.slot k = s.slot k))
      ∧ (imageOk b = false → exec (.drestDone key) s = .next (s.raiseNow key { num := 66, kind := 0 }))))
  ∧ ∀ (g : Region) (from_ to_ key n : Nat), n < 512 → (∀ j < 512, -2 ≤ (g.cell j).latch ∧ (g.cell j).latch ≤ 1
      ∧ ∀ v ∈ (g.cell j).pend.toList, -2 ≤ v ∧ v ≤ 1) →
    (ddaImage g from_).length = 12352 ∧ (g.fromImage (ddaImage g from_) to_ key).cell n = g.cell n

/-! ## Events: the module -/

/-- R351 to R355, R63 to R65, R71, R74, R75, R319, R322, R333, R345, R358, R360: links, host memory, peers and registers. A host
port that goes down releases its semaphores, abandons its streams and ends its launches with `HOST_RESET` (120); a host access
inside a window, and a peer's that its translation passes, read or change 64 bytes of memory, and a host access outside every
window, or of an uncorrectable word, has an error response; a snoop is answered "not held". A flit in order moves SEQ on, frees the
flits that its ACK names, and is acknowledged where it carries a request or data; a CRC that fails is answered by the last ACK,
which has the other side replay, and the 17th failure is reported (105) and trains the link. A register write changes the RW
fields of the register that it names; what each offset reads as; a write of 64 bytes in a token window is the token that its
header names, and one that sets a command bit that command's event; of two accesses of one cycle port A's acts first. That an
acknowledgement repeated asks for the replay, and that a link carries ACKs of their own type, is log entry 27. -/
def Obligations.HostsAndPeersAct : Prop :=
  (∀ (h : HostPort) (s : State), ∃ t, exec (.hostLinkReset h) s = .next t
    ∧ (∃ u, exec (.linkDown (.host h)) s = .next u ∧ Reported t u 106 (match h with | .A => 0 | .B => 1) 0)
    ∧ h ∈ t.hostDown ∧ t.mem = s.mem
    ∧ (let code := match h with | .A => 1 | .B => 2
      ∀ n < 16, let w := look 0 s.hostSem n
        look 0 t.hostSem n = if w.toNat / 2 ^ 30 = code then (0 : BitVec 16) ++ (w.setWidth 16 + 1) else w)
    ∧ ((∀ p < 16, ∀ q < 16, ∀ l, (s.port p).stream = some l → (s.port q).stream = some l → p = q) →
      ∀ p < 16, ∀ l, (t.port p).stream = some l → (s.port p).stream = some l ∧ (s.launch l).host ≠ h)
    ∧ ∀ e ∈ s.launches, e.2.host = h → s.launch e.1 = e.2 → (∀ p < 16, (s.port p).stream ≠ some e.1) →
      (e.2.stage = .closed → (t.launch e.1).stage = .retired ∧ (t.launch e.1).status = 3 ∧ (t.launch e.1).cause = 120)
      ∧ (e.2.stage = .running → (t.launch e.1).terminated = true))
  ∧ (∀ (h : HostPort) (r : BitVec 16) (p : BitVec 4) (s : State), ∃ t, exec (.linkUp (.host h) r p) s = .next t
      ∧ t = { s with hostDown := t.hostDown, peerSeq := t.peerSeq, peerNext := t.peerNext, peerSent := t.peerSent }
      ∧ FlitsNew s t (match h with | .A => 16 | .B => 17) ∧ ∀ x, x ∈ t.hostDown ↔ x ∈ s.hostDown ∧ x ≠ h)
  ∧ (∀ (n : Fin 16) (r : BitVec 16) (p : BitVec 4) (s : State), let w := look 0 s.peerStat n.val
    (∃ t, exec (.linkUp (.peer n) r p) s = .next t
      ∧ t = { s with peerStat := t.peerStat, peerSeq := t.peerSeq, peerNext := t.peerNext, peerSent := t.peerSent }
      ∧ FlitsNew s t n.val ∧ look 0 t.peerStat n.val = (2 : BitVec 2) ++ w.extractLsb' 56 6 ++ r ++ p ++ w.setWidth 36
      ∧ ∀ j, j ≠ n.val → look 0 t.peerStat j = look 0 s.peerStat j)
    ∧ ((∀ q ∈ s.reqs, q.st = .running → pktSpace q.pkt ≠ 16 + n.val) → ∃ v t, exec (.linkDown (.peer n)) s = .next t
      ∧ Reported v t 106 n.val 0 ∧ v = { s with peerStat := v.peerStat } ∧ look 0 v.peerStat n.val = (3 : BitVec 2) ++ w.setWidth 62
      ∧ ∀ j, j ≠ n.val → look 0 v.peerStat j = look 0 s.peerStat j)
    ∧ ∃ t, exec (.peerRetryClr n) s = .next t ∧ t = { s with peerStat := t.peerStat }
      ∧ look 0 t.peerStat n.val = w.extractLsb' 32 32 ++ (0 : BitVec 16) ++ w.setWidth 16
      ∧ ∀ j, j ≠ n.val → look 0 t.peerStat j = look 0 s.peerStat j)
  ∧ (∀ (h : HostPort) (write : Bool) (addr : Nat) (d : BitVec 512) (s : State),
    exec (.cxlSnoop h addr) s = .next (if h ∈ s.hostDown then s else { s with answers := .notHeld h addr :: s.answers })
    ∧ ((h ∈ s.hostDown ∨ addr % 64 ≠ 0) → exec (.hostMemAccess h write addr d) s = .next s)
    ∧ (h ∉ s.hostDown → addr % 64 = 0 →
      let fails : Prop := exec (.hostMemAccess h write addr d) s = .next { s with answers := .error h addr :: s.answers }
      (memwinAddr s.memwin addr (List.range 8) = none → fails)
      ∧ ∀ a, memwinAddr s.memwin addr (List.range 8) = some a →
        (write = true → ∃ t, exec (.hostMemAccess h write addr d) s = .next t ∧ MemSameBut s t a 64
          ∧ (∀ i < 64, memByte t.mem (a + i) = d.extractLsb' (8 * i) 8)
          ∧ t = { s with mem := t.mem, memOld := t.memOld, memOldAt := s.cycle, ecc := t.ecc })
        ∧ (write = false → s.memBad a 64 = true → fails)
        ∧ (write = false → s.memBad a 64 = false → s.memOldAt ≠ s.cycle → exec (.hostMemAccess h write addr d) s
          = .next { s with answers := .data h addr ((List.range 64).map fun i => memByte s.mem (a + i)) :: s.answers })))
  ∧ (∀ (l : Link) (f : Flit) (s : State),
    let k := match l with | .peer n => n.val | .host .A => 16 | .host .B => 17
    let up : Prop := match l with | .peer n => (look 0 s.peerStat n.val).toNat / 2 ^ 62 = 2 | .host h => h ∉ s.hostDown
    let next := look 0 s.peerSeq k
    let sent := look [] s.peerSent k
    let acks (s t : State) (a : BitVec 12) : Prop := ∃ g : Flit, g.type = 3 ∧ g.ack = a ∧ g.seq = look 0 s.peerNext k ∧ g.crcOk = true
      ∧ t.flitsOut = (k, g) :: s.flitsOut ∧ look 0 t.peerNext k = look 0 s.peerNext k + 1
    let retry (w v : Word) (n : Nat) : Prop := v = w.extractLsb' 32 32 ++ BitVec.ofNat 16 (min 65535 (w.toNat / 2 ^ 16 % 2 ^ 16 + n)) ++ w.setWidth 16
    (¬ up → exec (.peerFlit l f) s = .next s)
    ∧ (up → f.replays = 0 →
      (f.crcOk = true → f.seq ≠ next → exec (.peerFlit l f) s = .next s)
      ∧ (f.crcOk = false → ∃ t, exec (.peerFlit l f) s = .next t ∧ acks s t (next - 1) ∧ look [] t.peerSent k = sent ++ [(t.flitsOut.headD (0, {})).2]
        ∧ t = { s with peerNext := t.peerNext, peerSent := t.peerSent, flitsOut := t.flitsOut })
      ∧ (f.crcOk = true → f.seq = next → ∃ t, exec (.peerFlit l f) s = .next t
        ∧ t = { s with peerSeq := t.peerSeq, peerNext := t.peerNext, peerSent := t.peerSent, flitsOut := t.flitsOut, peerStat := t.peerStat }
        ∧ look 0 t.peerSeq k = f.seq + 1 ∧ (∀ j, j ≠ k → look 0 t.peerSeq j = look 0 s.peerSeq j)
        ∧ ((f.type = 1 ∨ f.type = 2) → acks s t f.seq)
        ∧ (f.type ≠ 1 → f.type ≠ 2 → ∀ i, sent.findIdx? (fun g => g.seq == f.ack) = some i →
          look [] t.peerSent k = sent.drop (i + 1) ∧ t.flitsOut = s.flitsOut)
        ∧ (f.type = 3 → sent ≠ [] → sent.findIdx? (fun g => g.seq == f.ack) = none →
          let again := sent.map fun (g : Flit) => { g with replays := g.replays + 1 }
          look [] t.peerSent k = again ∧ t.flitsOut = (again.map fun g => (k, g)).reverse ++ s.flitsOut
            ∧ ∀ n, l = .peer n → retry (look 0 s.peerStat n.val) (look 0 t.peerStat n.val) sent.length)))
    ∧ (up → 16 ≤ f.replays → f.crcOk = false → ∃ v w t, exec (.peerFlit l f) s = .next t
      ∧ Reported v w 105 (match l with | .peer n => n.val | .host .A => 0 | .host .B => 1) 0
      ∧ v = { s with peerStat := v.peerStat } ∧ t = { w with peerStat := t.peerStat }
      ∧ ∀ n, l = .peer n → retry (look 0 s.peerStat n.val) (look 0 v.peerStat n.val) 1
        ∧ look 0 t.peerStat n.val = (1 : BitVec 2) ++ (look 0 v.peerStat n.val).setWidth 62))
  ∧ (∀ (n : Fin 16) (write : Bool) (off : Nat) (d : BitVec 512) (s : State), ∃ t, exec (.peerRequest n write off d) s = .next t
    ∧ t = { s with mem := t.mem, memOld := t.memOld, memOldAt := t.memOldAt, ecc := t.ecc, peerNext := t.peerNext
                   peerSent := t.peerSent, flitsOut := t.flitsOut }
    ∧ ((look 0 s.peerStat n.val).toNat / 2 ^ 62 = 2 → off % 64 = 0 → write = false → s.memOldAt ≠ s.cycle →
      ∀ a, Config.peerTranslate n.val false off = some a → inHbm (a / 64 * 64) 64 = true → t.mem = s.mem ∧ ∃ g : Flit,
        t.flitsOut = (n.val, g) :: s.flitsOut ∧ g.type = 2 ∧ g.seq = look 0 s.peerNext n.val
          ∧ g.payload = Config.flitPayload false off ((List.range 64).map fun i => memByte s.mem (a / 64 * 64 + i)))
    ∧ ((look 0 s.peerStat n.val).toNat / 2 ^ 62 = 2 → off % 64 = 0 → write = true →
      match Config.peerTranslate n.val true off with
      | some a => inHbm (a / 64 * 64) 64 = true → MemSameBut s t (a / 64 * 64) 64
          ∧ ∀ i < 64, memByte t.mem (a / 64 * 64 + i) = d.extractLsb' (8 * i) 8
      | none => t = s)
    ∧ ((look 0 s.peerStat n.val).toNat / 2 ^ 62 ≠ 2 ∨ off % 64 ≠ 0 ∨ Config.peerTranslate n.val write off = none → t = s))
  ∧ (∀ (h : HostPort) (v : BitVec 64) (s : State),
    let mixed (old mask : Word) : Word := (old &&& ~~~mask) ||| (v &&& mask)
    let writes (off : Nat) (ok : State → Prop) : Prop := ∃ t, exec (.registerWrite h off v) s = .next t ∧ ok t
    (h ∈ s.hostDown → ∀ off, writes off (· = s))
    ∧ (h ∉ s.hostDown →
      (∀ p < 16, writes (0x10FC0 + 0x1000 * p) (PortIs s · p (if v.getLsbD 2 then { s.port p with prio := v.toNat % 4, dropped := 0, lastErr := 0 }
          else { s.port p with prio := v.toNat % 4 })))
      ∧ (∀ n : Fin 16, writes (0x20000 + 4 * n.val) (fun t => exec (.hostSemWrite h n (v.setWidth 32)) s = .next t))
      ∧ (∀ r < 48, v.toNat / 2 ^ 61 = 0 → writes (0x31000 + 8 * r) (RegionIs s · r
          { s.region r with preempt := mixed (s.region r).preempt 0x00FFFFFF00000000 }))
      ∧ (∀ r < 48, v.toNat / 2 ^ 61 ≠ 0 → writes (0x31000 + 8 * r) (· = s))
      ∧ (∀ r < 48, v.getLsbD 63 = false → writes (0x32000 + 8 * r) (RegionIs s · r
          { s.region r with unload := mixed (s.region r).unload 0xFFFFFFFF }))
      ∧ (∀ r < 48, v.getLsbD 63 = false → writes (0x33000 + 16 * r) (RegionIs s · r
          { s.region r with pagecopy0 := mixed (s.region r).pagecopy0 0x4FFFFFFF00000000 }))
      ∧ (∀ r < 48, v.getLsbD 63 = true → writes (0x32000 + 8 * r) (· = s) ∧ writes (0x33000 + 16 * r) (· = s))
      ∧ (∀ r < 48, ∀ m, 0 < m → m < 16 → writes (0x42000 + 128 * r + 8 * m) (fun t => RegionIs s t r
            { s.region r with mcast := (t.region r).mcast } ∧ ∀ j, look 0 (t.region r).mcast j
              = if j = m then mixed (look 0 (s.region r).mcast m) 0x0000F000FFFFFFFF else look 0 (s.region r).mcast j))
      ∧ (∀ i < 4, writes (0x4A240 + 8 * i) (fun t => t = { s with trustNonce := t.trustNonce }
          ∧ ∀ j < 4, t.trustNonce.extractLsb' (64 * j) 64 = if j = i then v else s.trustNonce.extractLsb' (64 * j) 64))
      ∧ (∀ r < 48, writes (0x30000 + 4 * r) (RegionIs s · r { s.region r with winstretch := v.setWidth 10 }))
      ∧ (∀ r < 48, writes (0x33008 + 16 * r) (RegionIs s · r { s.region r with pagecopy1 := v &&& 0x000FFFFFFFE00000 }))
      ∧ (∀ n < 192, writes (0x40000 + 8 * n) (SliceIs s · n { s.slice n with slotsNew := some (v &&& 0xFFFFFFFF) }))
      ∧ writes 0x41000 (· = { s with xlatBase := v &&& 0x000FFFFFFFFFF000 })
      ∧ writes 0x46008 (· = { s with kilnBase := v.setWidth 20 })
      ∧ ∀ off, 0x4A260 ≤ off → writes off (· = s)))
  ∧ (∀ (h : HostPort) (p : Fin 16) (n : Nat) (b : List Byte),
    let at_ := 0x10000 + 0x1000 * p.val
    (n < 0xFC0 → (b.length ≠ 64 ∨ n % 64 ≠ 0) → hostWrite h (at_ + n) b = [.badTokenWrite h p .size])
    ∧ (n < 63 → ∀ (ty : BitVec 4) (seq : BitVec 12) (len : BitVec 8) (low : BitVec 40) (payload : BitVec 448),
      b = leBytes (payload ++ ty ++ seq ++ len ++ low).toNat 64 →
      let t : Token := { host := h, port := p, seq := seq, len := len, payload := payload }
      hostWrite h (at_ + 64 * n) b = [if low ≠ 0 then .badTokenWrite h p .header
        else if ty = 1 then .openTok t else if ty = 2 then .paramTok t else if ty = 3 then .dataTok t
        else if ty = 4 then .closeTok t else .badTokenWrite h p .header])
    ∧ (0xFC4 ≤ n → n < 0x1000 → hostWrite h (at_ + n) b = []))
  ∧ (∀ (h : HostPort) (r : Nat) (v : BitVec 64), r < 48 →
    let cmd := v.toNat / 2 ^ 61
    let b := leBytes v.toNat 8
    hostWrite h (0x31000 + 8 * r) b = (if cmd = 0 then [.registerWrite h (0x31000 + 8 * r) v] else if cmd = 4 then [.preemptGo r v]
        else if cmd = 2 then [.preemptResume r v] else if cmd = 1 then [.preemptKill r v] else [])
      ∧ hostWrite h (0x32000 + 8 * r) b = [.unloadGo r v]
      ∧ hostWrite h (0x33000 + 16 * r) b = [if v.getLsbD 63 then (if v.getLsbD 62 then .pagecopyIn r v else .pagecopyOut r v)
          else .registerWrite h (0x33000 + 16 * r) v]
      ∧ hostWrite h 0x4A260 b = (if v = 1 then [.trustAttest] else [.registerWrite h 0x4A260 v])
      ∧ hostWrite h 0x41008 b = [.xlatInval v] ∧ hostWrite h 0x46000 b = [.kilnBudgetWrite (v.setWidth 32)]
      ∧ ∀ x : BitVec 256, hostWrite h 0x4A240 (leBytes x.toNat 32)
          = (List.range 4).map fun i => .registerWrite h (0x4A240 + 8 * i) (x.extractLsb' (64 * i) 64))
  ∧ (∀ (p n : Nat) (s : State), p < 16 →
    let x := s.port p
    let at_ := 0x10000 + 0x1000 * p
    let owner : BitVec 2 := match x.stream with
      | none => 0
      | some l => match (s.launch l).host with | .A => 1 | .B => 2
    s.readReg (at_ + 0xFC0) = BitVec.ofNat 64 (x.prio % 4)
      ∧ s.readReg (at_ + 0xFC4) = (0 : BitVec 36) ++ BitVec.ofNat 8 (min 255 x.dropped) ++ BitVec.ofNat 4 x.lastErr ++ owner
          ++ BitVec.ofNat 7 x.queue.length ++ (0 : BitVec 7)
      ∧ (n < 0x1000 → n ≠ 0xFC0 → n ≠ 0xFC4 → s.readReg (at_ + n) = 0)
      ∧ s.readReg (0x20000 + 4 * p) = (0 : BitVec 32) ++ (look 0 s.hostSem p).extractLsb' 30 2 ++ (0 : BitVec 14)
          ++ (look 0 s.hostSem p).setWidth 16
      ∧ s.readReg (0x48000 + 8 * p) = look 0 s.peerStat p)
  ∧ (∀ (s : State),
    (∀ r < 48, s.readReg (0x30000 + 4 * r) = (s.region r).winstretch.setWidth 64 ∧ s.readReg (0x31000 + 8 * r) = (s.region r).preempt
      ∧ s.readReg (0x32000 + 8 * r) = (s.region r).unload ∧ s.readReg (0x33000 + 16 * r) = (s.region r).pagecopy0
      ∧ s.readReg (0x33008 + 16 * r) = (s.region r).pagecopy1)
    ∧ (∀ n < 192, s.readReg (0x40000 + 8 * n) = (s.slice n).slots ∧ s.readReg (0x44000 + 8 * n) = (s.slice n).orphans)
    ∧ (∀ n < 8, s.readReg (0x47000 + 8 * n) = look 0 s.memwin n)
    ∧ (∀ c < 1344, s.readReg (0x50000 + 16 * c) = (s.cluster c).fence0 ∧ s.readReg (0x50008 + 16 * c) = (s.cluster c).fence1)
    ∧ (∀ i < 1024, s.readReg (0x4C000 + 16 * i) = (look 0 s.log i).setWidth 64
      ∧ s.readReg (0x4C008 + 16 * i) = (look 0 s.log i).extractLsb' 64 64)
    ∧ s.readReg 0x41000 = s.xlatBase ∧ s.readReg 0x46000 = s.kilnBudget.setWidth 64 ∧ s.readReg 0x46008 = s.kilnBase.setWidth 64
    ∧ s.readReg 0x46010 = BitVec.ofNat 64 s.kilnReserved ∧ s.readReg 0x46018 = s.kilnWindow ∧ s.readReg 0x4BFF8 = s.logCnt.setWidth 64)
  ∧ (∀ (h : HostPort) (off : Nat) (b : List Byte) (i : Instr) (s : State),
    s.hostAccess (.read h off) = .next { s with answers := .word h off (s.readReg off) :: s.answers }
    ∧ (hostWrite h off b = [] → s.hostAccess (.write h off b) = .next s)
    ∧ (hostWrite h off b = [i] → ∀ t, exec i s = .next t → s.hostAccess (.write h off b) = .next t))
  ∧ ∀ (x y : HostAccess) (s t u : State), x.host = .B → y.host = .A → s.hostAccess y = .next t → t.hostAccess x = .next u →
    s.hostCycle [x, y] = .next u ∧ s.hostCycle [y, x] = .next u

/-- R107, R145, R304, R356 to R359, R313: boot of an image, first or in place, whose key and signature the ROM checks, measurement
with SHA-384 and attestation with the nonce of the latest request; the limits of temperature and supply; the
debug path; module reset, which leaves only the bytes of memory; and the clears, each of which returns its field to its
reset value. -/
def Obligations.TheModuleActs : Prop :=
  (∀ (image : List Byte) (w : Signed) (d settings : BitVec 384) (s : State),
    let m (j : Nat) (d : BitVec 384) : BitVec 384 := sha384 (leBytes (look 0 s.trustMeas j).toNat 48 ++ leBytes d.toNat 48)
    let big (b : List Byte) (i : Nat) : Nat := natOfBytes ((b.drop (48 * i)).take 48).reverse
    let valid : Prop := sha384 w.key = Config.vendorKeyDigest
      ∧ ecdsaVerify (big w.key 0, big w.key 1) (sha384 image) (big w.sig 0) (big w.sig 1) = true
    (∃ t, exec (.firmwareBoot image w settings) s = .next t ∧ t.fwImage = image
      ∧ look 0 t.trustMeas 0 = m 0 Config.romDigest ∧ look 0 t.trustMeas 1 = m 1 (sha384 image)
      ∧ (valid → t = { s with trustMeas := t.trustMeas, fwImage := image, fwRunning := true, fwVersion := Config.imageVersion image }
        ∧ look 0 t.trustMeas 2 = m 2 settings)
      ∧ (¬ valid → t.fwRunning = false
        ∧ ∃ v, v = { s with trustMeas := t.trustMeas, fwImage := image, fwRunning := false } ∧ Reported v t 124 0 0))
    ∧ ∀ j : BitVec 8, (j.toNat < 4 ∨ 7 < j.toNat → exec (.trustExtend j d) s = .next s)
      ∧ (4 ≤ j.toNat → j.toNat ≤ 7 → ∃ t, exec (.trustExtend j d) s = .next t ∧ t = { s with trustMeas := t.trustMeas }
        ∧ ∀ i, look 0 t.trustMeas i = if i = j.toNat then m i d else look 0 s.trustMeas i))
  ∧ (∀ s : State,
    (s.trustAttest = 1 → exec .trustAttest s = .next { s with attestNonce := s.trustNonce })
    ∧ (s.trustAttest ≠ 1 → ∃ t c, exec .trustAttest s = .next t ∧ s.cycle < c ∧ c ≤ s.cycle + 20000000
      ∧ t = later { s with serial := s.serial + 1, trustAttest := 1, attestNonce := s.trustNonce } c 4 none (.inl .attestReport))
    ∧ (s.trustAttest ≠ 1 → exec .attestReport s = .next s)
    ∧ (s.trustAttest = 1 →
      let body := leBytes s.attestNonce.toNat 32 ++ (List.range 8).flatMap (fun j => leBytes (look 0 s.trustMeas j).toNat 48)
        ++ leBytes Config.serial.toNat 8 ++ leBytes s.fwVersion.toNat 8
      exec .attestReport s = .next { s with trustAttest := 2, trustReport := body ++ identitySign (sha384 body) }
        ∧ (identitySign (sha384 body)).length = 96))
  ∧ (∀ s : State, (∃ t, exec (.thermal .inlet) s = .next t ∧ Reported s t 122 0 0)
    ∧ (∃ t, exec (.thermal .flow) s = .next t ∧ Reported s t 122 1 0)
    ∧ (∀ n : Fin 8, ∃ t, exec (.thermal (.die n)) s = .next t ∧ Reported { s with hot := true } t 122 n.val 0)
    ∧ exec .thermalRecovery s = .next { s with hot := false }
    ∧ (∀ n : Nat, ∃ t, exec (.powerFault n) s = .next t ∧ Reported s t 123 n 0)
    ∧ (∃ t, exec .mgmtWatchdog s = .next t ∧ Reported s t 125 0 0)
    ∧ (∀ n : Fin 8, ∃ t, exec (.dieOverheat n) s = .next t ∧ t.off = true ∧ t.mem = s.mem
      ∧ ∀ e ∈ s.launches, s.launch e.1 = e.2 →
        (e.2.stage = .closed → (t.launch e.1).stage = .retired ∧ (t.launch e.1).status = 3 ∧ (t.launch e.1).cause = 127)
        ∧ (e.2.stage = .running → (t.launch e.1).terminated = true))
    ∧ exec .moduleReset s = .next { State.reset with
        mem := s.mem, fresh := s.fresh, serial := s.serial, outbox := s.outbox
        ecc := s.ecc.filter fun e => match e.1 with | .slice .. => true | .hbm _ => true | _ => false })
  ∧ (∀ (r addr : Nat) (bs : List Byte) (s : State), s.ecc = [] → ∃ v t, exec (.debugWrite r addr bs) s = .next t
    ∧ Reported v t 126 r addr ∧ RegionIs s v r { s.region r with store := (v.region r).store }
    ∧ (∀ i b, bs[i]? = some b → addr + i < 2 ^ 21 → look 0 (v.region r).store (addr + i) = b)
    ∧ ∀ a, (a < addr ∨ addr + bs.length ≤ a ∨ 2 ^ 21 ≤ a) → look 0 (v.region r).store a = look 0 (s.region r).store a)
  ∧ ∀ (n : Nat) (s : State),
    (∃ t, exec (.wallClr n) s = .next t ∧ RegionIs s t n { s.region n with wall := 0 })
    ∧ (∃ t, exec (.ddaErrClr n) s = .next t ∧ RegionIs s t n { s.region n with ddaErr := 0 })
    ∧ (∃ t, exec (.winmissClr n) s = .next t ∧ SlotIs s t n { s.slot n with winmiss := 0, late := none })
    ∧ (∃ t, exec (.poisonOriginClr n) s = .next t ∧ SlotIs s t n { s.slot n with poison := 0, sinks := [], sinksOn := 0 })
    ∧ (∃ t, exec (.siteerrClr n) s = .next t ∧ SlotIs s t n { s.slot n with siteerr := 0 })
    ∧ (∃ t, exec (.accerrClr n) s = .next t ∧ ClusterIs s t n { s.cluster n with accerr := 0 })
    ∧ ∃ t, exec (.orphansClr n) s = .next t ∧ SliceIs s t n { s.slice n with orphans := 0 }

/-- R326 to R334: heartbeats, of which one off its phase or a second one is babbling, what each observation makes of a voter, with
a miss standing for its whole period, votes of 128 cycles, which may run side by side, the fence that three accusers
bring with its record and the causes of its launch and of a launch about to move there, and the appeals: a fourth within the hour
is refused for good, a matching signature readmits the cluster, and any other outcome leaves it fenced. That a beat of a period
already judged a miss is not on time, and that votes run side by side, are log entries 19 and 20. -/
def Obligations.VotersFenceAndReadmit : Prop :=
  ∀ (cl : Nat) (s : State), let c := s.cluster cl
    let next (t : State) (x : Cluster) : Prop := ClusterIs s t cl x
    let waking : Prop := c.gated = false ∧ ∃ w, c.wakeAt = some w ∧ s.cycle < w + 256
    ((c.launch = none → c.fencedAt = none → ¬ waking → ∃ t, exec (.clusterPowerGate cl) s = .next t
        ∧ next t { c with gated := true, voters := [], votes := [], told := [] })
      ∧ ((c.launch ≠ none ∨ c.fencedAt ≠ none ∨ waking) → exec (.clusterPowerGate cl) s = .next s))
    ∧ (let on : Prop := c.gated = false ∧ (∀ w, c.wakeAt = some w → w + 256 ≤ s.cycle) ∧ c.fencedAt = none
      let phase : Prop := s.cycle % 1024 = 8 * (cl % 128)
      (¬ on → exec (.heartbeat cl) s = .next s)
      ∧ (on → ∃ t ob, exec (.heartbeat cl) s = .next t
        ∧ t = { s with clusters := t.clusters, agenda := s.agenda ++ ([.north, .east, .south, .west].map fun d =>
            dueOf (s.cycle + 4) 125 none (.inl (.heartbeatJudge cl d ob))) }
        ∧ (phase → c.beatAt ≠ some s.cycle → ob = .onTime) ∧ (¬ phase ∨ c.beatAt = some s.cycle → ob = .babbling)
        ∧ (∀ j, j ≠ cl → t.cluster j = s.cluster j) ∧ t.cluster cl = { c with voters := (t.cluster cl).voters, beatAt := some s.cycle }
        ∧ (phase → ∀ i < 4, (t.cluster cl).voters.find? (·.1 == i) = some ((c.voters.find? (·.1 == i)).getD (i, .trusting)))
        ∧ (¬ phase → (t.cluster cl).voters = c.voters)))
    ∧ (∀ (d : Dir) (ob : Observed) (v : VoterState), c.voters.find? (·.1 == sideIdx d) = some (sideIdx d, v) →
        s.voterRuns cl d = true → let period := (s.cycle + 1024 - 8 * (cl % 128)) / 1024 + 1
        let x : Cluster := if ob = .miss then { c with missed := put c.missed (sideIdx d) period } else c
        (ob = .onTime → look 0 c.missed (sideIdx d) = period → exec (.heartbeatJudge cl d ob) s = .next s)
        ∧ ((ob ≠ .onTime ∨ look 0 c.missed (sideIdx d) ≠ period) → match nextVoter v ob with
          | some w => ∃ t vs, exec (.heartbeatJudge cl d ob) s = .next t ∧ next t { x with voters := vs }
              ∧ vs.find? (·.1 == sideIdx d) = some (sideIdx d, w) ∧ ∀ j, j ≠ sideIdx d → vs.find? (·.1 == j) = c.voters.find? (·.1 == j)
          | none => ∃ t, exec (.heartbeatJudge cl d ob) s = .next t
              ∧ ClusterIs (later s (s.cycle + 1) 4 none (.inl (.vote cl))) t cl
                  { x with voters := put c.voters (sideIdx d) .accusing
                           reason := if c.voters.any (fun e => e.2 == .accusing) then c.reason else if ob = .miss then 1 else 2 }))
    ∧ (∀ d : Dir, ∃ v w, exec (.babble cl d) s = .next (later w (s.cycle + 8) 4 none (.inr (.babbleMark cl)))
        ∧ Reported v w 108 cl 0 ∧ next v { c with fence1 := (v.cluster cl).fence1 }
        ∧ ∀ i < 4, fDrops (v.cluster cl).fence1 i = if i = sideIdx d then min 65535 (fDrops c.fence1 i + 1) else fDrops c.fence1 i)
    ∧ (let ends := s.cycle + 128
      let starts : Prop := c.fencedAt = none ∧ s.accusers cl ≠ 0 ∧ ∀ v ∈ c.votes, v.1 ≠ ends
      (starts → ∃ t, exec (.vote cl) s = .next t ∧ ClusterIs (later s ends 4 none (.inl (.voteFence cl []))) t cl
          { c with votes := c.votes ++ [(ends, s.accusers cl)] })
      ∧ (¬ starts → exec (.vote cl) s = .next s))
    ∧ (c.votes = [] → exec (.voteFence cl []) s = .next s)
    ∧ (∀ t0 bits rest, c.votes = (t0, bits) :: rest → bits < 16 →
      (s.cycle < t0 → exec (.voteFence cl []) s = .next s)
      ∧ (t0 ≤ s.cycle → bitsSet bits < 3 → ∃ t, exec (.voteFence cl []) s = .next t
        ∧ t = { s with clusters := t.clusters, log := t.log, logCnt := t.logCnt }
        ∧ t.cluster cl = { c with votes := rest, told := (t.cluster cl).told } ∧ (∀ j, j ≠ cl → t.cluster j = s.cluster j)
        ∧ (∀ i < 4, i ∈ (t.cluster cl).told ↔ i ∈ c.told ∨ bits / 2 ^ (3 - i) % 2 = 1)
        ∧ t.logCnt = s.logCnt + BitVec.ofNat 32 ((List.range 4).filter fun i => bits / 2 ^ (3 - i) % 2 == 1 && !c.told.contains i).length)
      ∧ (t0 ≤ s.cycle → 3 ≤ bitsSet bits → (∃ d, s.voterRuns cl d = true) → ∃ t, exec (.voteFence cl []) s = .next t
        ∧ (t.cluster cl).fencedAt = some s.cycle ∧ (t.cluster cl).shut = true ∧ (t.cluster cl).voters = [] ∧ (t.cluster cl).votes = []
        ∧ fState (t.cluster cl).fence0 = 1 ∧ fVotes (t.cluster cl).fence0 = bits ∧ fCycle (t.cluster cl).fence0 = s.cycle % 2 ^ 48
        ∧ (t.cluster cl).fence0.toNat / 2 ^ 60 % 4 = c.reason % 4
        ∧ fAppeals (t.cluster cl).fence0 = fAppeals c.fence0 ∧ t.mem = s.mem
        ∧ (∀ a ∈ t.accs, a.elem / 16 = cl → a.st = .performed)
        ∧ ((∀ k, (s.slot k).ended = false) → ∀ l, (c.launch = some l ∨ l ∈ s.plannedOn cl) →
            ∀ k ∈ s.slotKeys l, (s.slot k).bound = true → Raises t k 97 6)
        ∧ dueOf (s.cycle + 2000000) 4 none (.inl (.appealStart cl)) ∈ t.agenda))
    ∧ (c.fencedAt ≠ none → fState c.fence0 = 1 →
      (fAppeals c.fence0 = 3 → ∃ v t, exec (.appealStart cl) s = .next t ∧ Reported v t 110 cl c.fence0.toNat
        ∧ next v { c with fence0 := (3 : BitVec 2) ++ c.fence0.setWidth 62 })
      ∧ (fAppeals c.fence0 < 3 → ∃ t, exec (.appealStart cl) s = .next t
        ∧ t = { s with clusters := t.clusters, agenda := t.agenda, serial := s.serial + 1 } ∧ (∀ j, j ≠ cl → t.cluster j = s.cluster j)
        ∧ t.cluster cl = { c with fence0 := (t.cluster cl).fence0 } ∧ fState (t.cluster cl).fence0 = 2
        ∧ fAppeals (t.cluster cl).fence0 = fAppeals c.fence0 + 1 ∧ fVotes (t.cluster cl).fence0 = fVotes c.fence0
        ∧ dueOf (s.cycle + 7200000000000) 4 none (.inl (.appealsExpiry cl)) ∈ t.agenda))
    ∧ (∃ t, exec (.appealsExpiry cl) s = .next t ∧ next t { c with fence0 := (t.cluster cl).fence0 }
        ∧ fAppeals (t.cluster cl).fence0 = fAppeals c.fence0 - 1 ∧ fState (t.cluster cl).fence0 = fState c.fence0)
    ∧ (fState c.fence0 = 2 → let tested (t : State) : Prop := (∀ e < 16, t.elem (16 * cl + e) = {}) ∧ (t.cluster cl).tiles = []
          ∧ (t.cluster cl).wbytes = [] ∧ t.mem = s.mem ∧ ∀ j, j ≠ cl → t.cluster j = s.cluster j
      ((∀ d, s.voterRuns cl d = true) → ∃ t, exec (.appealVerdict cl (some (Config.romSignature cl)) []) s = .next t ∧ tested t
        ∧ (t.cluster cl).fencedAt = none ∧ fState (t.cluster cl).fence0 = 0
        ∧ ∀ i < 4, (t.cluster cl).voters.find? (·.1 == i) = some (i, .trusting))
      ∧ ∃ v t, exec (.appealVerdict cl none []) s = .next (later t (s.cycle + 2000000000) 4 none (.inl (.appealStart cl)))
        ∧ Reported v t 109 cl c.fence0.toNat ∧ tested v ∧ (v.cluster cl).fencedAt = c.fencedAt ∧ fState (v.cluster cl).fence0 = 1)

/-- R319 to R324: a GO names the halt cycle at or after tr + 8, and cancels a milestone that has not committed, with LAST 3; at the halt every running launch of the region stops, and
the halt is reported; the image is written and STATE becomes 2; a resume is refused with its cause, or restores and goes
on at a cycle that is th modulo 8; a kill ends its launch with `KILL` (119); pages are copied out under a halt, and
in again, as the GO named them, where each was copied out, its cluster is free and its image closes with its CRC-32. -/
def Obligations.RegionsHaltAndResume : Prop :=
  ∀ (r : Nat) (v : BitVec 64) (s : State), let g := s.region r
    let w := g.preempt
    let cmd := v.toNat / 2 ^ 61
    ((cmd ≠ 4 ∨ pState w ≠ 0) → exec (.preemptGo r v) s = .next s)
    ∧ (cmd = 4 → pState w = 0 → (∀ e ∈ s.launches, e.2.region = r → e.2.moving = none ∧ e.2.moveBy = none) →
      (∀ d ∈ s.loads, d.region = r → d.phase = true ∨ d.fresh = true) →
      let named (x : Launch) : Prop := x.region = r ∧ x.stage = .running ∧ mPend x.mstat = true ∧ x.committed = false
      ((∀ e ∈ s.launches, let x := s.launch e.1
          x.region = r → x.stage = .running → x.mload = none ∧ ¬ named x) → ∃ t, exec (.preemptGo r v) s = .next t
        ∧ RegionIs (later s (s.cycle + 8) 1 none (.inl (.regionHalt r))) t r
            { g with preempt := (t.region r).preempt, haltAt := s.cycle }
        ∧ pState (t.region r).preempt = 1 ∧ pOffset (t.region r).preempt = v.toNat / 2 ^ 44 % 2 ^ 12 * 4096)
      ∧ ∀ e ∈ s.launches, named (s.launch e.1) → (s.launch e.1).mload = none → (s.launch e.1).oldGen = none → ∃ t, exec (.preemptGo r v) s = .next t
        ∧ mPend (t.launch e.1).mstat = false ∧ mLast (t.launch e.1).mstat = 3)
    ∧ ((pState w ≠ 1 ∨ g.halted = true) → exec (.regionHalt r) s = .next s)
    ∧ (pState w = 1 → g.halted = false →
      (∀ m, s.pendingSwitch r = some m → exec (.regionHalt r) s = .next (later s (m + 1) 1 none (.inl (.regionHalt r))))
      ∧ (s.pendingSwitch r = none → ∃ v t, exec (.regionHalt r) s = .next t ∧ Reported v t 118 r 0
        ∧ (t.region r).halted = true ∧ (t.region r).thalt = s.cycle ∧ t.mem = s.mem
        ∧ (t.region r).preempt.toNat / 2 ^ 20 % 2 ^ 12 = (s.cycle - g.haltAt) % 2 ^ 12 ∧ pState (t.region r).preempt = 1
        ∧ ∀ e ∈ s.launches, s.launch e.1 = e.2 → e.2.region = r → e.2.stage = .running → (t.launch e.1).halted = true))
    ∧ (pState w = 1 → g.halted = true → s.settling r = false → ∃ t, exec (.imageSaveDone r) s = .next t
      ∧ t = { s with regions := t.regions, mem := t.mem, memOld := t.memOld, memOldAt := t.memOldAt, ecc := t.ecc }
      ∧ (∀ j, j ≠ r → t.region j = s.region j) ∧ t.region r = { g with preempt := (t.region r).preempt }
      ∧ pState (t.region r).preempt = 2
      ∧ ∀ i < (s.haltImage r).length, pOffset w + i < 2 ^ 24 → memByte t.mem (homePa r (pOffset w + i)) = (s.haltImage r).getD i 0)
    ∧ ((cmd ≠ 2 ∨ pState w ≠ 2) → exec (.preemptResume r v) s = .next s)
    ∧ (cmd = 2 → pState w = 2 → let off := v.toNat / 2 ^ 44 % 2 ^ 12 * 4096
      let b := s.homeRead r off haltBytes
      (∀ c, s.resumeFault r off b = some c → c < 128 → ∃ u t, exec (.preemptResume r v) s = .next t
        ∧ RegionIs s u r { g with preempt := (u.region r).preempt } ∧ pState (u.region r).preempt = 2
        ∧ pErr (u.region r).preempt = 128 + c ∧ (c = 68 → Reported u t 68 r 0) ∧ (c ≠ 68 → t = u))
      ∧ (s.resumeFault r off b = none → ∃ t tr, exec (.preemptResume r v) s = .next t ∧ t.mem = s.mem
        ∧ pState (t.region r).preempt = 3 ∧ s.cycle < tr ∧ tr ≤ s.cycle + 8 ∧ tr % 8 = g.thalt % 8
        ∧ t.agenda = s.agenda ++ [dueOf tr 1 none (.inl (.regionResume r))]))
    ∧ (pState w ≠ 3 → exec (.regionResume r) s = .next s)
    ∧ (pState w = 3 → ∃ t, exec (.regionResume r) s = .next t ∧ t.mem = s.mem
      ∧ (t.region r).halted = false ∧ pState (t.region r).preempt = 0 ∧ (∀ d ∈ t.frozen, d.region ≠ some r)
      ∧ (∀ d ∈ s.frozen, d.region = some r → (∀ k m n o v w l p, d.act ≠ .inr (.seqStore k m n o v w l p)) →
          (∀ y, d.act ≠ .inl (.ddaStep r y)) → { d with at_ := d.at_ + (s.cycle - g.thalt) } ∈ t.agenda)
      ∧ (∀ d ∈ s.frozen, d.region = some r → ∀ k m n o v w l p, d.act = .inr (.seqStore k m n o v w l p) →
          { d with at_ := d.at_ + (s.cycle - g.thalt), act := .inr (.seqStore k m n o v w (l + (s.cycle - g.thalt)) p) } ∈ t.agenda)
      ∧ ∀ e ∈ s.launches, s.launch e.1 = e.2 → e.2.region = r → e.2.stage ≠ .retired → (t.launch e.1).halted = false)
    ∧ (cmd ≠ 1 → exec (.preemptKill r v) s = .next s)
    ∧ (cmd = 1 → let k := slotKey r (v.toNat / 2 ^ 58 % 8)
      (s.slot k).bound = true → (s.launch (s.slot k).launch).stage = .running →
      (s.launch (s.slot k).launch).terminated = false → ∃ t, exec (.preemptKill r v) s = .next t ∧ t.mem = s.mem
        ∧ (t.launch (s.slot k).launch).terminated = true ∧ (t.launch (s.slot k).launch).cause = 119
        ∧ (t.launch (s.slot k).launch).cslot = v.toNat / 2 ^ 58 % 8)
    ∧ (let q := g.pagecopy0
      let go := v.toNat / 2 ^ 63 = 1
      let into := v.toNat / 2 ^ 62 % 2 = 1
      let pages (i : Nat) : Prop := v.toNat / 2 ^ (32 + i) % 2 = 1
      let list : List Nat := (List.range 28).filter fun i => v.getLsbD (32 + i)
      let base := g.pagecopy1.toNat / 2 ^ 21 % 2 ^ 31 * 2 ^ 21
      let ready : Prop := pState w = 2 ∧ (g.pagecopy1.toNat / 2 ^ 21 % 2 ^ 31 + ((List.range 28).filter fun i => v.getLsbD (32 + i)).length) * 2 ^ 21 ≤ hbmBytes
      ((¬ go ∨ into ∨ cState q = 1) → exec (.pagecopyOut r v) s = .next s)
      ∧ ((¬ go ∨ ¬ into ∨ cState q = 1) → exec (.pagecopyIn r v) s = .next s)
      ∧ (go → ¬ into → cState q ≠ 1 → ∃ t, exec (.pagecopyOut r v) s = .next t
        ∧ RegionIs s t r { g with pagecopy0 := (t.region r).pagecopy0, copyJob := (t.region r).copyJob }
        ∧ cPages (t.region r).pagecopy0 = v.toNat / 2 ^ 32 % 2 ^ 28
        ∧ (let ok : Prop := ready ∧ ∀ i < 28, pages i → s.haltedPage (28 * r + i) = true
          (ok → cState (t.region r).pagecopy0 = 1 ∧ (t.region r).copyJob = (false, list, base))
          ∧ (¬ ok → cState (t.region r).pagecopy0 = 3 ∧ cCause (t.region r).pagecopy0 = 10)))
      ∧ (go → into → cState q ≠ 1 → let swapped : Prop := ∀ i < 28, pages i → (s.swapAt (28 * r + i)).isSome = true
        let free : Prop := ∀ i < 28, pages i → s.freeCluster (28 * r + i) = true
        let image (n : Nat) : List Byte := s.nodeRead (base + 2 ^ 21 * n) (2 ^ 21)
        let whole : Prop := ∀ n < list.length, natOfBytes ((image n).drop (2 ^ 21 - 4)) = crc32 ((image n).take (2 ^ 21 - 4))
          ∧ s.memBad (base + 2 ^ 21 * n) (2 ^ 21) = false
        let refused (cause : Nat) : Prop := ∃ t, exec (.pagecopyIn r v) s = .next t
          ∧ RegionIs s t r { g with pagecopy0 := (t.region r).pagecopy0 }
          ∧ cState (t.region r).pagecopy0 = 3 ∧ cCause (t.region r).pagecopy0 = cause
        (¬ (ready ∧ swapped) → refused 10) ∧ (ready → swapped → ¬ free → refused 6)
        ∧ (ready → swapped → free → ¬ whole → refused 12)
        ∧ (ready → swapped → free → whole → ∃ t, exec (.pagecopyIn r v) s = .next t
          ∧ t = { s with regions := t.regions, clusters := t.clusters } ∧ (∀ j, j ≠ r → t.region j = s.region j)
          ∧ t.region r = { g with pagecopy0 := (t.region r).pagecopy0, copyJob := (true, list, base) }
          ∧ cState (t.region r).pagecopy0 = 1 ∧ cPages (t.region r).pagecopy0 = v.toNat / 2 ^ 32 % 2 ^ 28
          ∧ (∀ i < 28, pages i → ∀ k es, s.swapAt (28 * r + i) = some (k, es) → t.cluster (28 * r + i)
              = { s.cluster (28 * r + i) with launch := k.launch, page := k.page, saggar := k.saggar, armed := false })
          ∧ ∀ c, (∀ i < 28, pages i → c ≠ 28 * r + i) → t.cluster c = s.cluster c))
      ∧ (cState q ≠ 1 → exec (.pagecopyDone r) s = .next s)
      ∧ (∀ dir ps at_, cState q = 1 → g.copyJob = (dir, ps, at_) → ps.Nodup → (∀ i ∈ ps, i < 28) →
        (dir = false → (∃ i ∈ ps, s.repliesDue (28 * r + i) = true) → exec (.pagecopyDone r) s = .next s)
        ∧ (dir = false → (∀ i ∈ ps, s.repliesDue (28 * r + i) = false) → ∃ t, exec (.pagecopyDone r) s = .next t
          ∧ cState (t.region r).pagecopy0 = 2 ∧ MemSameBut s t at_ (2 ^ 21 * ps.length)
          ∧ ∀ i ∈ ps, s.haltedPage (28 * r + i) = true → (t.cluster (28 * r + i)).launch = none
            ∧ (t.cluster (28 * r + i)).saggar = 0xFFF
            ∧ t.swapAt (28 * r + i) = some (s.cluster (28 * r + i), (List.range 16).map fun e => s.elem (16 * (28 * r + i) + e)))
        ∧ (dir = true → ∃ t, exec (.pagecopyDone r) s = .next t ∧ cState (t.region r).pagecopy0 = 2 ∧ t.mem = s.mem
          ∧ ∀ i ∈ ps, ∀ k es, s.swapAt (28 * r + i) = some (k, es) → es.length = 16 →
            (t.cluster (28 * r + i)).launch = k.launch ∧ (t.cluster (28 * r + i)).tiles = k.tiles
              ∧ ∀ e < 16, t.elem (16 * (28 * r + i) + e) = es.getD e {})))

/-! ## The machine as a whole -/

/-- R91 to R103: a well-formed word is read back from its encoding, with every operand at every value it admits. -/
def Obligations.EncodingsRoundTrip : Prop :=
  ∀ i, wellFormed i = true →
    (∀ w, encodeSched i = some w → decodeSched w = .ok i) ∧ (∀ w, encodeCtrl i = some w → decodeCtrl w = .ok i)

/-- R87: every step answers a next state, with memory in its canonical form and the power budget at most 380,000 µJ. -/
def Obligations.EveryStepKeepsTheInvariant : Prop :=
  ∀ s, StateInv s → ∃ t, step s = .next t ∧ StateInv t

/-- R19, R39, R46, R75, R87, R227, R256, R293, R304, R308, R333, R343, R346, R355, R357, R360: what module reset leaves. The
invariant holds. -/
def Obligations.ResetLeavesTheSpecsValues : Prop :=
  let s := State.reset
  StateInv s ∧ s.cycle = 0 ∧ s.kilnBudget.toNat = 380000 ∧ s.kilnBase.toNat = 116000 ∧ s.kilnReserved = 0 ∧ s.kilnWindow = 0
    ∧ s.logCnt = 0 ∧ s.outbox = [] ∧ s.launches = []
    ∧ (∀ p, (s.port p).prio = 0 ∧ (s.port p).dropped = 0 ∧ (s.port p).lastErr = 0 ∧ (s.port p).stream = none)
    ∧ (∀ k, (s.slot k).fmt = 0x8000 ∧ (s.slot k).bound = false ∧ (s.slot k).tvec = 0 ∧ (s.slot k).epc = 0
      ∧ (s.slot k).cause = 0 ∧ (s.slot k).tval = 0 ∧ (s.slot k).poison = 0 ∧ (s.slot k).siteerr = 0)
    ∧ (∀ n, (s.cluster n).saggar = 0xFFF ∧ (s.cluster n).launch = none ∧ (s.cluster n).fence0 = 0 ∧ (s.cluster n).fence1 = 0)
    ∧ (∀ r, (s.region r).lastGen = 0 ∧ (s.region r).copies = [] ∧ (s.region r).preempt = 0 ∧ (s.region r).winstretch = 0
      ∧ (s.region r).wall = 0 ∧ (s.region r).ddaErr = 0 ∧ (s.region r).ddaOwner = none
      ∧ ∀ h, handleBits (s.handle r h) = 0x80)
    ∧ (∀ x, (s.slice x).slots = 0xFA550000 ∧ (s.slice x).orphans = 0 ∧ ∀ w, look false (s.slice x).fe w = false)
    ∧ ∀ n, look 0 s.hostSem n = 0 ∧ look 0 s.peerStat n = 0 ∧ look 0 s.log n = 0 ∧ look 0 s.trustMeas n = 0

/-- R107, R120, R123: a step at a slot's turn executes the instruction that the bytes at its PC decode to, in the state in
which the turn has passed to the next region; a step at the beats executes what the word of the cycle's next beat decodes to,
at its element, with the errors it meets corrected (R144), unless the element's cluster is fenced (R331), and notes what it
changed (R306). Either adds the operation's energy to the launch's count of the window (R347). A word that does not decode, or
whose target lies outside its program, is not executed: `RSV_MAJOR` (112) or `ILLEGAL_MINOR` (113) at point F; a PC past the
program is `PC_RANGE` (26). Words written out from the encoding tables decode to their instructions. -/
def Obligations.AStepRunsTheDecodedInstruction : Prop :=
  (∀ (s : State) (r : Nat), s.off = false → s.phase = .ctrl r → s.ecc = [] → TakesTurn s r →
    let key := 8 * r + s.cycle % 8
    let sl := s.slot key
    let fate (num kind : Nat) : Prop :=
      step s = .next (({ s with phase := phaseAfter r, ctx := {} } : State).raiseNow key { num := num, kind := kind })
    ((s.kernelAt key).words ≤ sl.pc.toNat → fate 26 0)
    ∧ (sl.pc.toNat < (s.kernelAt key).words →
      (decodeBytes (wordBytes s key) = .error .rsvMajor → fate 112 5)
      ∧ (∀ e, decodeBytes (wordBytes s key) = .error e → e ≠ .rsvMajor → fate 113 5)
      ∧ ∀ i, decodeBytes (wordBytes s key) = .ok i →
        (branchInside sl.pc.toNat (s.kernelAt key).words i = false → fate 113 5)
        ∧ (branchInside sl.pc.toNat (s.kernelAt key).words i = true → ∃ v u : State,
          SlotIs { s with phase := phaseAfter r, ctx := { region := r, slot := s.cycle % 8 } } v key { sl with wait := .none }
          ∧ LaunchIs { v with counted := v.counted + Config.opEnergy i } u sl.launch
              { v.launch sl.launch with drawn := (v.launch sl.launch).drawn + Config.opEnergy i }
          ∧ step s = exec i u)))
  ∧ (∀ (s : State) (f : Flight) (i : Instr), s.off = false → s.phase = .beat → nextBeat s.cycle s.flights none = some f →
    s.elemRuns (elemAt f.region f.row f.col) = true → decodeSched f.word = .ok i → ∃ u t : State,
    (s.ecc = [] → LaunchIs { s.atBeat f with counted := s.counted + Config.opEnergy i } u f.launch
      { s.launch f.launch with drawn := (s.launch f.launch).drawn + Config.opEnergy i })
    ∧ u = ((s.atBeat f).mendBeat i).count f.launch i
    ∧ exec i u = .next t ∧ step s = .next (t.noteBeat f u) ∧ t.noteBeat f u = { t with undo := (t.noteBeat f u).undo })
  ∧ decodeSched 0x0500118100A000000001#80 = .ok (.add .i32 { colF := 1, colL := 3, a := .nbr .west 0, b := .imm, imm := 1 })
  ∧ decodeSched 0x40C00060050010000021#80 = .ok (.sts .n8 { dst := .site, a := .g 5, predMask := 2, imm := 0x0021 })
  ∧ decodeCtrl 0x1C02980000#40 = .ok (.loop 5 6)
  ∧ decodeCtrl 0x2822140000#40 = .ok (.dstep 4 5 0)
  ∧ decodeCtrl 0x00739CC000#40 = .ok (.seqXor 7 7 6)
end

