-- ==== Sys2Proof/Laws/Maps.lean ====
section
/-! SUPPORT. Laws of sparse storage and of memory: what a read gives after a write, and that every memory operation keeps
the canonical form. -/

namespace Sys2Proof.Machine

/-! ## Sparse storage -/

@[simp] theorem look_put_self {α : Type} (d : α) (m : Map α) (k : Nat) (v : α) : look d (put m k v) k = v := by
  induction m with
  | nil => simp [put, look]
  | cons e m ih =>
    simp only [put]
    split
    · simp [look]
    · split
      · simp [look]
      · next h => simp [look, Ne.symm h, ih]

theorem look_put_ne {α : Type} (d : α) (m : Map α) (k j : Nat) (v : α) (h : j ≠ k) : look d (put m k v) j = look d m j := by
  induction m with
  | nil => simp [put, look, Ne.symm h]
  | cons e m ih =>
    simp only [put]
    split
    · simp [look, Ne.symm h]
    · split
      · next e' => subst e'; simp [look, Ne.symm h]
      · simp [look, ih]

theorem look_put {α : Type} (d : α) (m : Map α) (k j : Nat) (v : α) :
    look d (put m k v) j = if j = k then v else look d m j := by
  split
  · next h => subst h; simp
  · next h => exact look_put_ne d m k j v h

@[simp] theorem look_del_self {α : Type} (d : α) (m : Map α) (k : Nat) : look d (del m k) k = d := by
  induction m with
  | nil => rfl
  | cons e m ih =>
    simp only [del]
    split
    · exact ih
    · next h => simp [look, h, ih]

theorem look_del_ne {α : Type} (d : α) (m : Map α) (k j : Nat) (h : j ≠ k) : look d (del m k) j = look d m j := by
  induction m with
  | nil => rfl
  | cons e m ih =>
    simp only [del]
    split
    · next e' => simp [look, e', Ne.symm h, ih]
    · simp [look, ih]

/-! ## Bytes of memory -/

@[simp] theorem memByte_memPut_self (m : List Host.Cell) (a : Nat) (b : Byte) : memByte (memPut m a b) a = b := by
  unfold memByte memPut
  split
  · next h => simp [h]
  · simp

theorem memByte_memPut_ne (m : List Host.Cell) (a c : Nat) (b : Byte) (h : c ≠ a) :
    memByte (memPut m a b) c = memByte m c := by
  unfold memByte memPut
  split
  · exact look_del_ne _ _ _ _ h
  · exact look_put_ne _ _ _ _ _ h

/-- A run of bytes written changes no byte outside it. -/
theorem memByte_memWrite_outside (bs : List Byte) (m : List Host.Cell) (a c : Nat) (h : c < a ∨ a + bs.length ≤ c) :
    memByte (memWrite m a bs) c = memByte m c := by
  induction bs generalizing m a with
  | nil => rfl
  | cons b bs ih =>
    simp only [memWrite]
    rw [ih _ _ (by simp at h; omega), memByte_memPut_ne _ _ _ _ (by simp at h; omega)]

/-- A run of bytes reads back as written. -/
theorem memRead_memWrite (bs : List Byte) (m : List Host.Cell) (a : Nat) : memRead (memWrite m a bs) a bs.length = bs := by
  induction bs generalizing m a with
  | nil => rfl
  | cons b bs ih =>
    simp only [memWrite, List.length_cons, memRead]
    rw [ih, memByte_memWrite_outside _ _ _ _ (by omega), memByte_memPut_self]

/-! ## The canonical form -/

/-- The canonical form of a memory whose first address lies above a bound. -/
def wfFrom (lo : Nat) : List Host.Cell → Prop
  | [] => True
  | (a, b) :: m => lo ≤ a ∧ b ≠ memDefault ∧ wfFrom (a + 1) m

theorem wfFrom_mono {lo lo' : Nat} (h : lo' ≤ lo) : ∀ {m : List Host.Cell}, wfFrom lo m → wfFrom lo' m
  | [], _ => trivial
  | _ :: _, ⟨h1, h2, h3⟩ => ⟨Nat.le_trans h h1, h2, h3⟩

theorem wf_cons (a : Nat) (b : Byte) (m : List Host.Cell) :
    Memory.wf ((a, b) :: m) = true ↔ b ≠ memDefault ∧ wfFrom (a + 1) m := by
  induction m generalizing a b with
  | nil => simp [Memory.wf, wfFrom]
  | cons e m ih =>
    obtain ⟨a', b'⟩ := e
    simp only [Memory.wf, Bool.and_eq_true, decide_eq_true_eq, bne_iff_ne, ne_eq, wfFrom, ih]
    constructor
    · rintro ⟨⟨h1, h2⟩, h3, h4⟩; exact ⟨h2, h1, h3, h4⟩
    · rintro ⟨h2, h1, h3, h4⟩; exact ⟨⟨h1, h2⟩, h3, h4⟩

theorem wf_iff (m : List Host.Cell) : Memory.wf m = true ↔ wfFrom 0 m := by
  cases m with
  | nil => simp [Memory.wf, wfFrom]
  | cons e m => obtain ⟨a, b⟩ := e; rw [wf_cons]; simp [wfFrom]

theorem wfFrom_put (k : Nat) (v : Byte) (hv : v ≠ memDefault) :
    ∀ (lo : Nat) (m : List Host.Cell), lo ≤ k → wfFrom lo m → wfFrom lo (put m k v)
  | lo, [], hk, _ => ⟨hk, hv, trivial⟩
  | lo, (j, w) :: m, hk, ⟨h1, h2, h3⟩ => by
    simp only [put]
    split
    · next h => exact ⟨hk, hv, h, h2, h3⟩
    · split
      · next h => subst h; exact ⟨hk, hv, h3⟩
      · exact ⟨h1, h2, wfFrom_put k v hv (j + 1) m (by omega) h3⟩

theorem wfFrom_del (k : Nat) : ∀ (lo : Nat) (m : List Host.Cell), wfFrom lo m → wfFrom lo (del m k)
  | _, [], _ => trivial
  | lo, (j, w) :: m, ⟨h1, h2, h3⟩ => by
    simp only [del]
    split
    · exact wfFrom_mono (by omega) (wfFrom_del k (j + 1) m h3)
    · exact ⟨h1, h2, wfFrom_del k (j + 1) m h3⟩

theorem memPut_wf {m : List Host.Cell} (h : Memory.wf m = true) (a : Nat) (b : Byte) : Memory.wf (memPut m a b) = true := by
  rw [wf_iff] at *
  unfold memPut
  split
  · exact wfFrom_del a 0 m h
  · next hb => exact wfFrom_put a b hb 0 m (Nat.zero_le _) h

theorem memWrite_wf (bs : List Byte) : ∀ {m : List Host.Cell}, Memory.wf m = true → ∀ a, Memory.wf (memWrite m a bs) = true := by
  induction bs with
  | nil => intro m h a; exact h
  | cons b bs ih => intro m h a; exact ih (memPut_wf h a b) (a + 1)

theorem memPuts_wf (bs : List (Nat × Byte)) :
    ∀ {m : List Host.Cell}, Memory.wf m = true → Memory.wf (bs.foldl (fun m b => memPut m b.1 b.2) m) = true := by
  induction bs with
  | nil => intro m h; exact h
  | cons b bs ih => intro m h; exact ih (memPut_wf h b.1 b.2)

/-! ## Records by key: what an update changes and what it leaves -/

@[simp] theorem slot_setSlot_self (s : State) (k : Nat) (x : Slot) : (s.setSlot k x).slot k = x := look_put_self _ _ _ _
theorem slot_setSlot (s : State) (k j : Nat) (x : Slot) : (s.setSlot k x).slot j = if j = k then x else s.slot j :=
  look_put _ _ _ _ _
theorem elem_setElem (s : State) (k j : Nat) (x : Elem) : (s.setElem k x).elem j = if j = k then x else s.elem j :=
  look_put _ _ _ _ _
@[simp] theorem elem_setElem_self (s : State) (k : Nat) (x : Elem) : (s.setElem k x).elem k = x := look_put_self _ _ _ _
theorem cluster_setCluster (s : State) (k j : Nat) (x : Cluster) :
    (s.setCluster k x).cluster j = if j = k then x else s.cluster j := look_put _ _ _ _ _
@[simp] theorem cluster_setCluster_self (s : State) (k : Nat) (x : Cluster) : (s.setCluster k x).cluster k = x :=
  look_put_self _ _ _ _
theorem region_setRegion (s : State) (k j : Nat) (x : Region) : (s.setRegion k x).region j = if j = k then x else s.region j :=
  look_put _ _ _ _ _
@[simp] theorem region_setRegion_self (s : State) (k : Nat) (x : Region) : (s.setRegion k x).region k = x :=
  look_put_self _ _ _ _
theorem launch_setLaunch (s : State) (k j : Nat) (x : Launch) : (s.setLaunch k x).launch j = if j = k then x else s.launch j :=
  look_put _ _ _ _ _
@[simp] theorem launch_setLaunch_self (s : State) (k : Nat) (x : Launch) : (s.setLaunch k x).launch k = x :=
  look_put_self _ _ _ _
theorem slice_modSlice (s : State) (k j : Nat) (f : Slice → Slice) :
    (s.modSlice k f).slice j = if j = k then f (s.slice k) else s.slice j := look_put _ _ _ _ _
theorem port_modPort (s : State) (k j : Nat) (f : Port → Port) :
    (s.modPort k f).port j = if j = k then f (s.port k) else s.port j := look_put _ _ _ _ _
theorem point_setPoint (s : State) (l w l' w' : Nat) (x : Point) :
    (s.setPoint l w x).point l' w' = if 24 * l' + w' = 24 * l + w then x else s.point l' w' := look_put _ _ _ _ _

/-! ## The registers of a slot (R113) -/

theorem vec_get_set {α : Type} {n : Nat} (v : Vector α n) (i j : Fin n) (x : α) :
    (v.set i x).get j = if j = i then x else v.get j := by
  show (v.set i.val x)[j.val] = if j = i then x else v[j.val]
  rw [Vector.getElem_set]
  by_cases h : i.val = j.val
  · simp [Fin.ext h.symm]
  · rw [if_neg h, if_neg fun e => h (by rw [e])]

theorem areg_setA (sl : Slot) (d r : AReg) (v : Word) : (sl.setA d v).areg r = if r = d ∧ d ≠ 0 then v else sl.areg r := by
  unfold Slot.setA Slot.areg
  by_cases hd : d = 0
  · subst hd; by_cases hr : r = 0 <;> simp [hr]
  · by_cases hr : r = d
    · subst hr; simp [hd, vec_get_set]
    · simp [hd, hr, vec_get_set]

theorem kreg_setK (sl : Slot) (d r : KReg) (v : Bool) : (sl.setK d v).kreg r = if r = d ∧ d ≠ 0 then v else sl.kreg r := by
  unfold Slot.setK Slot.kreg
  by_cases hd : d = 0
  · subst hd; by_cases hr : r = 0 <;> simp [hr]
  · by_cases hr : r = d
    · subst hr; simp [hd, vec_get_set]
    · simp [hd, hr, vec_get_set]

@[simp] theorem areg_zero (sl : Slot) : sl.areg 0 = 0 := rfl
@[simp] theorem kreg_zero (sl : Slot) : sl.kreg 0 = true := rfl

end Sys2Proof.Machine
end

