-- ==== Sys2Proof/Laws/Ops.lean ====
section
/-! SUPPORT. One lemma for each shared operation, that says once everything it can do: which part of the state it may
change, and what stands there afterwards. -/

namespace Sys2Proof.Machine

/-! ## Records -/

theorem slotIs_setSlot (s : State) (k : Nat) (x : Slot) : SlotIs s (s.setSlot k x) k x :=
  ⟨rfl, slot_setSlot_self s k x, fun j h => by rw [slot_setSlot, if_neg h]⟩

theorem slotIs_modSlot (s : State) (k : Nat) (f : Slot → Slot) : SlotIs s (s.modSlot k f) k (f (s.slot k)) :=
  slotIs_setSlot s k _

theorem slotIs_setMe (s : State) (x : Slot) : SlotIs s (s.setMe x) s.key x := slotIs_setSlot s s.key x

theorem elemIs_setElem (s : State) (k : Nat) (x : Elem) : ElemIs s (s.setElem k x) k x :=
  ⟨rfl, elem_setElem_self s k x, fun j h => by rw [elem_setElem, if_neg h]⟩

theorem elemIs_modElem (s : State) (k : Nat) (f : Elem → Elem) : ElemIs s (s.modElem k f) k (f (s.elem k)) :=
  elemIs_setElem s k _

theorem clusterIs_modCluster (s : State) (k : Nat) (f : Cluster → Cluster) :
    ClusterIs s (s.modCluster k f) k (f (s.cluster k)) :=
  ⟨rfl, cluster_setCluster_self s k _, fun j h => by rw [State.modCluster, cluster_setCluster, if_neg h]⟩

theorem regionIs_modRegion (s : State) (k : Nat) (f : Region → Region) :
    RegionIs s (s.modRegion k f) k (f (s.region k)) :=
  ⟨rfl, region_setRegion_self s k _, fun j h => by rw [State.modRegion, region_setRegion, if_neg h]⟩

theorem launchIs_modLaunch (s : State) (k : Nat) (f : Launch → Launch) :
    LaunchIs s (s.modLaunch k f) k (f (s.launch k)) :=
  ⟨rfl, launch_setLaunch_self s k _, fun j h => by rw [State.modLaunch, launch_setLaunch, if_neg h]⟩

theorem sliceIs_modSlice (s : State) (k : Nat) (f : Slice → Slice) : SliceIs s (s.modSlice k f) k (f (s.slice k)) :=
  ⟨rfl, by rw [slice_modSlice, if_pos rfl], fun j h => by rw [slice_modSlice, if_neg h]⟩

theorem portIs_modPort (s : State) (k : Nat) (f : Port → Port) : PortIs s (s.modPort k f) k (f (s.port k)) :=
  ⟨rfl, by rw [port_modPort, if_pos rfl], fun j h => by rw [port_modPort, if_neg h]⟩

/-! ## A control word that writes one register, or only goes on (R113, R117) -/

theorem writeA_spec (s : State) (d : AReg) (v : Word) :
    ∃ x, SlotIs s (s.writeA d v) s.key x ∧ x.onlyA s.me ∧ ∀ r, x.areg r = if r = d ∧ d ≠ 0 then v else s.me.areg r := by
  refine ⟨_, slotIs_setMe s _, ?_, fun r => ?_⟩
  · unfold Slot.onlyA Slot.pcNext Slot.setA
    by_cases h : d = 0 <;> simp [h]
  · exact areg_setA s.me d r v

theorem writeK_spec (s : State) (d : KReg) (v : Bool) :
    ∃ x, SlotIs s (s.writeK d v) s.key x ∧ x.onlyK s.me ∧ ∀ r, x.kreg r = if r = d ∧ d ≠ 0 then v else s.me.kreg r := by
  refine ⟨_, slotIs_setMe s _, ?_, fun r => ?_⟩
  · unfold Slot.onlyK Slot.pcNext Slot.setK
    by_cases h : d = 0 <;> simp [h]
  · exact kreg_setK s.me d r v

theorem advance_spec (s : State) : SlotIs s s.advance s.key { s.me with pc := s.me.pc + 1 } := slotIs_setMe s _

/-! ## The agenda -/

/-- An entry that no halted launch owns, or that is due at once, stands last on the agenda; any other is stopped. -/
theorem due_spec (s : State) (at_ rank : Nat) (region : Option Nat) (act : Instr ⊕ Effect) :
    (s.due at_ rank region act = { s with agenda := s.agenda ++ [dueOf at_ rank region act] })
      ∨ (region.isSome = true ∧ s.cycle < at_ ∧ s.ownerHalted act = true
        ∧ s.due at_ rank region act = { s with frozen := s.frozen ++ [dueOf at_ rank region act] }) := by
  unfold State.due dueOf
  by_cases h : (region.isSome && decide (s.cycle < at_) && s.ownerHalted act) = true
  · simp only [h, if_true]
    simp only [Bool.and_eq_true, decide_eq_true_eq] at h
    exact Or.inr ⟨h.1.1, h.1.2, h.2, trivial⟩
  · simp [h]

theorem due_of_not_halted (s : State) (at_ rank : Nat) (region : Option Nat) (act : Instr ⊕ Effect)
    (h : s.ownerHalted act = false) :
    s.due at_ rank region act = { s with agenda := s.agenda ++ [dueOf at_ rank region act] } := by
  unfold State.due dueOf
  simp [h]

theorem due_of_no_region (s : State) (at_ rank : Nat) (act : Instr ⊕ Effect) :
    s.due at_ rank none act = { s with agenda := s.agenda ++ [dueOf at_ rank none act] } := rfl

/-- Only the agenda and the stopped entries change. -/
theorem due_frame (s : State) (at_ rank : Nat) (region : Option Nat) (act : Instr ⊕ Effect) :
    s.due at_ rank region act
      = { s with agenda := (s.due at_ rank region act).agenda, frozen := (s.due at_ rank region act).frozen } := by
  rcases due_spec s at_ rank region act with h | ⟨_, _, _, h⟩ <;> rw [h]

/-! ## The event log (R360) -/

theorem report_frame (s : State) (cause unit detail : Nat) :
    s.report cause unit detail = { s with log := (s.report cause unit detail).log, logCnt := s.logCnt + 1 } := rfl

/-! ## Exceptions (R306 to R316) -/

theorem foldl_modSlot_frame (f : Slot → Slot) (ks : List Nat) (s : State) :
    ks.foldl (fun s k => s.modSlot k f) s = { s with slots := (ks.foldl (fun s k => s.modSlot k f) s).slots } := by
  induction ks generalizing s with
  | nil => rfl
  | cons k ks ih => rw [List.foldl_cons, ih]; rfl

/-- A slot of the list has `f` applied, every other slot is as before, where applying `f` twice is as applying it once. -/
theorem foldl_modSlot_slot (f : Slot → Slot) (hf : ∀ x, f (f x) = f x) (ks : List Nat) (s : State) (j : Nat) :
    (ks.foldl (fun s k => s.modSlot k f) s).slot j = if j ∈ ks then f (s.slot j) else s.slot j := by
  induction ks generalizing s with
  | nil => rfl
  | cons k ks ih =>
    rw [List.foldl_cons, ih, State.modSlot, slot_setSlot]
    by_cases h : j = k
    · subst h; by_cases h' : j ∈ ks <;> simp [h', hf]
    · simp [h]

theorem terminate_frame (s : State) (l cause slot : Nat) :
    s.terminate l cause slot = { s with agenda := (s.terminate l cause slot).agenda, slots := (s.terminate l cause slot).slots,
                                        launches := (s.terminate l cause slot).launches } := by
  unfold State.terminate
  split
  · rfl
  · simp only [State.modLaunch, State.setLaunch]
    rw [foldl_modSlot_frame]

/-- A launch that has not ended yet ends: each of its slots stops, and its record takes the cause. -/
theorem terminate_spec (s : State) (l cause slot : Nat) (h : (s.launch l).terminated = false) :
    (∀ j, (s.terminate l cause slot).slot j = if j ∈ s.slotKeys l then (s.slot j).stopped else s.slot j)
    ∧ (s.terminate l cause slot).launch l
        = { s.launch l with terminated := true, status := 3, cause := cause, cslot := slot }
    ∧ ∀ m, m ≠ l → (s.terminate l cause slot).launch m = s.launch m := by
  unfold State.terminate
  simp only [h, Bool.false_eq_true, if_false]
  refine ⟨fun j => ?_, ?_, fun m hm => ?_⟩
  · show State.slot (List.foldl _ _ _) j = _
    rw [foldl_modSlot_slot Slot.stopped (fun _ => rfl)]
    rfl
  · rw [State.modLaunch, launch_setLaunch_self, foldl_modSlot_frame]
    rfl
  · rw [State.modLaunch, launch_setLaunch, if_neg hm, foldl_modSlot_frame]
    rfl

/-- A launch that has ended is not ended again. -/
theorem terminate_of_terminated (s : State) (l cause slot : Nat) (h : (s.launch l).terminated = true) :
    s.terminate l cause slot = s := by simp [State.terminate, h]

theorem terminateOff_frame (s : State) (key : Nat) (r : Raised) :
    s.terminateOff key r = { s with agenda := (s.terminateOff key r).agenda, slots := (s.terminateOff key r).slots,
                                    launches := (s.terminateOff key r).launches } := by
  unfold State.terminateOff
  split <;> rw [terminate_frame] <;> rfl

theorem deliver_frame (s : State) (key : Nat) (r : Raised) (epc : BitVec 24) :
    s.deliver key r epc = { s with agenda := (s.deliver key r epc).agenda, slots := (s.deliver key r epc).slots,
                                   launches := (s.deliver key r epc).launches } := by
  unfold State.deliver
  simp only []
  split
  · exact terminate_frame _ _ _ _
  · split
    · split
      · exact terminate_frame _ _ _ _
      · split <;> rfl
    · split
      · exact terminateOff_frame _ _ _
      · split
        · exact terminate_frame _ _ _ _
        · rfl

/-- Entering a handler: the record of the cause, EPC, the PC at ENTRY, and one cycle's delay; every other slot as before. -/
theorem deliver_enters (s : State) (key : Nat) (r : Raised) (epc : BitVec 24) (hc : causeClass r.num ≠ .T)
    (ha : (s.slot key).active = false) (ht : (s.slot key).trapOn = true)
    (he : (s.slot key).entry < (s.kernelAt key).words) :
    SlotIs { s with agenda := dropWord key s.agenda } (s.deliver key r epc) key
      { s.slot key with cause := causeWord r, tval := tvalWord r, epc := epc.setWidth 64,
                        pc := BitVec.ofNat 24 (s.slot key).entry, wait := .none, busy := s.cycle + 1 } := by
  unfold State.deliver
  simp only [hc, ha, ht, if_false, Bool.false_eq_true, Bool.not_true, Nat.not_le.mpr he]
  exact slotIs_setSlot _ _ _

theorem raise_frame (s : State) (key : Nat) (r : Raised) :
    s.raise key r = { s with agenda := (s.raise key r).agenda, slots := (s.raise key r).slots,
                             launches := (s.raise key r).launches } := by
  unfold State.raise
  simp only []
  split
  · rfl
  · split
    · split
      · rfl
      · exact terminate_frame _ _ _ _
    · rfl

/-- A cause kept for a live slot's next turn. -/
theorem raise_spec (s : State) (key : Nat) (r : Raised) (hb : (s.slot key).bound = true) (he : (s.slot key).ended = false) :
    SlotIs s (s.raise key r) key
      { s.slot key with raised := (s.slot key).raised ++ [if r.kind = 3 ∨ r.kind = 6 then { r with at_ := s.cycle } else r] } := by
  unfold State.raise
  simp only [hb, he, Bool.not_true, Bool.false_eq_true, if_false]
  exact slotIs_setSlot _ _ _

theorem raiseNow_frame (s : State) (key : Nat) (r : Raised) :
    s.raiseNow key r = { s with agenda := (s.raiseNow key r).agenda, slots := (s.raiseNow key r).slots,
                                launches := (s.raiseNow key r).launches } := by
  unfold State.raiseNow
  simp only []
  split
  · rfl
  · split
    · exact terminate_frame _ _ _ _
    · split
      · exact raise_frame _ _ _
      · exact deliver_frame _ _ _ _

theorem trapW_frame (s : State) (num code : Nat) :
    s.trapW num code = { s with agenda := (s.trapW num code).agenda, slots := (s.trapW num code).slots,
                                launches := (s.trapW num code).launches } := deliver_frame _ _ _ _

theorem rewind_frame (s : State) (key : Nat) (f : Flight) :
    s.rewind key f = { s with flights := killFlights key f.edge s.flights, slots := (s.rewind key f).slots } := by
  unfold State.rewind
  simp only []
  split <;> rfl

/-! ## Beats that do not perform (R306, point B) -/

/-- A state differs from another only in what taking beats back may change. -/
def OnlyBack (s t : State) : Prop := t = s.setBack t

theorem onlyBack_refl (s : State) : OnlyBack s s := rfl

theorem onlyBack_of {s t : State} (h : t = s.setBack t) : OnlyBack s t := h

theorem OnlyBack.trans {a b c : State} (h : OnlyBack a b) (g : OnlyBack b c) : OnlyBack a c := by
  unfold OnlyBack at *
  generalize hx : a.setBack b = x at h
  subst hx
  rw [h] at g
  exact g

theorem onlyBack_foldl {α : Type} (f : State → α → State) (hf : ∀ s x, OnlyBack s (f s x)) (l : List α) :
    ∀ s, OnlyBack s (l.foldl f s) := by
  induction l with
  | nil => exact onlyBack_refl
  | cons x l ih => exact fun s => (hf s x).trans (ih _)

theorem onlyBack_due (s : State) (n k : Nat) (r : Option Nat) (a : Instr ⊕ Effect) : OnlyBack s (s.due n k r a) := by
  unfold OnlyBack
  rw [due_frame]; rfl

/-- What taking one note back may change. -/
theorem takeBack_frame (s : State) (u : Undo) : s.takeBack u = s.setBack (s.takeBack u) := by
  have hh : ∀ s h, OnlyBack s (State.undoHandle u.key s h) := by
    intro s h; unfold State.undoHandle; split <;> exact onlyBack_of rfl
  have ha : ∀ s a, OnlyBack s (State.undoAdd s a) := fun _ _ => onlyBack_of rfl
  have hf : ∀ s b, OnlyBack s (State.undoFe s b) := by
    intro s b; unfold State.undoFe; split <;> exact onlyBack_of rfl
  have hr : ∀ s b, OnlyBack s (State.rehold s b) := by
    intro s b; unfold State.rehold; split
    · exact onlyBack_refl s
    · exact onlyBack_due ..
  have he : ∀ s e, OnlyBack s (State.undoElem s e) := fun _ _ => onlyBack_of rfl
  have hc : ∀ s c, OnlyBack s (State.undoCluster s c) := fun _ _ => onlyBack_of rfl
  have h1 : OnlyBack s (s.undoSent u) :=
    ((onlyBack_foldl _ hh u.handles s).trans (onlyBack_foldl _ ha u.adds _)).trans (onlyBack_of rfl)
  have h2 : OnlyBack (s.undoSent u) ((s.undoSent u).undoMem u) :=
    OnlyBack.trans (b := { s.undoSent u with mem := undoBytes u.mem (s.undoSent u).mem }) (onlyBack_of rfl)
      (onlyBack_foldl _ hf u.fe _)
  exact ((((h1.trans h2).trans (onlyBack_foldl _ hr u.beatsWas _)).trans (onlyBack_foldl _ he u.elems _)).trans
    (onlyBack_foldl _ hc u.clusters _)).trans (onlyBack_of rfl)

/-- What taking a slot's beats back may change: the notes go too. -/
theorem takeBackFrom_frame (s : State) (key edge : Nat) (keep : Option Nat) :
    s.takeBackFrom key edge keep
      = { s.setBack (s.takeBackFrom key edge keep) with undo := (s.takeBackFrom key edge keep).undo } := by
  unfold State.takeBackFrom
  simp only []
  have h : ∀ (l : List Undo) (x : State), OnlyBack x ((l.foldl State.takeBack x).modSlot key fun sl => sl.dropSinks edge) :=
    fun l x => (onlyBack_foldl _ (fun s u => takeBack_frame s u) l x).trans (onlyBack_of rfl)
  generalize s.undo.filter _ = l, s.undo.filter _ = l'
  have e := h l { s with undo := l' }
  generalize (l.foldl State.takeBack { s with undo := l' }).modSlot key (fun sl => sl.dropSinks edge) = t at e ⊢
  unfold OnlyBack at e
  rw [e]
  rfl

/-- Where no noted beat of the slot left at or after an edge cycle, only the sinks of such beats go. -/
theorem takeBackFrom_none (s : State) (key edge : Nat) (keep : Option Nat) (h : ∀ u ∈ s.undo, u.key = key → u.edge < edge) :
    s.takeBackFrom key edge keep = s.modSlot key fun sl => sl.dropSinks edge := by
  have h' : ∀ u ∈ s.undo, ∀ b : Bool, (u.key == key && decide (edge ≤ u.edge) && b) = false := by
    intro u hu b
    by_cases hk : u.key = key
    · simp [hk, Nat.not_le.mpr (h u hu hk)]
    · simp [hk]
  have h1 : s.undo.filter (fun u => u.key == key && decide (edge ≤ u.edge) && !(keep.isSome && u.edge == edge && u.elems.all fun e => keep == some (e.1 / 16))) = [] :=
    List.filter_eq_nil_iff.mpr fun u hu => by rw [h' u hu]; decide
  have h2 : s.undo.filter (fun u => !(u.key == key && decide (edge ≤ u.edge) && !(keep.isSome && u.edge == edge && u.elems.all fun e => keep == some (e.1 / 16)))) = s.undo :=
    List.filter_eq_self.mpr fun u hu => by rw [h' u hu]; rfl
  simp only [State.takeBackFrom, h1, h2, List.foldl_nil]

/-- What was done for a beat noted: nothing but the notes changes. -/
theorem note_frame (t : State) (key edge : Nat) (es cs : List Nat) (s : State) :
    t.note key edge es cs s = { t with undo := (t.note key edge es cs s).undo } := by
  unfold State.note
  split <;> rfl

/-- A beat noted: nothing but the notes changes. -/
theorem noteBeat_frame (t : State) (f : Flight) (s : State) : t.noteBeat f s = { t with undo := (t.noteBeat f s).undo } := by
  unfold State.noteBeat
  split
  · rfl
  · exact note_frame ..

theorem reportStored_frame (s : State) (num : Nat) :
    s.reportStored num = { s with log := (s.reportStored num).log, logCnt := (s.reportStored num).logCnt } := by
  unfold State.reportStored
  simp only []
  split
  · rfl
  · split <;> rfl

theorem trapB_frame (s : State) (num code : Nat) : s.trapB num code = s.setTrap (s.trapB num code) := by
  unfold State.trapB
  split
  · rfl
  · next f _ =>
    simp only []
    generalize (if num = 25 then some (s.ctx.elem / 16) else none) = keep
    have h1 := rewind_frame s s.key f
    generalize s.rewind s.key f = a at h1 ⊢
    have h2 := takeBackFrom_frame a s.key f.edge keep
    generalize a.takeBackFrom s.key f.edge keep = b at h2 ⊢
    have h4 := reportStored_frame b num
    generalize b.reportStored num = e at h4 ⊢
    generalize hc : ({ e with ctx := { e.ctx with failed := true } } : State) = c
    generalize ({ num := num, kind := 1, row := e.ctx.row, col := e.ctx.col, beat := f.beat, line := f.line, code := code } : Raised) = r
    have h3 := raiseNow_frame c c.key r
    generalize c.raiseNow c.key r = d at h3 ⊢
    rw [h3, ← hc, h4, h2, h1]
    rfl

/-! ## Memory (R272, R273) -/

theorem eccClear_frame (s : State) (as : List EccAt) : s.eccClear as = { s with ecc := (s.eccClear as).ecc } := by
  unfold State.eccClear
  split <;> rfl

/-- Clearing takes exactly the named words' entries out. -/
theorem mem_eccClear (s : State) (as : List EccAt) (e : EccAt × EccState) :
    e ∈ (s.eccClear as).ecc ↔ e ∈ s.ecc ∧ e.1 ∉ as := by
  unfold State.eccClear
  split
  · next h => simp [List.isEmpty_iff.mp h]
  · simp

theorem keepOld_frame (s : State) (as : List Nat) :
    s.keepOld as = { s with memOld := (s.keepOld as).memOld, memOldAt := s.cycle } := rfl

theorem memStore_frame (s : State) (a : Nat) (bs : List Byte) :
    s.memStore a bs = { s with mem := memWrite s.mem a bs, memOld := (s.memStore a bs).memOld, memOldAt := s.cycle,
                               ecc := (s.memStore a bs).ecc } := by
  unfold State.memStore
  simp only []
  split
  · rfl
  · generalize (if a < sliceBase then 64 else 8) = w
    split
    · rw [eccClear_frame]; rfl
    · rfl

/-- Bytes performed read back, every other byte is as before, and the canonical form stays. -/
theorem memStore_spec (s : State) (a : Nat) (bs : List Byte) :
    memRead (s.memStore a bs).mem a bs.length = bs ∧ MemSameBut s (s.memStore a bs) a bs.length
      ∧ (MemCanonical s → MemCanonical (s.memStore a bs)) := by
  have h : (s.memStore a bs).mem = memWrite s.mem a bs := by rw [memStore_frame]
  refine ⟨by rw [h]; exact memRead_memWrite _ _ _, fun c hc => ?_, fun hw => ?_⟩
  · rw [h]; exact memByte_memWrite_outside _ _ _ _ hc
  · unfold MemCanonical; rw [h]; exact memWrite_wf bs hw a

theorem memScatter_frame (s : State) (bs : List (Nat × Byte)) :
    s.memScatter bs = { s with mem := bs.foldl (fun m b => memPut m b.1 b.2) s.mem, memOld := (s.memScatter bs).memOld,
                               memOldAt := s.cycle } := rfl

theorem memScatter_outside (bs : List (Nat × Byte)) (m : List Host.Cell) (a : Nat) (h : ∀ e ∈ bs, e.1 ≠ a) :
    memByte (bs.foldl (fun m b => memPut m b.1 b.2) m) a = memByte m a := by
  induction bs generalizing m with
  | nil => rfl
  | cons b bs ih =>
    rw [List.foldl_cons, ih _ (fun e he => h e (List.mem_cons_of_mem _ he)),
      memByte_memPut_ne _ _ _ _ (fun e => h b (List.mem_cons_self ..) e.symm)]

theorem memScatter_canonical (s : State) (bs : List (Nat × Byte)) (h : MemCanonical s) : MemCanonical (s.memScatter bs) :=
  memPuts_wf bs h

/-! ## What a beat writes (R94, R132, R139, R152) -/

theorem look_putAll_outside {α : Type} (d : α) (l : List (Nat × α)) (m : Map α) (k : Nat) (h : ∀ e ∈ l, e.1 ≠ k) :
    look d (putAll m l) k = look d m k := by
  unfold putAll
  induction l generalizing m with
  | nil => rfl
  | cons e l ih =>
    rw [List.foldl_cons, ih _ (fun x hx => h x (List.mem_cons_of_mem _ hx)),
      look_put_ne _ _ _ _ _ (fun x => h e (List.mem_cons_self ..) x.symm)]

theorem look_putAll_mem {α : Type} (d : α) (l : List (Nat × α)) (m : Map α) (h : (l.map (·.1)).Nodup) :
    ∀ e ∈ l, look d (putAll m l) e.1 = e.2 := by
  unfold putAll
  induction l generalizing m with
  | nil => intro e he; exact absurd he List.not_mem_nil
  | cons x l ih =>
    simp only [List.map_cons, List.nodup_cons] at h
    intro e he
    rw [List.foldl_cons]
    rcases List.mem_cons.mp he with rfl | he
    · have := look_putAll_outside d l (put m e.1 e.2) e.1 fun y hy hk => h.1 (List.mem_map.mpr ⟨y, hy, hk⟩)
      unfold putAll at this
      rw [this, look_put_self]
    · exact ih _ h.2 e he

theorem eccAge_frame (s : State) (elem : Nat) (ls : List Nat) : s.eccAge elem ls = { s with ecc := (s.eccAge elem ls).ecc } := by
  unfold State.eccAge
  split <;> rfl

/-- A state differs from another only in what a write of results reaches: the element under way, the protection of its words
and, for the return register, the agenda. -/
def OnlyDst (s t : State) : Prop := t = { s with elems := t.elems, ecc := t.ecc, agenda := t.agenda, frozen := t.frozen }

theorem OnlyDst.trans {a b c : State} (h : OnlyDst a b) (g : OnlyDst b c) : OnlyDst a c := by
  unfold OnlyDst at *
  generalize hx : ({ a with elems := b.elems, ecc := b.ecc, agenda := b.agenda, frozen := b.frozen } : State) = x at h
  subst hx
  rw [h] at g
  exact g

theorem onlyDst_modEl (s : State) (f : Elem → Elem) : OnlyDst s (s.modEl f) := rfl

theorem onlyDst_dueEff (s : State) (n k : Nat) (r : Option Nat) (e : Effect) : OnlyDst s (s.dueEff n k r e) := by
  unfold OnlyDst State.dueEff
  rw [due_frame]

theorem writeDst_frame (s : State) (o : SOp) (ls : List (Nat × Lane)) : OnlyDst s (s.writeDst o ls) := by
  have h0 : ∀ as, OnlyDst s ((s.eccClear (s.dstEcc o.dst (ls.map (·.1)))).eccAge s.ctx.elem as) := by
    intro as
    unfold OnlyDst
    rw [eccAge_frame, eccClear_frame]
  unfold State.writeDst
  simp only []
  replace h0 := h0 (if writesRes o.dst then ls.map (·.1) else [])
  generalize (s.eccClear _).eccAge _ _ = x at h0 ⊢
  have h1 : OnlyDst x (match o.dst with
      | .mask => x.modEl fun e => e.putMask (field o.imm 2 0) (x.maskOf x.ctx.elem (field o.imm 2 0)) ls
      | d => match x.dstCode d with
        | some c => x.modEl fun e => e.putReg s.cycle s.ctx.slot c ls
        | none => x) := by
    split
    · exact onlyDst_modEl ..
    · split
      · exact onlyDst_modEl ..
      · exact rfl
  have h2 : ∀ y : State, OnlyDst y (if writesRes o.dst then y.modEl fun e => e.putRes s.cycle s.ctx.slot o.dst.code ls else y) := by
    intro y
    split
    · exact onlyDst_modEl ..
    · exact rfl
  refine ((h0.trans h1).trans (h2 _)).trans ?_
  generalize (if writesRes o.dst then _ else _) = y
  split
  · exact onlyDst_dueEff ..
  · exact rfl

theorem writeDst_setTrap (s : State) (o : SOp) (ls : List (Nat × Lane)) : s.writeDst o ls = s.setTrap (s.writeDst o ls) := by
  have h := writeDst_frame s o ls
  unfold OnlyDst at h
  generalize s.writeDst o ls = t at h ⊢
  rw [h]
  rfl

/-- A beat's results go out, or the beat traps. -/
theorem finishBeat_frame (s : State) (o : SOp) (ls : List (Nat × Lane)) :
    s.finishBeat o ls = s.setTrap (s.finishBeat o ls) := by
  unfold State.finishBeat
  split
  · split
    · exact trapB_frame ..
    · have h := writeDst_setTrap (s.recordSinks s.key (ls.map (·.2)) s.idx 0 2) o ls
      generalize hx : s.recordSinks s.key (ls.map (·.2)) s.idx 0 2 = x at h ⊢
      generalize x.writeDst o ls = t at h ⊢
      rw [h, ← hx]
      rfl
  · exact writeDst_setTrap s o ls

/-- A lane form reads its sources, and writes its destination or traps. -/
theorem lanewise_frame (s : State) (o : SOp) (imm : LaneWord) (pass rb rd : Bool)
    (f : LaneWord → LaneWord → LaneWord → LaneWord × Bool) :
    s.lanewise o imm pass rb rd f = s.setTrap (s.lanewise o imm pass rb rd f) := by
  unfold State.lanewise
  simp only []
  split
  · exact trapB_frame ..
  · exact finishBeat_frame ..

end Sys2Proof.Machine
end

