-- ==== Sys2Proof/Laws/State.lean ====
section
/-! SUPPORT. One lemma for each field of `State` and each update of a record: the field after it. -/

namespace Sys2Proof.Machine

/-! ## `State.setSlot` -/

@[simp] theorem setSlot_cycle (s : State) (k : Nat) (x : Slot) : (s.setSlot k x).cycle = s.cycle := rfl
@[simp] theorem setSlot_phase (s : State) (k : Nat) (x : Slot) : (s.setSlot k x).phase = s.phase := rfl
@[simp] theorem setSlot_ctx (s : State) (k : Nat) (x : Slot) : (s.setSlot k x).ctx = s.ctx := rfl
@[simp] theorem setSlot_agenda (s : State) (k : Nat) (x : Slot) : (s.setSlot k x).agenda = s.agenda := rfl
@[simp] theorem setSlot_frozen (s : State) (k : Nat) (x : Slot) : (s.setSlot k x).frozen = s.frozen := rfl
@[simp] theorem setSlot_flights (s : State) (k : Nat) (x : Slot) : (s.setSlot k x).flights = s.flights := rfl
@[simp] theorem setSlot_undo (s : State) (k : Nat) (x : Slot) : (s.setSlot k x).undo = s.undo := rfl
@[simp] theorem setSlot_fresh (s : State) (k : Nat) (x : Slot) : (s.setSlot k x).fresh = s.fresh := rfl
@[simp] theorem setSlot_serial (s : State) (k : Nat) (x : Slot) : (s.setSlot k x).serial = s.serial := rfl
@[simp] theorem setSlot_mem (s : State) (k : Nat) (x : Slot) : (s.setSlot k x).mem = s.mem := rfl
@[simp] theorem setSlot_memOld (s : State) (k : Nat) (x : Slot) : (s.setSlot k x).memOld = s.memOld := rfl
@[simp] theorem setSlot_memOldAt (s : State) (k : Nat) (x : Slot) : (s.setSlot k x).memOldAt = s.memOldAt := rfl
@[simp] theorem setSlot_slots (s : State) (k : Nat) (x : Slot) : (s.setSlot k x).slots = put s.slots k x := rfl
@[simp] theorem setSlot_elems (s : State) (k : Nat) (x : Slot) : (s.setSlot k x).elems = s.elems := rfl
@[simp] theorem setSlot_clusters (s : State) (k : Nat) (x : Slot) : (s.setSlot k x).clusters = s.clusters := rfl
@[simp] theorem setSlot_regions (s : State) (k : Nat) (x : Slot) : (s.setSlot k x).regions = s.regions := rfl
@[simp] theorem setSlot_slices (s : State) (k : Nat) (x : Slot) : (s.setSlot k x).slices = s.slices := rfl
@[simp] theorem setSlot_stamps (s : State) (k : Nat) (x : Slot) : (s.setSlot k x).stamps = s.stamps := rfl
@[simp] theorem setSlot_refused (s : State) (k : Nat) (x : Slot) : (s.setSlot k x).refused = s.refused := rfl
@[simp] theorem setSlot_launches (s : State) (k : Nat) (x : Slot) : (s.setSlot k x).launches = s.launches := rfl
@[simp] theorem setSlot_points (s : State) (k : Nat) (x : Slot) : (s.setSlot k x).points = s.points := rfl
@[simp] theorem setSlot_beats (s : State) (k : Nat) (x : Slot) : (s.setSlot k x).beats = s.beats := rfl
@[simp] theorem setSlot_joins (s : State) (k : Nat) (x : Slot) : (s.setSlot k x).joins = s.joins := rfl
@[simp] theorem setSlot_swaps (s : State) (k : Nat) (x : Slot) : (s.setSlot k x).swaps = s.swaps := rfl
@[simp] theorem setSlot_accs (s : State) (k : Nat) (x : Slot) : (s.setSlot k x).accs = s.accs := rfl
@[simp] theorem setSlot_reqs (s : State) (k : Nat) (x : Slot) : (s.setSlot k x).reqs = s.reqs := rfl
@[simp] theorem setSlot_loads (s : State) (k : Nat) (x : Slot) : (s.setSlot k x).loads = s.loads := rfl
@[simp] theorem setSlot_reports (s : State) (k : Nat) (x : Slot) : (s.setSlot k x).reports = s.reports := rfl
@[simp] theorem setSlot_upds (s : State) (k : Nat) (x : Slot) : (s.setSlot k x).upds = s.upds := rfl
@[simp] theorem setSlot_ports (s : State) (k : Nat) (x : Slot) : (s.setSlot k x).ports = s.ports := rfl
@[simp] theorem setSlot_hostSem (s : State) (k : Nat) (x : Slot) : (s.setSlot k x).hostSem = s.hostSem := rfl
@[simp] theorem setSlot_memwin (s : State) (k : Nat) (x : Slot) : (s.setSlot k x).memwin = s.memwin := rfl
@[simp] theorem setSlot_hostDown (s : State) (k : Nat) (x : Slot) : (s.setSlot k x).hostDown = s.hostDown := rfl
@[simp] theorem setSlot_xlatBase (s : State) (k : Nat) (x : Slot) : (s.setSlot k x).xlatBase = s.xlatBase := rfl
@[simp] theorem setSlot_kilnBudget (s : State) (k : Nat) (x : Slot) : (s.setSlot k x).kilnBudget = s.kilnBudget := rfl
@[simp] theorem setSlot_kilnBase (s : State) (k : Nat) (x : Slot) : (s.setSlot k x).kilnBase = s.kilnBase := rfl
@[simp] theorem setSlot_kilnReserved (s : State) (k : Nat) (x : Slot) : (s.setSlot k x).kilnReserved = s.kilnReserved := rfl
@[simp] theorem setSlot_kilnWindow (s : State) (k : Nat) (x : Slot) : (s.setSlot k x).kilnWindow = s.kilnWindow := rfl
@[simp] theorem setSlot_counted (s : State) (k : Nat) (x : Slot) : (s.setSlot k x).counted = s.counted := rfl
@[simp] theorem setSlot_hot (s : State) (k : Nat) (x : Slot) : (s.setSlot k x).hot = s.hot := rfl
@[simp] theorem setSlot_off (s : State) (k : Nat) (x : Slot) : (s.setSlot k x).off = s.off := rfl
@[simp] theorem setSlot_peerStat (s : State) (k : Nat) (x : Slot) : (s.setSlot k x).peerStat = s.peerStat := rfl
@[simp] theorem setSlot_peerSeq (s : State) (k : Nat) (x : Slot) : (s.setSlot k x).peerSeq = s.peerSeq := rfl
@[simp] theorem setSlot_peerNext (s : State) (k : Nat) (x : Slot) : (s.setSlot k x).peerNext = s.peerNext := rfl
@[simp] theorem setSlot_peerSent (s : State) (k : Nat) (x : Slot) : (s.setSlot k x).peerSent = s.peerSent := rfl
@[simp] theorem setSlot_flitsOut (s : State) (k : Nat) (x : Slot) : (s.setSlot k x).flitsOut = s.flitsOut := rfl
@[simp] theorem setSlot_answers (s : State) (k : Nat) (x : Slot) : (s.setSlot k x).answers = s.answers := rfl
@[simp] theorem setSlot_trustMeas (s : State) (k : Nat) (x : Slot) : (s.setSlot k x).trustMeas = s.trustMeas := rfl
@[simp] theorem setSlot_trustNonce (s : State) (k : Nat) (x : Slot) : (s.setSlot k x).trustNonce = s.trustNonce := rfl
@[simp] theorem setSlot_trustAttest (s : State) (k : Nat) (x : Slot) : (s.setSlot k x).trustAttest = s.trustAttest := rfl
@[simp] theorem setSlot_attestNonce (s : State) (k : Nat) (x : Slot) : (s.setSlot k x).attestNonce = s.attestNonce := rfl
@[simp] theorem setSlot_trustReport (s : State) (k : Nat) (x : Slot) : (s.setSlot k x).trustReport = s.trustReport := rfl
@[simp] theorem setSlot_fwImage (s : State) (k : Nat) (x : Slot) : (s.setSlot k x).fwImage = s.fwImage := rfl
@[simp] theorem setSlot_fwVersion (s : State) (k : Nat) (x : Slot) : (s.setSlot k x).fwVersion = s.fwVersion := rfl
@[simp] theorem setSlot_fwRunning (s : State) (k : Nat) (x : Slot) : (s.setSlot k x).fwRunning = s.fwRunning := rfl
@[simp] theorem setSlot_log (s : State) (k : Nat) (x : Slot) : (s.setSlot k x).log = s.log := rfl
@[simp] theorem setSlot_logCnt (s : State) (k : Nat) (x : Slot) : (s.setSlot k x).logCnt = s.logCnt := rfl
@[simp] theorem setSlot_ecc (s : State) (k : Nat) (x : Slot) : (s.setSlot k x).ecc = s.ecc := rfl
@[simp] theorem setSlot_outbox (s : State) (k : Nat) (x : Slot) : (s.setSlot k x).outbox = s.outbox := rfl

/-! ## `State.setElem` -/

@[simp] theorem setElem_cycle (s : State) (k : Nat) (x : Elem) : (s.setElem k x).cycle = s.cycle := rfl
@[simp] theorem setElem_phase (s : State) (k : Nat) (x : Elem) : (s.setElem k x).phase = s.phase := rfl
@[simp] theorem setElem_ctx (s : State) (k : Nat) (x : Elem) : (s.setElem k x).ctx = s.ctx := rfl
@[simp] theorem setElem_agenda (s : State) (k : Nat) (x : Elem) : (s.setElem k x).agenda = s.agenda := rfl
@[simp] theorem setElem_frozen (s : State) (k : Nat) (x : Elem) : (s.setElem k x).frozen = s.frozen := rfl
@[simp] theorem setElem_flights (s : State) (k : Nat) (x : Elem) : (s.setElem k x).flights = s.flights := rfl
@[simp] theorem setElem_undo (s : State) (k : Nat) (x : Elem) : (s.setElem k x).undo = s.undo := rfl
@[simp] theorem setElem_fresh (s : State) (k : Nat) (x : Elem) : (s.setElem k x).fresh = s.fresh := rfl
@[simp] theorem setElem_serial (s : State) (k : Nat) (x : Elem) : (s.setElem k x).serial = s.serial := rfl
@[simp] theorem setElem_mem (s : State) (k : Nat) (x : Elem) : (s.setElem k x).mem = s.mem := rfl
@[simp] theorem setElem_memOld (s : State) (k : Nat) (x : Elem) : (s.setElem k x).memOld = s.memOld := rfl
@[simp] theorem setElem_memOldAt (s : State) (k : Nat) (x : Elem) : (s.setElem k x).memOldAt = s.memOldAt := rfl
@[simp] theorem setElem_slots (s : State) (k : Nat) (x : Elem) : (s.setElem k x).slots = s.slots := rfl
@[simp] theorem setElem_elems (s : State) (k : Nat) (x : Elem) : (s.setElem k x).elems = put s.elems k x := rfl
@[simp] theorem setElem_clusters (s : State) (k : Nat) (x : Elem) : (s.setElem k x).clusters = s.clusters := rfl
@[simp] theorem setElem_regions (s : State) (k : Nat) (x : Elem) : (s.setElem k x).regions = s.regions := rfl
@[simp] theorem setElem_slices (s : State) (k : Nat) (x : Elem) : (s.setElem k x).slices = s.slices := rfl
@[simp] theorem setElem_stamps (s : State) (k : Nat) (x : Elem) : (s.setElem k x).stamps = s.stamps := rfl
@[simp] theorem setElem_refused (s : State) (k : Nat) (x : Elem) : (s.setElem k x).refused = s.refused := rfl
@[simp] theorem setElem_launches (s : State) (k : Nat) (x : Elem) : (s.setElem k x).launches = s.launches := rfl
@[simp] theorem setElem_points (s : State) (k : Nat) (x : Elem) : (s.setElem k x).points = s.points := rfl
@[simp] theorem setElem_beats (s : State) (k : Nat) (x : Elem) : (s.setElem k x).beats = s.beats := rfl
@[simp] theorem setElem_joins (s : State) (k : Nat) (x : Elem) : (s.setElem k x).joins = s.joins := rfl
@[simp] theorem setElem_swaps (s : State) (k : Nat) (x : Elem) : (s.setElem k x).swaps = s.swaps := rfl
@[simp] theorem setElem_accs (s : State) (k : Nat) (x : Elem) : (s.setElem k x).accs = s.accs := rfl
@[simp] theorem setElem_reqs (s : State) (k : Nat) (x : Elem) : (s.setElem k x).reqs = s.reqs := rfl
@[simp] theorem setElem_loads (s : State) (k : Nat) (x : Elem) : (s.setElem k x).loads = s.loads := rfl
@[simp] theorem setElem_reports (s : State) (k : Nat) (x : Elem) : (s.setElem k x).reports = s.reports := rfl
@[simp] theorem setElem_upds (s : State) (k : Nat) (x : Elem) : (s.setElem k x).upds = s.upds := rfl
@[simp] theorem setElem_ports (s : State) (k : Nat) (x : Elem) : (s.setElem k x).ports = s.ports := rfl
@[simp] theorem setElem_hostSem (s : State) (k : Nat) (x : Elem) : (s.setElem k x).hostSem = s.hostSem := rfl
@[simp] theorem setElem_memwin (s : State) (k : Nat) (x : Elem) : (s.setElem k x).memwin = s.memwin := rfl
@[simp] theorem setElem_hostDown (s : State) (k : Nat) (x : Elem) : (s.setElem k x).hostDown = s.hostDown := rfl
@[simp] theorem setElem_xlatBase (s : State) (k : Nat) (x : Elem) : (s.setElem k x).xlatBase = s.xlatBase := rfl
@[simp] theorem setElem_kilnBudget (s : State) (k : Nat) (x : Elem) : (s.setElem k x).kilnBudget = s.kilnBudget := rfl
@[simp] theorem setElem_kilnBase (s : State) (k : Nat) (x : Elem) : (s.setElem k x).kilnBase = s.kilnBase := rfl
@[simp] theorem setElem_kilnReserved (s : State) (k : Nat) (x : Elem) : (s.setElem k x).kilnReserved = s.kilnReserved := rfl
@[simp] theorem setElem_kilnWindow (s : State) (k : Nat) (x : Elem) : (s.setElem k x).kilnWindow = s.kilnWindow := rfl
@[simp] theorem setElem_counted (s : State) (k : Nat) (x : Elem) : (s.setElem k x).counted = s.counted := rfl
@[simp] theorem setElem_hot (s : State) (k : Nat) (x : Elem) : (s.setElem k x).hot = s.hot := rfl
@[simp] theorem setElem_off (s : State) (k : Nat) (x : Elem) : (s.setElem k x).off = s.off := rfl
@[simp] theorem setElem_peerStat (s : State) (k : Nat) (x : Elem) : (s.setElem k x).peerStat = s.peerStat := rfl
@[simp] theorem setElem_peerSeq (s : State) (k : Nat) (x : Elem) : (s.setElem k x).peerSeq = s.peerSeq := rfl
@[simp] theorem setElem_peerNext (s : State) (k : Nat) (x : Elem) : (s.setElem k x).peerNext = s.peerNext := rfl
@[simp] theorem setElem_peerSent (s : State) (k : Nat) (x : Elem) : (s.setElem k x).peerSent = s.peerSent := rfl
@[simp] theorem setElem_flitsOut (s : State) (k : Nat) (x : Elem) : (s.setElem k x).flitsOut = s.flitsOut := rfl
@[simp] theorem setElem_answers (s : State) (k : Nat) (x : Elem) : (s.setElem k x).answers = s.answers := rfl
@[simp] theorem setElem_trustMeas (s : State) (k : Nat) (x : Elem) : (s.setElem k x).trustMeas = s.trustMeas := rfl
@[simp] theorem setElem_trustNonce (s : State) (k : Nat) (x : Elem) : (s.setElem k x).trustNonce = s.trustNonce := rfl
@[simp] theorem setElem_trustAttest (s : State) (k : Nat) (x : Elem) : (s.setElem k x).trustAttest = s.trustAttest := rfl
@[simp] theorem setElem_attestNonce (s : State) (k : Nat) (x : Elem) : (s.setElem k x).attestNonce = s.attestNonce := rfl
@[simp] theorem setElem_trustReport (s : State) (k : Nat) (x : Elem) : (s.setElem k x).trustReport = s.trustReport := rfl
@[simp] theorem setElem_fwImage (s : State) (k : Nat) (x : Elem) : (s.setElem k x).fwImage = s.fwImage := rfl
@[simp] theorem setElem_fwVersion (s : State) (k : Nat) (x : Elem) : (s.setElem k x).fwVersion = s.fwVersion := rfl
@[simp] theorem setElem_fwRunning (s : State) (k : Nat) (x : Elem) : (s.setElem k x).fwRunning = s.fwRunning := rfl
@[simp] theorem setElem_log (s : State) (k : Nat) (x : Elem) : (s.setElem k x).log = s.log := rfl
@[simp] theorem setElem_logCnt (s : State) (k : Nat) (x : Elem) : (s.setElem k x).logCnt = s.logCnt := rfl
@[simp] theorem setElem_ecc (s : State) (k : Nat) (x : Elem) : (s.setElem k x).ecc = s.ecc := rfl
@[simp] theorem setElem_outbox (s : State) (k : Nat) (x : Elem) : (s.setElem k x).outbox = s.outbox := rfl

/-! ## `State.setCluster` -/

@[simp] theorem setCluster_cycle (s : State) (k : Nat) (x : Cluster) : (s.setCluster k x).cycle = s.cycle := rfl
@[simp] theorem setCluster_phase (s : State) (k : Nat) (x : Cluster) : (s.setCluster k x).phase = s.phase := rfl
@[simp] theorem setCluster_ctx (s : State) (k : Nat) (x : Cluster) : (s.setCluster k x).ctx = s.ctx := rfl
@[simp] theorem setCluster_agenda (s : State) (k : Nat) (x : Cluster) : (s.setCluster k x).agenda = s.agenda := rfl
@[simp] theorem setCluster_frozen (s : State) (k : Nat) (x : Cluster) : (s.setCluster k x).frozen = s.frozen := rfl
@[simp] theorem setCluster_flights (s : State) (k : Nat) (x : Cluster) : (s.setCluster k x).flights = s.flights := rfl
@[simp] theorem setCluster_undo (s : State) (k : Nat) (x : Cluster) : (s.setCluster k x).undo = s.undo := rfl
@[simp] theorem setCluster_fresh (s : State) (k : Nat) (x : Cluster) : (s.setCluster k x).fresh = s.fresh := rfl
@[simp] theorem setCluster_serial (s : State) (k : Nat) (x : Cluster) : (s.setCluster k x).serial = s.serial := rfl
@[simp] theorem setCluster_mem (s : State) (k : Nat) (x : Cluster) : (s.setCluster k x).mem = s.mem := rfl
@[simp] theorem setCluster_memOld (s : State) (k : Nat) (x : Cluster) : (s.setCluster k x).memOld = s.memOld := rfl
@[simp] theorem setCluster_memOldAt (s : State) (k : Nat) (x : Cluster) : (s.setCluster k x).memOldAt = s.memOldAt := rfl
@[simp] theorem setCluster_slots (s : State) (k : Nat) (x : Cluster) : (s.setCluster k x).slots = s.slots := rfl
@[simp] theorem setCluster_elems (s : State) (k : Nat) (x : Cluster) : (s.setCluster k x).elems = s.elems := rfl
@[simp] theorem setCluster_clusters (s : State) (k : Nat) (x : Cluster) : (s.setCluster k x).clusters = put s.clusters k x := rfl
@[simp] theorem setCluster_regions (s : State) (k : Nat) (x : Cluster) : (s.setCluster k x).regions = s.regions := rfl
@[simp] theorem setCluster_slices (s : State) (k : Nat) (x : Cluster) : (s.setCluster k x).slices = s.slices := rfl
@[simp] theorem setCluster_stamps (s : State) (k : Nat) (x : Cluster) : (s.setCluster k x).stamps = s.stamps := rfl
@[simp] theorem setCluster_refused (s : State) (k : Nat) (x : Cluster) : (s.setCluster k x).refused = s.refused := rfl
@[simp] theorem setCluster_launches (s : State) (k : Nat) (x : Cluster) : (s.setCluster k x).launches = s.launches := rfl
@[simp] theorem setCluster_points (s : State) (k : Nat) (x : Cluster) : (s.setCluster k x).points = s.points := rfl
@[simp] theorem setCluster_beats (s : State) (k : Nat) (x : Cluster) : (s.setCluster k x).beats = s.beats := rfl
@[simp] theorem setCluster_joins (s : State) (k : Nat) (x : Cluster) : (s.setCluster k x).joins = s.joins := rfl
@[simp] theorem setCluster_swaps (s : State) (k : Nat) (x : Cluster) : (s.setCluster k x).swaps = s.swaps := rfl
@[simp] theorem setCluster_accs (s : State) (k : Nat) (x : Cluster) : (s.setCluster k x).accs = s.accs := rfl
@[simp] theorem setCluster_reqs (s : State) (k : Nat) (x : Cluster) : (s.setCluster k x).reqs = s.reqs := rfl
@[simp] theorem setCluster_loads (s : State) (k : Nat) (x : Cluster) : (s.setCluster k x).loads = s.loads := rfl
@[simp] theorem setCluster_reports (s : State) (k : Nat) (x : Cluster) : (s.setCluster k x).reports = s.reports := rfl
@[simp] theorem setCluster_upds (s : State) (k : Nat) (x : Cluster) : (s.setCluster k x).upds = s.upds := rfl
@[simp] theorem setCluster_ports (s : State) (k : Nat) (x : Cluster) : (s.setCluster k x).ports = s.ports := rfl
@[simp] theorem setCluster_hostSem (s : State) (k : Nat) (x : Cluster) : (s.setCluster k x).hostSem = s.hostSem := rfl
@[simp] theorem setCluster_memwin (s : State) (k : Nat) (x : Cluster) : (s.setCluster k x).memwin = s.memwin := rfl
@[simp] theorem setCluster_hostDown (s : State) (k : Nat) (x : Cluster) : (s.setCluster k x).hostDown = s.hostDown := rfl
@[simp] theorem setCluster_xlatBase (s : State) (k : Nat) (x : Cluster) : (s.setCluster k x).xlatBase = s.xlatBase := rfl
@[simp] theorem setCluster_kilnBudget (s : State) (k : Nat) (x : Cluster) : (s.setCluster k x).kilnBudget = s.kilnBudget := rfl
@[simp] theorem setCluster_kilnBase (s : State) (k : Nat) (x : Cluster) : (s.setCluster k x).kilnBase = s.kilnBase := rfl
@[simp] theorem setCluster_kilnReserved (s : State) (k : Nat) (x : Cluster) : (s.setCluster k x).kilnReserved = s.kilnReserved := rfl
@[simp] theorem setCluster_kilnWindow (s : State) (k : Nat) (x : Cluster) : (s.setCluster k x).kilnWindow = s.kilnWindow := rfl
@[simp] theorem setCluster_counted (s : State) (k : Nat) (x : Cluster) : (s.setCluster k x).counted = s.counted := rfl
@[simp] theorem setCluster_hot (s : State) (k : Nat) (x : Cluster) : (s.setCluster k x).hot = s.hot := rfl
@[simp] theorem setCluster_off (s : State) (k : Nat) (x : Cluster) : (s.setCluster k x).off = s.off := rfl
@[simp] theorem setCluster_peerStat (s : State) (k : Nat) (x : Cluster) : (s.setCluster k x).peerStat = s.peerStat := rfl
@[simp] theorem setCluster_peerSeq (s : State) (k : Nat) (x : Cluster) : (s.setCluster k x).peerSeq = s.peerSeq := rfl
@[simp] theorem setCluster_peerNext (s : State) (k : Nat) (x : Cluster) : (s.setCluster k x).peerNext = s.peerNext := rfl
@[simp] theorem setCluster_peerSent (s : State) (k : Nat) (x : Cluster) : (s.setCluster k x).peerSent = s.peerSent := rfl
@[simp] theorem setCluster_flitsOut (s : State) (k : Nat) (x : Cluster) : (s.setCluster k x).flitsOut = s.flitsOut := rfl
@[simp] theorem setCluster_answers (s : State) (k : Nat) (x : Cluster) : (s.setCluster k x).answers = s.answers := rfl
@[simp] theorem setCluster_trustMeas (s : State) (k : Nat) (x : Cluster) : (s.setCluster k x).trustMeas = s.trustMeas := rfl
@[simp] theorem setCluster_trustNonce (s : State) (k : Nat) (x : Cluster) : (s.setCluster k x).trustNonce = s.trustNonce := rfl
@[simp] theorem setCluster_trustAttest (s : State) (k : Nat) (x : Cluster) : (s.setCluster k x).trustAttest = s.trustAttest := rfl
@[simp] theorem setCluster_attestNonce (s : State) (k : Nat) (x : Cluster) : (s.setCluster k x).attestNonce = s.attestNonce := rfl
@[simp] theorem setCluster_trustReport (s : State) (k : Nat) (x : Cluster) : (s.setCluster k x).trustReport = s.trustReport := rfl
@[simp] theorem setCluster_fwImage (s : State) (k : Nat) (x : Cluster) : (s.setCluster k x).fwImage = s.fwImage := rfl
@[simp] theorem setCluster_fwVersion (s : State) (k : Nat) (x : Cluster) : (s.setCluster k x).fwVersion = s.fwVersion := rfl
@[simp] theorem setCluster_fwRunning (s : State) (k : Nat) (x : Cluster) : (s.setCluster k x).fwRunning = s.fwRunning := rfl
@[simp] theorem setCluster_log (s : State) (k : Nat) (x : Cluster) : (s.setCluster k x).log = s.log := rfl
@[simp] theorem setCluster_logCnt (s : State) (k : Nat) (x : Cluster) : (s.setCluster k x).logCnt = s.logCnt := rfl
@[simp] theorem setCluster_ecc (s : State) (k : Nat) (x : Cluster) : (s.setCluster k x).ecc = s.ecc := rfl
@[simp] theorem setCluster_outbox (s : State) (k : Nat) (x : Cluster) : (s.setCluster k x).outbox = s.outbox := rfl

/-! ## `State.setRegion` -/

@[simp] theorem setRegion_cycle (s : State) (k : Nat) (x : Region) : (s.setRegion k x).cycle = s.cycle := rfl
@[simp] theorem setRegion_phase (s : State) (k : Nat) (x : Region) : (s.setRegion k x).phase = s.phase := rfl
@[simp] theorem setRegion_ctx (s : State) (k : Nat) (x : Region) : (s.setRegion k x).ctx = s.ctx := rfl
@[simp] theorem setRegion_agenda (s : State) (k : Nat) (x : Region) : (s.setRegion k x).agenda = s.agenda := rfl
@[simp] theorem setRegion_frozen (s : State) (k : Nat) (x : Region) : (s.setRegion k x).frozen = s.frozen := rfl
@[simp] theorem setRegion_flights (s : State) (k : Nat) (x : Region) : (s.setRegion k x).flights = s.flights := rfl
@[simp] theorem setRegion_undo (s : State) (k : Nat) (x : Region) : (s.setRegion k x).undo = s.undo := rfl
@[simp] theorem setRegion_fresh (s : State) (k : Nat) (x : Region) : (s.setRegion k x).fresh = s.fresh := rfl
@[simp] theorem setRegion_serial (s : State) (k : Nat) (x : Region) : (s.setRegion k x).serial = s.serial := rfl
@[simp] theorem setRegion_mem (s : State) (k : Nat) (x : Region) : (s.setRegion k x).mem = s.mem := rfl
@[simp] theorem setRegion_memOld (s : State) (k : Nat) (x : Region) : (s.setRegion k x).memOld = s.memOld := rfl
@[simp] theorem setRegion_memOldAt (s : State) (k : Nat) (x : Region) : (s.setRegion k x).memOldAt = s.memOldAt := rfl
@[simp] theorem setRegion_slots (s : State) (k : Nat) (x : Region) : (s.setRegion k x).slots = s.slots := rfl
@[simp] theorem setRegion_elems (s : State) (k : Nat) (x : Region) : (s.setRegion k x).elems = s.elems := rfl
@[simp] theorem setRegion_clusters (s : State) (k : Nat) (x : Region) : (s.setRegion k x).clusters = s.clusters := rfl
@[simp] theorem setRegion_regions (s : State) (k : Nat) (x : Region) : (s.setRegion k x).regions = put s.regions k x := rfl
@[simp] theorem setRegion_slices (s : State) (k : Nat) (x : Region) : (s.setRegion k x).slices = s.slices := rfl
@[simp] theorem setRegion_stamps (s : State) (k : Nat) (x : Region) : (s.setRegion k x).stamps = s.stamps := rfl
@[simp] theorem setRegion_refused (s : State) (k : Nat) (x : Region) : (s.setRegion k x).refused = s.refused := rfl
@[simp] theorem setRegion_launches (s : State) (k : Nat) (x : Region) : (s.setRegion k x).launches = s.launches := rfl
@[simp] theorem setRegion_points (s : State) (k : Nat) (x : Region) : (s.setRegion k x).points = s.points := rfl
@[simp] theorem setRegion_beats (s : State) (k : Nat) (x : Region) : (s.setRegion k x).beats = s.beats := rfl
@[simp] theorem setRegion_joins (s : State) (k : Nat) (x : Region) : (s.setRegion k x).joins = s.joins := rfl
@[simp] theorem setRegion_swaps (s : State) (k : Nat) (x : Region) : (s.setRegion k x).swaps = s.swaps := rfl
@[simp] theorem setRegion_accs (s : State) (k : Nat) (x : Region) : (s.setRegion k x).accs = s.accs := rfl
@[simp] theorem setRegion_reqs (s : State) (k : Nat) (x : Region) : (s.setRegion k x).reqs = s.reqs := rfl
@[simp] theorem setRegion_loads (s : State) (k : Nat) (x : Region) : (s.setRegion k x).loads = s.loads := rfl
@[simp] theorem setRegion_reports (s : State) (k : Nat) (x : Region) : (s.setRegion k x).reports = s.reports := rfl
@[simp] theorem setRegion_upds (s : State) (k : Nat) (x : Region) : (s.setRegion k x).upds = s.upds := rfl
@[simp] theorem setRegion_ports (s : State) (k : Nat) (x : Region) : (s.setRegion k x).ports = s.ports := rfl
@[simp] theorem setRegion_hostSem (s : State) (k : Nat) (x : Region) : (s.setRegion k x).hostSem = s.hostSem := rfl
@[simp] theorem setRegion_memwin (s : State) (k : Nat) (x : Region) : (s.setRegion k x).memwin = s.memwin := rfl
@[simp] theorem setRegion_hostDown (s : State) (k : Nat) (x : Region) : (s.setRegion k x).hostDown = s.hostDown := rfl
@[simp] theorem setRegion_xlatBase (s : State) (k : Nat) (x : Region) : (s.setRegion k x).xlatBase = s.xlatBase := rfl
@[simp] theorem setRegion_kilnBudget (s : State) (k : Nat) (x : Region) : (s.setRegion k x).kilnBudget = s.kilnBudget := rfl
@[simp] theorem setRegion_kilnBase (s : State) (k : Nat) (x : Region) : (s.setRegion k x).kilnBase = s.kilnBase := rfl
@[simp] theorem setRegion_kilnReserved (s : State) (k : Nat) (x : Region) : (s.setRegion k x).kilnReserved = s.kilnReserved := rfl
@[simp] theorem setRegion_kilnWindow (s : State) (k : Nat) (x : Region) : (s.setRegion k x).kilnWindow = s.kilnWindow := rfl
@[simp] theorem setRegion_counted (s : State) (k : Nat) (x : Region) : (s.setRegion k x).counted = s.counted := rfl
@[simp] theorem setRegion_hot (s : State) (k : Nat) (x : Region) : (s.setRegion k x).hot = s.hot := rfl
@[simp] theorem setRegion_off (s : State) (k : Nat) (x : Region) : (s.setRegion k x).off = s.off := rfl
@[simp] theorem setRegion_peerStat (s : State) (k : Nat) (x : Region) : (s.setRegion k x).peerStat = s.peerStat := rfl
@[simp] theorem setRegion_peerSeq (s : State) (k : Nat) (x : Region) : (s.setRegion k x).peerSeq = s.peerSeq := rfl
@[simp] theorem setRegion_peerNext (s : State) (k : Nat) (x : Region) : (s.setRegion k x).peerNext = s.peerNext := rfl
@[simp] theorem setRegion_peerSent (s : State) (k : Nat) (x : Region) : (s.setRegion k x).peerSent = s.peerSent := rfl
@[simp] theorem setRegion_flitsOut (s : State) (k : Nat) (x : Region) : (s.setRegion k x).flitsOut = s.flitsOut := rfl
@[simp] theorem setRegion_answers (s : State) (k : Nat) (x : Region) : (s.setRegion k x).answers = s.answers := rfl
@[simp] theorem setRegion_trustMeas (s : State) (k : Nat) (x : Region) : (s.setRegion k x).trustMeas = s.trustMeas := rfl
@[simp] theorem setRegion_trustNonce (s : State) (k : Nat) (x : Region) : (s.setRegion k x).trustNonce = s.trustNonce := rfl
@[simp] theorem setRegion_trustAttest (s : State) (k : Nat) (x : Region) : (s.setRegion k x).trustAttest = s.trustAttest := rfl
@[simp] theorem setRegion_attestNonce (s : State) (k : Nat) (x : Region) : (s.setRegion k x).attestNonce = s.attestNonce := rfl
@[simp] theorem setRegion_trustReport (s : State) (k : Nat) (x : Region) : (s.setRegion k x).trustReport = s.trustReport := rfl
@[simp] theorem setRegion_fwImage (s : State) (k : Nat) (x : Region) : (s.setRegion k x).fwImage = s.fwImage := rfl
@[simp] theorem setRegion_fwVersion (s : State) (k : Nat) (x : Region) : (s.setRegion k x).fwVersion = s.fwVersion := rfl
@[simp] theorem setRegion_fwRunning (s : State) (k : Nat) (x : Region) : (s.setRegion k x).fwRunning = s.fwRunning := rfl
@[simp] theorem setRegion_log (s : State) (k : Nat) (x : Region) : (s.setRegion k x).log = s.log := rfl
@[simp] theorem setRegion_logCnt (s : State) (k : Nat) (x : Region) : (s.setRegion k x).logCnt = s.logCnt := rfl
@[simp] theorem setRegion_ecc (s : State) (k : Nat) (x : Region) : (s.setRegion k x).ecc = s.ecc := rfl
@[simp] theorem setRegion_outbox (s : State) (k : Nat) (x : Region) : (s.setRegion k x).outbox = s.outbox := rfl

/-! ## `State.setLaunch` -/

@[simp] theorem setLaunch_cycle (s : State) (k : Nat) (x : Launch) : (s.setLaunch k x).cycle = s.cycle := rfl
@[simp] theorem setLaunch_phase (s : State) (k : Nat) (x : Launch) : (s.setLaunch k x).phase = s.phase := rfl
@[simp] theorem setLaunch_ctx (s : State) (k : Nat) (x : Launch) : (s.setLaunch k x).ctx = s.ctx := rfl
@[simp] theorem setLaunch_agenda (s : State) (k : Nat) (x : Launch) : (s.setLaunch k x).agenda = s.agenda := rfl
@[simp] theorem setLaunch_frozen (s : State) (k : Nat) (x : Launch) : (s.setLaunch k x).frozen = s.frozen := rfl
@[simp] theorem setLaunch_flights (s : State) (k : Nat) (x : Launch) : (s.setLaunch k x).flights = s.flights := rfl
@[simp] theorem setLaunch_undo (s : State) (k : Nat) (x : Launch) : (s.setLaunch k x).undo = s.undo := rfl
@[simp] theorem setLaunch_fresh (s : State) (k : Nat) (x : Launch) : (s.setLaunch k x).fresh = s.fresh := rfl
@[simp] theorem setLaunch_serial (s : State) (k : Nat) (x : Launch) : (s.setLaunch k x).serial = s.serial := rfl
@[simp] theorem setLaunch_mem (s : State) (k : Nat) (x : Launch) : (s.setLaunch k x).mem = s.mem := rfl
@[simp] theorem setLaunch_memOld (s : State) (k : Nat) (x : Launch) : (s.setLaunch k x).memOld = s.memOld := rfl
@[simp] theorem setLaunch_memOldAt (s : State) (k : Nat) (x : Launch) : (s.setLaunch k x).memOldAt = s.memOldAt := rfl
@[simp] theorem setLaunch_slots (s : State) (k : Nat) (x : Launch) : (s.setLaunch k x).slots = s.slots := rfl
@[simp] theorem setLaunch_elems (s : State) (k : Nat) (x : Launch) : (s.setLaunch k x).elems = s.elems := rfl
@[simp] theorem setLaunch_clusters (s : State) (k : Nat) (x : Launch) : (s.setLaunch k x).clusters = s.clusters := rfl
@[simp] theorem setLaunch_regions (s : State) (k : Nat) (x : Launch) : (s.setLaunch k x).regions = s.regions := rfl
@[simp] theorem setLaunch_slices (s : State) (k : Nat) (x : Launch) : (s.setLaunch k x).slices = s.slices := rfl
@[simp] theorem setLaunch_stamps (s : State) (k : Nat) (x : Launch) : (s.setLaunch k x).stamps = s.stamps := rfl
@[simp] theorem setLaunch_refused (s : State) (k : Nat) (x : Launch) : (s.setLaunch k x).refused = s.refused := rfl
@[simp] theorem setLaunch_launches (s : State) (k : Nat) (x : Launch) : (s.setLaunch k x).launches = put s.launches k x := rfl
@[simp] theorem setLaunch_points (s : State) (k : Nat) (x : Launch) : (s.setLaunch k x).points = s.points := rfl
@[simp] theorem setLaunch_beats (s : State) (k : Nat) (x : Launch) : (s.setLaunch k x).beats = s.beats := rfl
@[simp] theorem setLaunch_joins (s : State) (k : Nat) (x : Launch) : (s.setLaunch k x).joins = s.joins := rfl
@[simp] theorem setLaunch_swaps (s : State) (k : Nat) (x : Launch) : (s.setLaunch k x).swaps = s.swaps := rfl
@[simp] theorem setLaunch_accs (s : State) (k : Nat) (x : Launch) : (s.setLaunch k x).accs = s.accs := rfl
@[simp] theorem setLaunch_reqs (s : State) (k : Nat) (x : Launch) : (s.setLaunch k x).reqs = s.reqs := rfl
@[simp] theorem setLaunch_loads (s : State) (k : Nat) (x : Launch) : (s.setLaunch k x).loads = s.loads := rfl
@[simp] theorem setLaunch_reports (s : State) (k : Nat) (x : Launch) : (s.setLaunch k x).reports = s.reports := rfl
@[simp] theorem setLaunch_upds (s : State) (k : Nat) (x : Launch) : (s.setLaunch k x).upds = s.upds := rfl
@[simp] theorem setLaunch_ports (s : State) (k : Nat) (x : Launch) : (s.setLaunch k x).ports = s.ports := rfl
@[simp] theorem setLaunch_hostSem (s : State) (k : Nat) (x : Launch) : (s.setLaunch k x).hostSem = s.hostSem := rfl
@[simp] theorem setLaunch_memwin (s : State) (k : Nat) (x : Launch) : (s.setLaunch k x).memwin = s.memwin := rfl
@[simp] theorem setLaunch_hostDown (s : State) (k : Nat) (x : Launch) : (s.setLaunch k x).hostDown = s.hostDown := rfl
@[simp] theorem setLaunch_xlatBase (s : State) (k : Nat) (x : Launch) : (s.setLaunch k x).xlatBase = s.xlatBase := rfl
@[simp] theorem setLaunch_kilnBudget (s : State) (k : Nat) (x : Launch) : (s.setLaunch k x).kilnBudget = s.kilnBudget := rfl
@[simp] theorem setLaunch_kilnBase (s : State) (k : Nat) (x : Launch) : (s.setLaunch k x).kilnBase = s.kilnBase := rfl
@[simp] theorem setLaunch_kilnReserved (s : State) (k : Nat) (x : Launch) : (s.setLaunch k x).kilnReserved = s.kilnReserved := rfl
@[simp] theorem setLaunch_kilnWindow (s : State) (k : Nat) (x : Launch) : (s.setLaunch k x).kilnWindow = s.kilnWindow := rfl
@[simp] theorem setLaunch_counted (s : State) (k : Nat) (x : Launch) : (s.setLaunch k x).counted = s.counted := rfl
@[simp] theorem setLaunch_hot (s : State) (k : Nat) (x : Launch) : (s.setLaunch k x).hot = s.hot := rfl
@[simp] theorem setLaunch_off (s : State) (k : Nat) (x : Launch) : (s.setLaunch k x).off = s.off := rfl
@[simp] theorem setLaunch_peerStat (s : State) (k : Nat) (x : Launch) : (s.setLaunch k x).peerStat = s.peerStat := rfl
@[simp] theorem setLaunch_peerSeq (s : State) (k : Nat) (x : Launch) : (s.setLaunch k x).peerSeq = s.peerSeq := rfl
@[simp] theorem setLaunch_peerNext (s : State) (k : Nat) (x : Launch) : (s.setLaunch k x).peerNext = s.peerNext := rfl
@[simp] theorem setLaunch_peerSent (s : State) (k : Nat) (x : Launch) : (s.setLaunch k x).peerSent = s.peerSent := rfl
@[simp] theorem setLaunch_flitsOut (s : State) (k : Nat) (x : Launch) : (s.setLaunch k x).flitsOut = s.flitsOut := rfl
@[simp] theorem setLaunch_answers (s : State) (k : Nat) (x : Launch) : (s.setLaunch k x).answers = s.answers := rfl
@[simp] theorem setLaunch_trustMeas (s : State) (k : Nat) (x : Launch) : (s.setLaunch k x).trustMeas = s.trustMeas := rfl
@[simp] theorem setLaunch_trustNonce (s : State) (k : Nat) (x : Launch) : (s.setLaunch k x).trustNonce = s.trustNonce := rfl
@[simp] theorem setLaunch_trustAttest (s : State) (k : Nat) (x : Launch) : (s.setLaunch k x).trustAttest = s.trustAttest := rfl
@[simp] theorem setLaunch_attestNonce (s : State) (k : Nat) (x : Launch) : (s.setLaunch k x).attestNonce = s.attestNonce := rfl
@[simp] theorem setLaunch_trustReport (s : State) (k : Nat) (x : Launch) : (s.setLaunch k x).trustReport = s.trustReport := rfl
@[simp] theorem setLaunch_fwImage (s : State) (k : Nat) (x : Launch) : (s.setLaunch k x).fwImage = s.fwImage := rfl
@[simp] theorem setLaunch_fwVersion (s : State) (k : Nat) (x : Launch) : (s.setLaunch k x).fwVersion = s.fwVersion := rfl
@[simp] theorem setLaunch_fwRunning (s : State) (k : Nat) (x : Launch) : (s.setLaunch k x).fwRunning = s.fwRunning := rfl
@[simp] theorem setLaunch_log (s : State) (k : Nat) (x : Launch) : (s.setLaunch k x).log = s.log := rfl
@[simp] theorem setLaunch_logCnt (s : State) (k : Nat) (x : Launch) : (s.setLaunch k x).logCnt = s.logCnt := rfl
@[simp] theorem setLaunch_ecc (s : State) (k : Nat) (x : Launch) : (s.setLaunch k x).ecc = s.ecc := rfl
@[simp] theorem setLaunch_outbox (s : State) (k : Nat) (x : Launch) : (s.setLaunch k x).outbox = s.outbox := rfl

/-! ## `State.modSlice` -/

@[simp] theorem modSlice_cycle (s : State) (k : Nat) (f : Slice → Slice) : (s.modSlice k f).cycle = s.cycle := rfl
@[simp] theorem modSlice_phase (s : State) (k : Nat) (f : Slice → Slice) : (s.modSlice k f).phase = s.phase := rfl
@[simp] theorem modSlice_ctx (s : State) (k : Nat) (f : Slice → Slice) : (s.modSlice k f).ctx = s.ctx := rfl
@[simp] theorem modSlice_agenda (s : State) (k : Nat) (f : Slice → Slice) : (s.modSlice k f).agenda = s.agenda := rfl
@[simp] theorem modSlice_frozen (s : State) (k : Nat) (f : Slice → Slice) : (s.modSlice k f).frozen = s.frozen := rfl
@[simp] theorem modSlice_flights (s : State) (k : Nat) (f : Slice → Slice) : (s.modSlice k f).flights = s.flights := rfl
@[simp] theorem modSlice_undo (s : State) (k : Nat) (f : Slice → Slice) : (s.modSlice k f).undo = s.undo := rfl
@[simp] theorem modSlice_fresh (s : State) (k : Nat) (f : Slice → Slice) : (s.modSlice k f).fresh = s.fresh := rfl
@[simp] theorem modSlice_serial (s : State) (k : Nat) (f : Slice → Slice) : (s.modSlice k f).serial = s.serial := rfl
@[simp] theorem modSlice_mem (s : State) (k : Nat) (f : Slice → Slice) : (s.modSlice k f).mem = s.mem := rfl
@[simp] theorem modSlice_memOld (s : State) (k : Nat) (f : Slice → Slice) : (s.modSlice k f).memOld = s.memOld := rfl
@[simp] theorem modSlice_memOldAt (s : State) (k : Nat) (f : Slice → Slice) : (s.modSlice k f).memOldAt = s.memOldAt := rfl
@[simp] theorem modSlice_slots (s : State) (k : Nat) (f : Slice → Slice) : (s.modSlice k f).slots = s.slots := rfl
@[simp] theorem modSlice_elems (s : State) (k : Nat) (f : Slice → Slice) : (s.modSlice k f).elems = s.elems := rfl
@[simp] theorem modSlice_clusters (s : State) (k : Nat) (f : Slice → Slice) : (s.modSlice k f).clusters = s.clusters := rfl
@[simp] theorem modSlice_regions (s : State) (k : Nat) (f : Slice → Slice) : (s.modSlice k f).regions = s.regions := rfl
@[simp] theorem modSlice_slices (s : State) (k : Nat) (f : Slice → Slice) : (s.modSlice k f).slices = put s.slices k (f (s.slice k)) := rfl
@[simp] theorem modSlice_stamps (s : State) (k : Nat) (f : Slice → Slice) : (s.modSlice k f).stamps = s.stamps := rfl
@[simp] theorem modSlice_refused (s : State) (k : Nat) (f : Slice → Slice) : (s.modSlice k f).refused = s.refused := rfl
@[simp] theorem modSlice_launches (s : State) (k : Nat) (f : Slice → Slice) : (s.modSlice k f).launches = s.launches := rfl
@[simp] theorem modSlice_points (s : State) (k : Nat) (f : Slice → Slice) : (s.modSlice k f).points = s.points := rfl
@[simp] theorem modSlice_beats (s : State) (k : Nat) (f : Slice → Slice) : (s.modSlice k f).beats = s.beats := rfl
@[simp] theorem modSlice_joins (s : State) (k : Nat) (f : Slice → Slice) : (s.modSlice k f).joins = s.joins := rfl
@[simp] theorem modSlice_swaps (s : State) (k : Nat) (f : Slice → Slice) : (s.modSlice k f).swaps = s.swaps := rfl
@[simp] theorem modSlice_accs (s : State) (k : Nat) (f : Slice → Slice) : (s.modSlice k f).accs = s.accs := rfl
@[simp] theorem modSlice_reqs (s : State) (k : Nat) (f : Slice → Slice) : (s.modSlice k f).reqs = s.reqs := rfl
@[simp] theorem modSlice_loads (s : State) (k : Nat) (f : Slice → Slice) : (s.modSlice k f).loads = s.loads := rfl
@[simp] theorem modSlice_reports (s : State) (k : Nat) (f : Slice → Slice) : (s.modSlice k f).reports = s.reports := rfl
@[simp] theorem modSlice_upds (s : State) (k : Nat) (f : Slice → Slice) : (s.modSlice k f).upds = s.upds := rfl
@[simp] theorem modSlice_ports (s : State) (k : Nat) (f : Slice → Slice) : (s.modSlice k f).ports = s.ports := rfl
@[simp] theorem modSlice_hostSem (s : State) (k : Nat) (f : Slice → Slice) : (s.modSlice k f).hostSem = s.hostSem := rfl
@[simp] theorem modSlice_memwin (s : State) (k : Nat) (f : Slice → Slice) : (s.modSlice k f).memwin = s.memwin := rfl
@[simp] theorem modSlice_hostDown (s : State) (k : Nat) (f : Slice → Slice) : (s.modSlice k f).hostDown = s.hostDown := rfl
@[simp] theorem modSlice_xlatBase (s : State) (k : Nat) (f : Slice → Slice) : (s.modSlice k f).xlatBase = s.xlatBase := rfl
@[simp] theorem modSlice_kilnBudget (s : State) (k : Nat) (f : Slice → Slice) : (s.modSlice k f).kilnBudget = s.kilnBudget := rfl
@[simp] theorem modSlice_kilnBase (s : State) (k : Nat) (f : Slice → Slice) : (s.modSlice k f).kilnBase = s.kilnBase := rfl
@[simp] theorem modSlice_kilnReserved (s : State) (k : Nat) (f : Slice → Slice) : (s.modSlice k f).kilnReserved = s.kilnReserved := rfl
@[simp] theorem modSlice_kilnWindow (s : State) (k : Nat) (f : Slice → Slice) : (s.modSlice k f).kilnWindow = s.kilnWindow := rfl
@[simp] theorem modSlice_counted (s : State) (k : Nat) (f : Slice → Slice) : (s.modSlice k f).counted = s.counted := rfl
@[simp] theorem modSlice_hot (s : State) (k : Nat) (f : Slice → Slice) : (s.modSlice k f).hot = s.hot := rfl
@[simp] theorem modSlice_off (s : State) (k : Nat) (f : Slice → Slice) : (s.modSlice k f).off = s.off := rfl
@[simp] theorem modSlice_peerStat (s : State) (k : Nat) (f : Slice → Slice) : (s.modSlice k f).peerStat = s.peerStat := rfl
@[simp] theorem modSlice_peerSeq (s : State) (k : Nat) (f : Slice → Slice) : (s.modSlice k f).peerSeq = s.peerSeq := rfl
@[simp] theorem modSlice_peerNext (s : State) (k : Nat) (f : Slice → Slice) : (s.modSlice k f).peerNext = s.peerNext := rfl
@[simp] theorem modSlice_peerSent (s : State) (k : Nat) (f : Slice → Slice) : (s.modSlice k f).peerSent = s.peerSent := rfl
@[simp] theorem modSlice_flitsOut (s : State) (k : Nat) (f : Slice → Slice) : (s.modSlice k f).flitsOut = s.flitsOut := rfl
@[simp] theorem modSlice_answers (s : State) (k : Nat) (f : Slice → Slice) : (s.modSlice k f).answers = s.answers := rfl
@[simp] theorem modSlice_trustMeas (s : State) (k : Nat) (f : Slice → Slice) : (s.modSlice k f).trustMeas = s.trustMeas := rfl
@[simp] theorem modSlice_trustNonce (s : State) (k : Nat) (f : Slice → Slice) : (s.modSlice k f).trustNonce = s.trustNonce := rfl
@[simp] theorem modSlice_trustAttest (s : State) (k : Nat) (f : Slice → Slice) : (s.modSlice k f).trustAttest = s.trustAttest := rfl
@[simp] theorem modSlice_attestNonce (s : State) (k : Nat) (f : Slice → Slice) : (s.modSlice k f).attestNonce = s.attestNonce := rfl
@[simp] theorem modSlice_trustReport (s : State) (k : Nat) (f : Slice → Slice) : (s.modSlice k f).trustReport = s.trustReport := rfl
@[simp] theorem modSlice_fwImage (s : State) (k : Nat) (f : Slice → Slice) : (s.modSlice k f).fwImage = s.fwImage := rfl
@[simp] theorem modSlice_fwVersion (s : State) (k : Nat) (f : Slice → Slice) : (s.modSlice k f).fwVersion = s.fwVersion := rfl
@[simp] theorem modSlice_fwRunning (s : State) (k : Nat) (f : Slice → Slice) : (s.modSlice k f).fwRunning = s.fwRunning := rfl
@[simp] theorem modSlice_log (s : State) (k : Nat) (f : Slice → Slice) : (s.modSlice k f).log = s.log := rfl
@[simp] theorem modSlice_logCnt (s : State) (k : Nat) (f : Slice → Slice) : (s.modSlice k f).logCnt = s.logCnt := rfl
@[simp] theorem modSlice_ecc (s : State) (k : Nat) (f : Slice → Slice) : (s.modSlice k f).ecc = s.ecc := rfl
@[simp] theorem modSlice_outbox (s : State) (k : Nat) (f : Slice → Slice) : (s.modSlice k f).outbox = s.outbox := rfl

/-! ## `State.modPort` -/

@[simp] theorem modPort_cycle (s : State) (k : Nat) (f : Port → Port) : (s.modPort k f).cycle = s.cycle := rfl
@[simp] theorem modPort_phase (s : State) (k : Nat) (f : Port → Port) : (s.modPort k f).phase = s.phase := rfl
@[simp] theorem modPort_ctx (s : State) (k : Nat) (f : Port → Port) : (s.modPort k f).ctx = s.ctx := rfl
@[simp] theorem modPort_agenda (s : State) (k : Nat) (f : Port → Port) : (s.modPort k f).agenda = s.agenda := rfl
@[simp] theorem modPort_frozen (s : State) (k : Nat) (f : Port → Port) : (s.modPort k f).frozen = s.frozen := rfl
@[simp] theorem modPort_flights (s : State) (k : Nat) (f : Port → Port) : (s.modPort k f).flights = s.flights := rfl
@[simp] theorem modPort_undo (s : State) (k : Nat) (f : Port → Port) : (s.modPort k f).undo = s.undo := rfl
@[simp] theorem modPort_fresh (s : State) (k : Nat) (f : Port → Port) : (s.modPort k f).fresh = s.fresh := rfl
@[simp] theorem modPort_serial (s : State) (k : Nat) (f : Port → Port) : (s.modPort k f).serial = s.serial := rfl
@[simp] theorem modPort_mem (s : State) (k : Nat) (f : Port → Port) : (s.modPort k f).mem = s.mem := rfl
@[simp] theorem modPort_memOld (s : State) (k : Nat) (f : Port → Port) : (s.modPort k f).memOld = s.memOld := rfl
@[simp] theorem modPort_memOldAt (s : State) (k : Nat) (f : Port → Port) : (s.modPort k f).memOldAt = s.memOldAt := rfl
@[simp] theorem modPort_slots (s : State) (k : Nat) (f : Port → Port) : (s.modPort k f).slots = s.slots := rfl
@[simp] theorem modPort_elems (s : State) (k : Nat) (f : Port → Port) : (s.modPort k f).elems = s.elems := rfl
@[simp] theorem modPort_clusters (s : State) (k : Nat) (f : Port → Port) : (s.modPort k f).clusters = s.clusters := rfl
@[simp] theorem modPort_regions (s : State) (k : Nat) (f : Port → Port) : (s.modPort k f).regions = s.regions := rfl
@[simp] theorem modPort_slices (s : State) (k : Nat) (f : Port → Port) : (s.modPort k f).slices = s.slices := rfl
@[simp] theorem modPort_stamps (s : State) (k : Nat) (f : Port → Port) : (s.modPort k f).stamps = s.stamps := rfl
@[simp] theorem modPort_refused (s : State) (k : Nat) (f : Port → Port) : (s.modPort k f).refused = s.refused := rfl
@[simp] theorem modPort_launches (s : State) (k : Nat) (f : Port → Port) : (s.modPort k f).launches = s.launches := rfl
@[simp] theorem modPort_points (s : State) (k : Nat) (f : Port → Port) : (s.modPort k f).points = s.points := rfl
@[simp] theorem modPort_beats (s : State) (k : Nat) (f : Port → Port) : (s.modPort k f).beats = s.beats := rfl
@[simp] theorem modPort_joins (s : State) (k : Nat) (f : Port → Port) : (s.modPort k f).joins = s.joins := rfl
@[simp] theorem modPort_swaps (s : State) (k : Nat) (f : Port → Port) : (s.modPort k f).swaps = s.swaps := rfl
@[simp] theorem modPort_accs (s : State) (k : Nat) (f : Port → Port) : (s.modPort k f).accs = s.accs := rfl
@[simp] theorem modPort_reqs (s : State) (k : Nat) (f : Port → Port) : (s.modPort k f).reqs = s.reqs := rfl
@[simp] theorem modPort_loads (s : State) (k : Nat) (f : Port → Port) : (s.modPort k f).loads = s.loads := rfl
@[simp] theorem modPort_reports (s : State) (k : Nat) (f : Port → Port) : (s.modPort k f).reports = s.reports := rfl
@[simp] theorem modPort_upds (s : State) (k : Nat) (f : Port → Port) : (s.modPort k f).upds = s.upds := rfl
@[simp] theorem modPort_ports (s : State) (k : Nat) (f : Port → Port) : (s.modPort k f).ports = put s.ports k (f (s.port k)) := rfl
@[simp] theorem modPort_hostSem (s : State) (k : Nat) (f : Port → Port) : (s.modPort k f).hostSem = s.hostSem := rfl
@[simp] theorem modPort_memwin (s : State) (k : Nat) (f : Port → Port) : (s.modPort k f).memwin = s.memwin := rfl
@[simp] theorem modPort_hostDown (s : State) (k : Nat) (f : Port → Port) : (s.modPort k f).hostDown = s.hostDown := rfl
@[simp] theorem modPort_xlatBase (s : State) (k : Nat) (f : Port → Port) : (s.modPort k f).xlatBase = s.xlatBase := rfl
@[simp] theorem modPort_kilnBudget (s : State) (k : Nat) (f : Port → Port) : (s.modPort k f).kilnBudget = s.kilnBudget := rfl
@[simp] theorem modPort_kilnBase (s : State) (k : Nat) (f : Port → Port) : (s.modPort k f).kilnBase = s.kilnBase := rfl
@[simp] theorem modPort_kilnReserved (s : State) (k : Nat) (f : Port → Port) : (s.modPort k f).kilnReserved = s.kilnReserved := rfl
@[simp] theorem modPort_kilnWindow (s : State) (k : Nat) (f : Port → Port) : (s.modPort k f).kilnWindow = s.kilnWindow := rfl
@[simp] theorem modPort_counted (s : State) (k : Nat) (f : Port → Port) : (s.modPort k f).counted = s.counted := rfl
@[simp] theorem modPort_hot (s : State) (k : Nat) (f : Port → Port) : (s.modPort k f).hot = s.hot := rfl
@[simp] theorem modPort_off (s : State) (k : Nat) (f : Port → Port) : (s.modPort k f).off = s.off := rfl
@[simp] theorem modPort_peerStat (s : State) (k : Nat) (f : Port → Port) : (s.modPort k f).peerStat = s.peerStat := rfl
@[simp] theorem modPort_peerSeq (s : State) (k : Nat) (f : Port → Port) : (s.modPort k f).peerSeq = s.peerSeq := rfl
@[simp] theorem modPort_peerNext (s : State) (k : Nat) (f : Port → Port) : (s.modPort k f).peerNext = s.peerNext := rfl
@[simp] theorem modPort_peerSent (s : State) (k : Nat) (f : Port → Port) : (s.modPort k f).peerSent = s.peerSent := rfl
@[simp] theorem modPort_flitsOut (s : State) (k : Nat) (f : Port → Port) : (s.modPort k f).flitsOut = s.flitsOut := rfl
@[simp] theorem modPort_answers (s : State) (k : Nat) (f : Port → Port) : (s.modPort k f).answers = s.answers := rfl
@[simp] theorem modPort_trustMeas (s : State) (k : Nat) (f : Port → Port) : (s.modPort k f).trustMeas = s.trustMeas := rfl
@[simp] theorem modPort_trustNonce (s : State) (k : Nat) (f : Port → Port) : (s.modPort k f).trustNonce = s.trustNonce := rfl
@[simp] theorem modPort_trustAttest (s : State) (k : Nat) (f : Port → Port) : (s.modPort k f).trustAttest = s.trustAttest := rfl
@[simp] theorem modPort_attestNonce (s : State) (k : Nat) (f : Port → Port) : (s.modPort k f).attestNonce = s.attestNonce := rfl
@[simp] theorem modPort_trustReport (s : State) (k : Nat) (f : Port → Port) : (s.modPort k f).trustReport = s.trustReport := rfl
@[simp] theorem modPort_fwImage (s : State) (k : Nat) (f : Port → Port) : (s.modPort k f).fwImage = s.fwImage := rfl
@[simp] theorem modPort_fwVersion (s : State) (k : Nat) (f : Port → Port) : (s.modPort k f).fwVersion = s.fwVersion := rfl
@[simp] theorem modPort_fwRunning (s : State) (k : Nat) (f : Port → Port) : (s.modPort k f).fwRunning = s.fwRunning := rfl
@[simp] theorem modPort_log (s : State) (k : Nat) (f : Port → Port) : (s.modPort k f).log = s.log := rfl
@[simp] theorem modPort_logCnt (s : State) (k : Nat) (f : Port → Port) : (s.modPort k f).logCnt = s.logCnt := rfl
@[simp] theorem modPort_ecc (s : State) (k : Nat) (f : Port → Port) : (s.modPort k f).ecc = s.ecc := rfl
@[simp] theorem modPort_outbox (s : State) (k : Nat) (f : Port → Port) : (s.modPort k f).outbox = s.outbox := rfl

/-! ## `State.setPoint` -/

@[simp] theorem setPoint_cycle (s : State) (l w : Nat) (x : Point) : (s.setPoint l w x).cycle = s.cycle := rfl
@[simp] theorem setPoint_phase (s : State) (l w : Nat) (x : Point) : (s.setPoint l w x).phase = s.phase := rfl
@[simp] theorem setPoint_ctx (s : State) (l w : Nat) (x : Point) : (s.setPoint l w x).ctx = s.ctx := rfl
@[simp] theorem setPoint_agenda (s : State) (l w : Nat) (x : Point) : (s.setPoint l w x).agenda = s.agenda := rfl
@[simp] theorem setPoint_frozen (s : State) (l w : Nat) (x : Point) : (s.setPoint l w x).frozen = s.frozen := rfl
@[simp] theorem setPoint_flights (s : State) (l w : Nat) (x : Point) : (s.setPoint l w x).flights = s.flights := rfl
@[simp] theorem setPoint_undo (s : State) (l w : Nat) (x : Point) : (s.setPoint l w x).undo = s.undo := rfl
@[simp] theorem setPoint_fresh (s : State) (l w : Nat) (x : Point) : (s.setPoint l w x).fresh = s.fresh := rfl
@[simp] theorem setPoint_serial (s : State) (l w : Nat) (x : Point) : (s.setPoint l w x).serial = s.serial := rfl
@[simp] theorem setPoint_mem (s : State) (l w : Nat) (x : Point) : (s.setPoint l w x).mem = s.mem := rfl
@[simp] theorem setPoint_memOld (s : State) (l w : Nat) (x : Point) : (s.setPoint l w x).memOld = s.memOld := rfl
@[simp] theorem setPoint_memOldAt (s : State) (l w : Nat) (x : Point) : (s.setPoint l w x).memOldAt = s.memOldAt := rfl
@[simp] theorem setPoint_slots (s : State) (l w : Nat) (x : Point) : (s.setPoint l w x).slots = s.slots := rfl
@[simp] theorem setPoint_elems (s : State) (l w : Nat) (x : Point) : (s.setPoint l w x).elems = s.elems := rfl
@[simp] theorem setPoint_clusters (s : State) (l w : Nat) (x : Point) : (s.setPoint l w x).clusters = s.clusters := rfl
@[simp] theorem setPoint_regions (s : State) (l w : Nat) (x : Point) : (s.setPoint l w x).regions = s.regions := rfl
@[simp] theorem setPoint_slices (s : State) (l w : Nat) (x : Point) : (s.setPoint l w x).slices = s.slices := rfl
@[simp] theorem setPoint_stamps (s : State) (l w : Nat) (x : Point) : (s.setPoint l w x).stamps = s.stamps := rfl
@[simp] theorem setPoint_refused (s : State) (l w : Nat) (x : Point) : (s.setPoint l w x).refused = s.refused := rfl
@[simp] theorem setPoint_launches (s : State) (l w : Nat) (x : Point) : (s.setPoint l w x).launches = s.launches := rfl
@[simp] theorem setPoint_points (s : State) (l w : Nat) (x : Point) : (s.setPoint l w x).points = put s.points (24 * l + w) x := rfl
@[simp] theorem setPoint_beats (s : State) (l w : Nat) (x : Point) : (s.setPoint l w x).beats = s.beats := rfl
@[simp] theorem setPoint_joins (s : State) (l w : Nat) (x : Point) : (s.setPoint l w x).joins = s.joins := rfl
@[simp] theorem setPoint_swaps (s : State) (l w : Nat) (x : Point) : (s.setPoint l w x).swaps = s.swaps := rfl
@[simp] theorem setPoint_accs (s : State) (l w : Nat) (x : Point) : (s.setPoint l w x).accs = s.accs := rfl
@[simp] theorem setPoint_reqs (s : State) (l w : Nat) (x : Point) : (s.setPoint l w x).reqs = s.reqs := rfl
@[simp] theorem setPoint_loads (s : State) (l w : Nat) (x : Point) : (s.setPoint l w x).loads = s.loads := rfl
@[simp] theorem setPoint_reports (s : State) (l w : Nat) (x : Point) : (s.setPoint l w x).reports = s.reports := rfl
@[simp] theorem setPoint_upds (s : State) (l w : Nat) (x : Point) : (s.setPoint l w x).upds = s.upds := rfl
@[simp] theorem setPoint_ports (s : State) (l w : Nat) (x : Point) : (s.setPoint l w x).ports = s.ports := rfl
@[simp] theorem setPoint_hostSem (s : State) (l w : Nat) (x : Point) : (s.setPoint l w x).hostSem = s.hostSem := rfl
@[simp] theorem setPoint_memwin (s : State) (l w : Nat) (x : Point) : (s.setPoint l w x).memwin = s.memwin := rfl
@[simp] theorem setPoint_hostDown (s : State) (l w : Nat) (x : Point) : (s.setPoint l w x).hostDown = s.hostDown := rfl
@[simp] theorem setPoint_xlatBase (s : State) (l w : Nat) (x : Point) : (s.setPoint l w x).xlatBase = s.xlatBase := rfl
@[simp] theorem setPoint_kilnBudget (s : State) (l w : Nat) (x : Point) : (s.setPoint l w x).kilnBudget = s.kilnBudget := rfl
@[simp] theorem setPoint_kilnBase (s : State) (l w : Nat) (x : Point) : (s.setPoint l w x).kilnBase = s.kilnBase := rfl
@[simp] theorem setPoint_kilnReserved (s : State) (l w : Nat) (x : Point) : (s.setPoint l w x).kilnReserved = s.kilnReserved := rfl
@[simp] theorem setPoint_kilnWindow (s : State) (l w : Nat) (x : Point) : (s.setPoint l w x).kilnWindow = s.kilnWindow := rfl
@[simp] theorem setPoint_counted (s : State) (l w : Nat) (x : Point) : (s.setPoint l w x).counted = s.counted := rfl
@[simp] theorem setPoint_hot (s : State) (l w : Nat) (x : Point) : (s.setPoint l w x).hot = s.hot := rfl
@[simp] theorem setPoint_off (s : State) (l w : Nat) (x : Point) : (s.setPoint l w x).off = s.off := rfl
@[simp] theorem setPoint_peerStat (s : State) (l w : Nat) (x : Point) : (s.setPoint l w x).peerStat = s.peerStat := rfl
@[simp] theorem setPoint_peerSeq (s : State) (l w : Nat) (x : Point) : (s.setPoint l w x).peerSeq = s.peerSeq := rfl
@[simp] theorem setPoint_peerNext (s : State) (l w : Nat) (x : Point) : (s.setPoint l w x).peerNext = s.peerNext := rfl
@[simp] theorem setPoint_peerSent (s : State) (l w : Nat) (x : Point) : (s.setPoint l w x).peerSent = s.peerSent := rfl
@[simp] theorem setPoint_flitsOut (s : State) (l w : Nat) (x : Point) : (s.setPoint l w x).flitsOut = s.flitsOut := rfl
@[simp] theorem setPoint_answers (s : State) (l w : Nat) (x : Point) : (s.setPoint l w x).answers = s.answers := rfl
@[simp] theorem setPoint_trustMeas (s : State) (l w : Nat) (x : Point) : (s.setPoint l w x).trustMeas = s.trustMeas := rfl
@[simp] theorem setPoint_trustNonce (s : State) (l w : Nat) (x : Point) : (s.setPoint l w x).trustNonce = s.trustNonce := rfl
@[simp] theorem setPoint_trustAttest (s : State) (l w : Nat) (x : Point) : (s.setPoint l w x).trustAttest = s.trustAttest := rfl
@[simp] theorem setPoint_attestNonce (s : State) (l w : Nat) (x : Point) : (s.setPoint l w x).attestNonce = s.attestNonce := rfl
@[simp] theorem setPoint_trustReport (s : State) (l w : Nat) (x : Point) : (s.setPoint l w x).trustReport = s.trustReport := rfl
@[simp] theorem setPoint_fwImage (s : State) (l w : Nat) (x : Point) : (s.setPoint l w x).fwImage = s.fwImage := rfl
@[simp] theorem setPoint_fwVersion (s : State) (l w : Nat) (x : Point) : (s.setPoint l w x).fwVersion = s.fwVersion := rfl
@[simp] theorem setPoint_fwRunning (s : State) (l w : Nat) (x : Point) : (s.setPoint l w x).fwRunning = s.fwRunning := rfl
@[simp] theorem setPoint_log (s : State) (l w : Nat) (x : Point) : (s.setPoint l w x).log = s.log := rfl
@[simp] theorem setPoint_logCnt (s : State) (l w : Nat) (x : Point) : (s.setPoint l w x).logCnt = s.logCnt := rfl
@[simp] theorem setPoint_ecc (s : State) (l w : Nat) (x : Point) : (s.setPoint l w x).ecc = s.ecc := rfl
@[simp] theorem setPoint_outbox (s : State) (l w : Nat) (x : Point) : (s.setPoint l w x).outbox = s.outbox := rfl

/-! ## The updates by a function are the updates by a value -/

@[simp] theorem modSlot_eq (s : State) (k : Nat) (f : Slot → Slot) : s.modSlot k f = s.setSlot k (f (s.slot k)) := rfl
@[simp] theorem modElem_eq (s : State) (k : Nat) (f : Elem → Elem) : s.modElem k f = s.setElem k (f (s.elem k)) := rfl
@[simp] theorem modCluster_eq (s : State) (k : Nat) (f : Cluster → Cluster) : s.modCluster k f = s.setCluster k (f (s.cluster k)) := rfl
@[simp] theorem modRegion_eq (s : State) (k : Nat) (f : Region → Region) : s.modRegion k f = s.setRegion k (f (s.region k)) := rfl
@[simp] theorem modLaunch_eq (s : State) (k : Nat) (f : Launch → Launch) : s.modLaunch k f = s.setLaunch k (f (s.launch k)) := rfl
@[simp] theorem setMe_eq (s : State) (x : Slot) : s.setMe x = s.setSlot s.key x := rfl
@[simp] theorem setHandle_eq (s : State) (r h : Nat) (x : Handle) :
    s.setHandle r h x = s.setRegion r { s.region r with handles := put (s.region r).handles h x } := rfl

/-! ## Free values, serial numbers, reports -/

@[simp] theorem free_fst (s : State) : s.free.1 = Config.freeWord s.fresh := rfl
@[simp] theorem free_cycle (s : State) : s.free.2.cycle = s.cycle := rfl
@[simp] theorem free_phase (s : State) : s.free.2.phase = s.phase := rfl
@[simp] theorem free_ctx (s : State) : s.free.2.ctx = s.ctx := rfl
@[simp] theorem free_agenda (s : State) : s.free.2.agenda = s.agenda := rfl
@[simp] theorem free_frozen (s : State) : s.free.2.frozen = s.frozen := rfl
@[simp] theorem free_flights (s : State) : s.free.2.flights = s.flights := rfl
@[simp] theorem free_undo (s : State) : s.free.2.undo = s.undo := rfl
@[simp] theorem free_fresh (s : State) : s.free.2.fresh = s.fresh + 1 := rfl
@[simp] theorem free_serial (s : State) : s.free.2.serial = s.serial := rfl
@[simp] theorem free_mem (s : State) : s.free.2.mem = s.mem := rfl
@[simp] theorem free_memOld (s : State) : s.free.2.memOld = s.memOld := rfl
@[simp] theorem free_memOldAt (s : State) : s.free.2.memOldAt = s.memOldAt := rfl
@[simp] theorem free_slots (s : State) : s.free.2.slots = s.slots := rfl
@[simp] theorem free_elems (s : State) : s.free.2.elems = s.elems := rfl
@[simp] theorem free_clusters (s : State) : s.free.2.clusters = s.clusters := rfl
@[simp] theorem free_regions (s : State) : s.free.2.regions = s.regions := rfl
@[simp] theorem free_slices (s : State) : s.free.2.slices = s.slices := rfl
@[simp] theorem free_stamps (s : State) : s.free.2.stamps = s.stamps := rfl
@[simp] theorem free_refused (s : State) : s.free.2.refused = s.refused := rfl
@[simp] theorem free_launches (s : State) : s.free.2.launches = s.launches := rfl
@[simp] theorem free_points (s : State) : s.free.2.points = s.points := rfl
@[simp] theorem free_beats (s : State) : s.free.2.beats = s.beats := rfl
@[simp] theorem free_joins (s : State) : s.free.2.joins = s.joins := rfl
@[simp] theorem free_swaps (s : State) : s.free.2.swaps = s.swaps := rfl
@[simp] theorem free_accs (s : State) : s.free.2.accs = s.accs := rfl
@[simp] theorem free_reqs (s : State) : s.free.2.reqs = s.reqs := rfl
@[simp] theorem free_loads (s : State) : s.free.2.loads = s.loads := rfl
@[simp] theorem free_reports (s : State) : s.free.2.reports = s.reports := rfl
@[simp] theorem free_upds (s : State) : s.free.2.upds = s.upds := rfl
@[simp] theorem free_ports (s : State) : s.free.2.ports = s.ports := rfl
@[simp] theorem free_hostSem (s : State) : s.free.2.hostSem = s.hostSem := rfl
@[simp] theorem free_memwin (s : State) : s.free.2.memwin = s.memwin := rfl
@[simp] theorem free_hostDown (s : State) : s.free.2.hostDown = s.hostDown := rfl
@[simp] theorem free_xlatBase (s : State) : s.free.2.xlatBase = s.xlatBase := rfl
@[simp] theorem free_kilnBudget (s : State) : s.free.2.kilnBudget = s.kilnBudget := rfl
@[simp] theorem free_kilnBase (s : State) : s.free.2.kilnBase = s.kilnBase := rfl
@[simp] theorem free_kilnReserved (s : State) : s.free.2.kilnReserved = s.kilnReserved := rfl
@[simp] theorem free_kilnWindow (s : State) : s.free.2.kilnWindow = s.kilnWindow := rfl
@[simp] theorem free_counted (s : State) : s.free.2.counted = s.counted := rfl
@[simp] theorem free_hot (s : State) : s.free.2.hot = s.hot := rfl
@[simp] theorem free_off (s : State) : s.free.2.off = s.off := rfl
@[simp] theorem free_peerStat (s : State) : s.free.2.peerStat = s.peerStat := rfl
@[simp] theorem free_peerSeq (s : State) : s.free.2.peerSeq = s.peerSeq := rfl
@[simp] theorem free_peerNext (s : State) : s.free.2.peerNext = s.peerNext := rfl
@[simp] theorem free_peerSent (s : State) : s.free.2.peerSent = s.peerSent := rfl
@[simp] theorem free_flitsOut (s : State) : s.free.2.flitsOut = s.flitsOut := rfl
@[simp] theorem free_answers (s : State) : s.free.2.answers = s.answers := rfl
@[simp] theorem free_trustMeas (s : State) : s.free.2.trustMeas = s.trustMeas := rfl
@[simp] theorem free_trustNonce (s : State) : s.free.2.trustNonce = s.trustNonce := rfl
@[simp] theorem free_trustAttest (s : State) : s.free.2.trustAttest = s.trustAttest := rfl
@[simp] theorem free_attestNonce (s : State) : s.free.2.attestNonce = s.attestNonce := rfl
@[simp] theorem free_trustReport (s : State) : s.free.2.trustReport = s.trustReport := rfl
@[simp] theorem free_fwImage (s : State) : s.free.2.fwImage = s.fwImage := rfl
@[simp] theorem free_fwVersion (s : State) : s.free.2.fwVersion = s.fwVersion := rfl
@[simp] theorem free_fwRunning (s : State) : s.free.2.fwRunning = s.fwRunning := rfl
@[simp] theorem free_log (s : State) : s.free.2.log = s.log := rfl
@[simp] theorem free_logCnt (s : State) : s.free.2.logCnt = s.logCnt := rfl
@[simp] theorem free_ecc (s : State) : s.free.2.ecc = s.ecc := rfl
@[simp] theorem free_outbox (s : State) : s.free.2.outbox = s.outbox := rfl
@[simp] theorem nextSerial_fst (s : State) : s.nextSerial.1 = s.serial := rfl
@[simp] theorem nextSerial_cycle (s : State) : s.nextSerial.2.cycle = s.cycle := rfl
@[simp] theorem nextSerial_phase (s : State) : s.nextSerial.2.phase = s.phase := rfl
@[simp] theorem nextSerial_ctx (s : State) : s.nextSerial.2.ctx = s.ctx := rfl
@[simp] theorem nextSerial_agenda (s : State) : s.nextSerial.2.agenda = s.agenda := rfl
@[simp] theorem nextSerial_frozen (s : State) : s.nextSerial.2.frozen = s.frozen := rfl
@[simp] theorem nextSerial_flights (s : State) : s.nextSerial.2.flights = s.flights := rfl
@[simp] theorem nextSerial_undo (s : State) : s.nextSerial.2.undo = s.undo := rfl
@[simp] theorem nextSerial_fresh (s : State) : s.nextSerial.2.fresh = s.fresh := rfl
@[simp] theorem nextSerial_serial (s : State) : s.nextSerial.2.serial = s.serial + 1 := rfl
@[simp] theorem nextSerial_mem (s : State) : s.nextSerial.2.mem = s.mem := rfl
@[simp] theorem nextSerial_memOld (s : State) : s.nextSerial.2.memOld = s.memOld := rfl
@[simp] theorem nextSerial_memOldAt (s : State) : s.nextSerial.2.memOldAt = s.memOldAt := rfl
@[simp] theorem nextSerial_slots (s : State) : s.nextSerial.2.slots = s.slots := rfl
@[simp] theorem nextSerial_elems (s : State) : s.nextSerial.2.elems = s.elems := rfl
@[simp] theorem nextSerial_clusters (s : State) : s.nextSerial.2.clusters = s.clusters := rfl
@[simp] theorem nextSerial_regions (s : State) : s.nextSerial.2.regions = s.regions := rfl
@[simp] theorem nextSerial_slices (s : State) : s.nextSerial.2.slices = s.slices := rfl
@[simp] theorem nextSerial_stamps (s : State) : s.nextSerial.2.stamps = s.stamps := rfl
@[simp] theorem nextSerial_refused (s : State) : s.nextSerial.2.refused = s.refused := rfl
@[simp] theorem nextSerial_launches (s : State) : s.nextSerial.2.launches = s.launches := rfl
@[simp] theorem nextSerial_points (s : State) : s.nextSerial.2.points = s.points := rfl
@[simp] theorem nextSerial_beats (s : State) : s.nextSerial.2.beats = s.beats := rfl
@[simp] theorem nextSerial_joins (s : State) : s.nextSerial.2.joins = s.joins := rfl
@[simp] theorem nextSerial_swaps (s : State) : s.nextSerial.2.swaps = s.swaps := rfl
@[simp] theorem nextSerial_accs (s : State) : s.nextSerial.2.accs = s.accs := rfl
@[simp] theorem nextSerial_reqs (s : State) : s.nextSerial.2.reqs = s.reqs := rfl
@[simp] theorem nextSerial_loads (s : State) : s.nextSerial.2.loads = s.loads := rfl
@[simp] theorem nextSerial_reports (s : State) : s.nextSerial.2.reports = s.reports := rfl
@[simp] theorem nextSerial_upds (s : State) : s.nextSerial.2.upds = s.upds := rfl
@[simp] theorem nextSerial_ports (s : State) : s.nextSerial.2.ports = s.ports := rfl
@[simp] theorem nextSerial_hostSem (s : State) : s.nextSerial.2.hostSem = s.hostSem := rfl
@[simp] theorem nextSerial_memwin (s : State) : s.nextSerial.2.memwin = s.memwin := rfl
@[simp] theorem nextSerial_hostDown (s : State) : s.nextSerial.2.hostDown = s.hostDown := rfl
@[simp] theorem nextSerial_xlatBase (s : State) : s.nextSerial.2.xlatBase = s.xlatBase := rfl
@[simp] theorem nextSerial_kilnBudget (s : State) : s.nextSerial.2.kilnBudget = s.kilnBudget := rfl
@[simp] theorem nextSerial_kilnBase (s : State) : s.nextSerial.2.kilnBase = s.kilnBase := rfl
@[simp] theorem nextSerial_kilnReserved (s : State) : s.nextSerial.2.kilnReserved = s.kilnReserved := rfl
@[simp] theorem nextSerial_kilnWindow (s : State) : s.nextSerial.2.kilnWindow = s.kilnWindow := rfl
@[simp] theorem nextSerial_counted (s : State) : s.nextSerial.2.counted = s.counted := rfl
@[simp] theorem nextSerial_hot (s : State) : s.nextSerial.2.hot = s.hot := rfl
@[simp] theorem nextSerial_off (s : State) : s.nextSerial.2.off = s.off := rfl
@[simp] theorem nextSerial_peerStat (s : State) : s.nextSerial.2.peerStat = s.peerStat := rfl
@[simp] theorem nextSerial_peerSeq (s : State) : s.nextSerial.2.peerSeq = s.peerSeq := rfl
@[simp] theorem nextSerial_peerNext (s : State) : s.nextSerial.2.peerNext = s.peerNext := rfl
@[simp] theorem nextSerial_peerSent (s : State) : s.nextSerial.2.peerSent = s.peerSent := rfl
@[simp] theorem nextSerial_flitsOut (s : State) : s.nextSerial.2.flitsOut = s.flitsOut := rfl
@[simp] theorem nextSerial_answers (s : State) : s.nextSerial.2.answers = s.answers := rfl
@[simp] theorem nextSerial_trustMeas (s : State) : s.nextSerial.2.trustMeas = s.trustMeas := rfl
@[simp] theorem nextSerial_trustNonce (s : State) : s.nextSerial.2.trustNonce = s.trustNonce := rfl
@[simp] theorem nextSerial_trustAttest (s : State) : s.nextSerial.2.trustAttest = s.trustAttest := rfl
@[simp] theorem nextSerial_attestNonce (s : State) : s.nextSerial.2.attestNonce = s.attestNonce := rfl
@[simp] theorem nextSerial_trustReport (s : State) : s.nextSerial.2.trustReport = s.trustReport := rfl
@[simp] theorem nextSerial_fwImage (s : State) : s.nextSerial.2.fwImage = s.fwImage := rfl
@[simp] theorem nextSerial_fwVersion (s : State) : s.nextSerial.2.fwVersion = s.fwVersion := rfl
@[simp] theorem nextSerial_fwRunning (s : State) : s.nextSerial.2.fwRunning = s.fwRunning := rfl
@[simp] theorem nextSerial_log (s : State) : s.nextSerial.2.log = s.log := rfl
@[simp] theorem nextSerial_logCnt (s : State) : s.nextSerial.2.logCnt = s.logCnt := rfl
@[simp] theorem nextSerial_ecc (s : State) : s.nextSerial.2.ecc = s.ecc := rfl
@[simp] theorem nextSerial_outbox (s : State) : s.nextSerial.2.outbox = s.outbox := rfl
@[simp] theorem report_cycle (s : State) (c u d : Nat) : (s.report c u d).cycle = s.cycle := rfl
@[simp] theorem report_phase (s : State) (c u d : Nat) : (s.report c u d).phase = s.phase := rfl
@[simp] theorem report_ctx (s : State) (c u d : Nat) : (s.report c u d).ctx = s.ctx := rfl
@[simp] theorem report_agenda (s : State) (c u d : Nat) : (s.report c u d).agenda = s.agenda := rfl
@[simp] theorem report_frozen (s : State) (c u d : Nat) : (s.report c u d).frozen = s.frozen := rfl
@[simp] theorem report_flights (s : State) (c u d : Nat) : (s.report c u d).flights = s.flights := rfl
@[simp] theorem report_undo (s : State) (c u d : Nat) : (s.report c u d).undo = s.undo := rfl
@[simp] theorem report_fresh (s : State) (c u d : Nat) : (s.report c u d).fresh = s.fresh := rfl
@[simp] theorem report_serial (s : State) (c u d : Nat) : (s.report c u d).serial = s.serial := rfl
@[simp] theorem report_mem (s : State) (c u d : Nat) : (s.report c u d).mem = s.mem := rfl
@[simp] theorem report_memOld (s : State) (c u d : Nat) : (s.report c u d).memOld = s.memOld := rfl
@[simp] theorem report_memOldAt (s : State) (c u d : Nat) : (s.report c u d).memOldAt = s.memOldAt := rfl
@[simp] theorem report_slots (s : State) (c u d : Nat) : (s.report c u d).slots = s.slots := rfl
@[simp] theorem report_elems (s : State) (c u d : Nat) : (s.report c u d).elems = s.elems := rfl
@[simp] theorem report_clusters (s : State) (c u d : Nat) : (s.report c u d).clusters = s.clusters := rfl
@[simp] theorem report_regions (s : State) (c u d : Nat) : (s.report c u d).regions = s.regions := rfl
@[simp] theorem report_slices (s : State) (c u d : Nat) : (s.report c u d).slices = s.slices := rfl
@[simp] theorem report_stamps (s : State) (c u d : Nat) : (s.report c u d).stamps = s.stamps := rfl
@[simp] theorem report_refused (s : State) (c u d : Nat) : (s.report c u d).refused = s.refused := rfl
@[simp] theorem report_launches (s : State) (c u d : Nat) : (s.report c u d).launches = s.launches := rfl
@[simp] theorem report_points (s : State) (c u d : Nat) : (s.report c u d).points = s.points := rfl
@[simp] theorem report_beats (s : State) (c u d : Nat) : (s.report c u d).beats = s.beats := rfl
@[simp] theorem report_joins (s : State) (c u d : Nat) : (s.report c u d).joins = s.joins := rfl
@[simp] theorem report_swaps (s : State) (c u d : Nat) : (s.report c u d).swaps = s.swaps := rfl
@[simp] theorem report_accs (s : State) (c u d : Nat) : (s.report c u d).accs = s.accs := rfl
@[simp] theorem report_reqs (s : State) (c u d : Nat) : (s.report c u d).reqs = s.reqs := rfl
@[simp] theorem report_loads (s : State) (c u d : Nat) : (s.report c u d).loads = s.loads := rfl
@[simp] theorem report_reports (s : State) (c u d : Nat) : (s.report c u d).reports = s.reports := rfl
@[simp] theorem report_upds (s : State) (c u d : Nat) : (s.report c u d).upds = s.upds := rfl
@[simp] theorem report_ports (s : State) (c u d : Nat) : (s.report c u d).ports = s.ports := rfl
@[simp] theorem report_hostSem (s : State) (c u d : Nat) : (s.report c u d).hostSem = s.hostSem := rfl
@[simp] theorem report_memwin (s : State) (c u d : Nat) : (s.report c u d).memwin = s.memwin := rfl
@[simp] theorem report_hostDown (s : State) (c u d : Nat) : (s.report c u d).hostDown = s.hostDown := rfl
@[simp] theorem report_xlatBase (s : State) (c u d : Nat) : (s.report c u d).xlatBase = s.xlatBase := rfl
@[simp] theorem report_kilnBudget (s : State) (c u d : Nat) : (s.report c u d).kilnBudget = s.kilnBudget := rfl
@[simp] theorem report_kilnBase (s : State) (c u d : Nat) : (s.report c u d).kilnBase = s.kilnBase := rfl
@[simp] theorem report_kilnReserved (s : State) (c u d : Nat) : (s.report c u d).kilnReserved = s.kilnReserved := rfl
@[simp] theorem report_kilnWindow (s : State) (c u d : Nat) : (s.report c u d).kilnWindow = s.kilnWindow := rfl
@[simp] theorem report_counted (s : State) (c u d : Nat) : (s.report c u d).counted = s.counted := rfl
@[simp] theorem report_hot (s : State) (c u d : Nat) : (s.report c u d).hot = s.hot := rfl
@[simp] theorem report_off (s : State) (c u d : Nat) : (s.report c u d).off = s.off := rfl
@[simp] theorem report_peerStat (s : State) (c u d : Nat) : (s.report c u d).peerStat = s.peerStat := rfl
@[simp] theorem report_peerSeq (s : State) (c u d : Nat) : (s.report c u d).peerSeq = s.peerSeq := rfl
@[simp] theorem report_peerNext (s : State) (c u d : Nat) : (s.report c u d).peerNext = s.peerNext := rfl
@[simp] theorem report_peerSent (s : State) (c u d : Nat) : (s.report c u d).peerSent = s.peerSent := rfl
@[simp] theorem report_flitsOut (s : State) (c u d : Nat) : (s.report c u d).flitsOut = s.flitsOut := rfl
@[simp] theorem report_answers (s : State) (c u d : Nat) : (s.report c u d).answers = s.answers := rfl
@[simp] theorem report_trustMeas (s : State) (c u d : Nat) : (s.report c u d).trustMeas = s.trustMeas := rfl
@[simp] theorem report_trustNonce (s : State) (c u d : Nat) : (s.report c u d).trustNonce = s.trustNonce := rfl
@[simp] theorem report_trustAttest (s : State) (c u d : Nat) : (s.report c u d).trustAttest = s.trustAttest := rfl
@[simp] theorem report_attestNonce (s : State) (c u d : Nat) : (s.report c u d).attestNonce = s.attestNonce := rfl
@[simp] theorem report_trustReport (s : State) (c u d : Nat) : (s.report c u d).trustReport = s.trustReport := rfl
@[simp] theorem report_fwImage (s : State) (c u d : Nat) : (s.report c u d).fwImage = s.fwImage := rfl
@[simp] theorem report_fwVersion (s : State) (c u d : Nat) : (s.report c u d).fwVersion = s.fwVersion := rfl
@[simp] theorem report_fwRunning (s : State) (c u d : Nat) : (s.report c u d).fwRunning = s.fwRunning := rfl
@[simp] theorem report_logCnt (s : State) (c u d : Nat) : (s.report c u d).logCnt = s.logCnt + 1 := rfl
@[simp] theorem report_ecc (s : State) (c u d : Nat) : (s.report c u d).ecc = s.ecc := rfl
@[simp] theorem report_outbox (s : State) (c u d : Nat) : (s.report c u d).outbox = s.outbox := rfl

/-! ## Placing an entry on the agenda touches nothing but the agenda and the stopped entries -/

@[simp] theorem due_cycle (s : State) (n k : Nat) (r : Option Nat) (a : Instr ⊕ Effect) : (s.due n k r a).cycle = s.cycle := by
  unfold State.due; split <;> rfl
@[simp] theorem dueOp_cycle (s : State) (n k : Nat) (r : Option Nat) (i : Instr) : (s.dueOp n k r i).cycle = s.cycle := due_cycle ..
@[simp] theorem dueEff_cycle (s : State) (n k : Nat) (r : Option Nat) (i : Effect) : (s.dueEff n k r i).cycle = s.cycle := due_cycle ..
@[simp] theorem due_phase (s : State) (n k : Nat) (r : Option Nat) (a : Instr ⊕ Effect) : (s.due n k r a).phase = s.phase := by
  unfold State.due; split <;> rfl
@[simp] theorem dueOp_phase (s : State) (n k : Nat) (r : Option Nat) (i : Instr) : (s.dueOp n k r i).phase = s.phase := due_phase ..
@[simp] theorem dueEff_phase (s : State) (n k : Nat) (r : Option Nat) (i : Effect) : (s.dueEff n k r i).phase = s.phase := due_phase ..
@[simp] theorem due_ctx (s : State) (n k : Nat) (r : Option Nat) (a : Instr ⊕ Effect) : (s.due n k r a).ctx = s.ctx := by
  unfold State.due; split <;> rfl
@[simp] theorem dueOp_ctx (s : State) (n k : Nat) (r : Option Nat) (i : Instr) : (s.dueOp n k r i).ctx = s.ctx := due_ctx ..
@[simp] theorem dueEff_ctx (s : State) (n k : Nat) (r : Option Nat) (i : Effect) : (s.dueEff n k r i).ctx = s.ctx := due_ctx ..
@[simp] theorem due_flights (s : State) (n k : Nat) (r : Option Nat) (a : Instr ⊕ Effect) : (s.due n k r a).flights = s.flights := by
  unfold State.due; split <;> rfl
@[simp] theorem dueOp_flights (s : State) (n k : Nat) (r : Option Nat) (i : Instr) : (s.dueOp n k r i).flights = s.flights := due_flights ..
@[simp] theorem dueEff_flights (s : State) (n k : Nat) (r : Option Nat) (i : Effect) : (s.dueEff n k r i).flights = s.flights := due_flights ..
@[simp] theorem due_undo (s : State) (n k : Nat) (r : Option Nat) (a : Instr ⊕ Effect) : (s.due n k r a).undo = s.undo := by
  unfold State.due; split <;> rfl
@[simp] theorem dueOp_undo (s : State) (n k : Nat) (r : Option Nat) (i : Instr) : (s.dueOp n k r i).undo = s.undo := due_undo ..
@[simp] theorem dueEff_undo (s : State) (n k : Nat) (r : Option Nat) (i : Effect) : (s.dueEff n k r i).undo = s.undo := due_undo ..
@[simp] theorem due_fresh (s : State) (n k : Nat) (r : Option Nat) (a : Instr ⊕ Effect) : (s.due n k r a).fresh = s.fresh := by
  unfold State.due; split <;> rfl
@[simp] theorem dueOp_fresh (s : State) (n k : Nat) (r : Option Nat) (i : Instr) : (s.dueOp n k r i).fresh = s.fresh := due_fresh ..
@[simp] theorem dueEff_fresh (s : State) (n k : Nat) (r : Option Nat) (i : Effect) : (s.dueEff n k r i).fresh = s.fresh := due_fresh ..
@[simp] theorem due_serial (s : State) (n k : Nat) (r : Option Nat) (a : Instr ⊕ Effect) : (s.due n k r a).serial = s.serial := by
  unfold State.due; split <;> rfl
@[simp] theorem dueOp_serial (s : State) (n k : Nat) (r : Option Nat) (i : Instr) : (s.dueOp n k r i).serial = s.serial := due_serial ..
@[simp] theorem dueEff_serial (s : State) (n k : Nat) (r : Option Nat) (i : Effect) : (s.dueEff n k r i).serial = s.serial := due_serial ..
@[simp] theorem due_mem (s : State) (n k : Nat) (r : Option Nat) (a : Instr ⊕ Effect) : (s.due n k r a).mem = s.mem := by
  unfold State.due; split <;> rfl
@[simp] theorem dueOp_mem (s : State) (n k : Nat) (r : Option Nat) (i : Instr) : (s.dueOp n k r i).mem = s.mem := due_mem ..
@[simp] theorem dueEff_mem (s : State) (n k : Nat) (r : Option Nat) (i : Effect) : (s.dueEff n k r i).mem = s.mem := due_mem ..
@[simp] theorem due_memOld (s : State) (n k : Nat) (r : Option Nat) (a : Instr ⊕ Effect) : (s.due n k r a).memOld = s.memOld := by
  unfold State.due; split <;> rfl
@[simp] theorem dueOp_memOld (s : State) (n k : Nat) (r : Option Nat) (i : Instr) : (s.dueOp n k r i).memOld = s.memOld := due_memOld ..
@[simp] theorem dueEff_memOld (s : State) (n k : Nat) (r : Option Nat) (i : Effect) : (s.dueEff n k r i).memOld = s.memOld := due_memOld ..
@[simp] theorem due_memOldAt (s : State) (n k : Nat) (r : Option Nat) (a : Instr ⊕ Effect) : (s.due n k r a).memOldAt = s.memOldAt := by
  unfold State.due; split <;> rfl
@[simp] theorem dueOp_memOldAt (s : State) (n k : Nat) (r : Option Nat) (i : Instr) : (s.dueOp n k r i).memOldAt = s.memOldAt := due_memOldAt ..
@[simp] theorem dueEff_memOldAt (s : State) (n k : Nat) (r : Option Nat) (i : Effect) : (s.dueEff n k r i).memOldAt = s.memOldAt := due_memOldAt ..
@[simp] theorem due_slots (s : State) (n k : Nat) (r : Option Nat) (a : Instr ⊕ Effect) : (s.due n k r a).slots = s.slots := by
  unfold State.due; split <;> rfl
@[simp] theorem dueOp_slots (s : State) (n k : Nat) (r : Option Nat) (i : Instr) : (s.dueOp n k r i).slots = s.slots := due_slots ..
@[simp] theorem dueEff_slots (s : State) (n k : Nat) (r : Option Nat) (i : Effect) : (s.dueEff n k r i).slots = s.slots := due_slots ..
@[simp] theorem due_elems (s : State) (n k : Nat) (r : Option Nat) (a : Instr ⊕ Effect) : (s.due n k r a).elems = s.elems := by
  unfold State.due; split <;> rfl
@[simp] theorem dueOp_elems (s : State) (n k : Nat) (r : Option Nat) (i : Instr) : (s.dueOp n k r i).elems = s.elems := due_elems ..
@[simp] theorem dueEff_elems (s : State) (n k : Nat) (r : Option Nat) (i : Effect) : (s.dueEff n k r i).elems = s.elems := due_elems ..
@[simp] theorem due_clusters (s : State) (n k : Nat) (r : Option Nat) (a : Instr ⊕ Effect) : (s.due n k r a).clusters = s.clusters := by
  unfold State.due; split <;> rfl
@[simp] theorem dueOp_clusters (s : State) (n k : Nat) (r : Option Nat) (i : Instr) : (s.dueOp n k r i).clusters = s.clusters := due_clusters ..
@[simp] theorem dueEff_clusters (s : State) (n k : Nat) (r : Option Nat) (i : Effect) : (s.dueEff n k r i).clusters = s.clusters := due_clusters ..
@[simp] theorem due_regions (s : State) (n k : Nat) (r : Option Nat) (a : Instr ⊕ Effect) : (s.due n k r a).regions = s.regions := by
  unfold State.due; split <;> rfl
@[simp] theorem dueOp_regions (s : State) (n k : Nat) (r : Option Nat) (i : Instr) : (s.dueOp n k r i).regions = s.regions := due_regions ..
@[simp] theorem dueEff_regions (s : State) (n k : Nat) (r : Option Nat) (i : Effect) : (s.dueEff n k r i).regions = s.regions := due_regions ..
@[simp] theorem due_slices (s : State) (n k : Nat) (r : Option Nat) (a : Instr ⊕ Effect) : (s.due n k r a).slices = s.slices := by
  unfold State.due; split <;> rfl
@[simp] theorem dueOp_slices (s : State) (n k : Nat) (r : Option Nat) (i : Instr) : (s.dueOp n k r i).slices = s.slices := due_slices ..
@[simp] theorem dueEff_slices (s : State) (n k : Nat) (r : Option Nat) (i : Effect) : (s.dueEff n k r i).slices = s.slices := due_slices ..
@[simp] theorem due_stamps (s : State) (n k : Nat) (r : Option Nat) (a : Instr ⊕ Effect) : (s.due n k r a).stamps = s.stamps := by
  unfold State.due; split <;> rfl
@[simp] theorem dueOp_stamps (s : State) (n k : Nat) (r : Option Nat) (i : Instr) : (s.dueOp n k r i).stamps = s.stamps := due_stamps ..
@[simp] theorem dueEff_stamps (s : State) (n k : Nat) (r : Option Nat) (i : Effect) : (s.dueEff n k r i).stamps = s.stamps := due_stamps ..
@[simp] theorem due_refused (s : State) (n k : Nat) (r : Option Nat) (a : Instr ⊕ Effect) : (s.due n k r a).refused = s.refused := by
  unfold State.due; split <;> rfl
@[simp] theorem dueOp_refused (s : State) (n k : Nat) (r : Option Nat) (i : Instr) : (s.dueOp n k r i).refused = s.refused := due_refused ..
@[simp] theorem dueEff_refused (s : State) (n k : Nat) (r : Option Nat) (i : Effect) : (s.dueEff n k r i).refused = s.refused := due_refused ..
@[simp] theorem due_launches (s : State) (n k : Nat) (r : Option Nat) (a : Instr ⊕ Effect) : (s.due n k r a).launches = s.launches := by
  unfold State.due; split <;> rfl
@[simp] theorem dueOp_launches (s : State) (n k : Nat) (r : Option Nat) (i : Instr) : (s.dueOp n k r i).launches = s.launches := due_launches ..
@[simp] theorem dueEff_launches (s : State) (n k : Nat) (r : Option Nat) (i : Effect) : (s.dueEff n k r i).launches = s.launches := due_launches ..
@[simp] theorem due_points (s : State) (n k : Nat) (r : Option Nat) (a : Instr ⊕ Effect) : (s.due n k r a).points = s.points := by
  unfold State.due; split <;> rfl
@[simp] theorem dueOp_points (s : State) (n k : Nat) (r : Option Nat) (i : Instr) : (s.dueOp n k r i).points = s.points := due_points ..
@[simp] theorem dueEff_points (s : State) (n k : Nat) (r : Option Nat) (i : Effect) : (s.dueEff n k r i).points = s.points := due_points ..
@[simp] theorem due_beats (s : State) (n k : Nat) (r : Option Nat) (a : Instr ⊕ Effect) : (s.due n k r a).beats = s.beats := by
  unfold State.due; split <;> rfl
@[simp] theorem dueOp_beats (s : State) (n k : Nat) (r : Option Nat) (i : Instr) : (s.dueOp n k r i).beats = s.beats := due_beats ..
@[simp] theorem dueEff_beats (s : State) (n k : Nat) (r : Option Nat) (i : Effect) : (s.dueEff n k r i).beats = s.beats := due_beats ..
@[simp] theorem due_joins (s : State) (n k : Nat) (r : Option Nat) (a : Instr ⊕ Effect) : (s.due n k r a).joins = s.joins := by
  unfold State.due; split <;> rfl
@[simp] theorem dueOp_joins (s : State) (n k : Nat) (r : Option Nat) (i : Instr) : (s.dueOp n k r i).joins = s.joins := due_joins ..
@[simp] theorem dueEff_joins (s : State) (n k : Nat) (r : Option Nat) (i : Effect) : (s.dueEff n k r i).joins = s.joins := due_joins ..
@[simp] theorem due_swaps (s : State) (n k : Nat) (r : Option Nat) (a : Instr ⊕ Effect) : (s.due n k r a).swaps = s.swaps := by
  unfold State.due; split <;> rfl
@[simp] theorem dueOp_swaps (s : State) (n k : Nat) (r : Option Nat) (i : Instr) : (s.dueOp n k r i).swaps = s.swaps := due_swaps ..
@[simp] theorem dueEff_swaps (s : State) (n k : Nat) (r : Option Nat) (i : Effect) : (s.dueEff n k r i).swaps = s.swaps := due_swaps ..
@[simp] theorem due_accs (s : State) (n k : Nat) (r : Option Nat) (a : Instr ⊕ Effect) : (s.due n k r a).accs = s.accs := by
  unfold State.due; split <;> rfl
@[simp] theorem dueOp_accs (s : State) (n k : Nat) (r : Option Nat) (i : Instr) : (s.dueOp n k r i).accs = s.accs := due_accs ..
@[simp] theorem dueEff_accs (s : State) (n k : Nat) (r : Option Nat) (i : Effect) : (s.dueEff n k r i).accs = s.accs := due_accs ..
@[simp] theorem due_reqs (s : State) (n k : Nat) (r : Option Nat) (a : Instr ⊕ Effect) : (s.due n k r a).reqs = s.reqs := by
  unfold State.due; split <;> rfl
@[simp] theorem dueOp_reqs (s : State) (n k : Nat) (r : Option Nat) (i : Instr) : (s.dueOp n k r i).reqs = s.reqs := due_reqs ..
@[simp] theorem dueEff_reqs (s : State) (n k : Nat) (r : Option Nat) (i : Effect) : (s.dueEff n k r i).reqs = s.reqs := due_reqs ..
@[simp] theorem due_loads (s : State) (n k : Nat) (r : Option Nat) (a : Instr ⊕ Effect) : (s.due n k r a).loads = s.loads := by
  unfold State.due; split <;> rfl
@[simp] theorem dueOp_loads (s : State) (n k : Nat) (r : Option Nat) (i : Instr) : (s.dueOp n k r i).loads = s.loads := due_loads ..
@[simp] theorem dueEff_loads (s : State) (n k : Nat) (r : Option Nat) (i : Effect) : (s.dueEff n k r i).loads = s.loads := due_loads ..
@[simp] theorem due_reports (s : State) (n k : Nat) (r : Option Nat) (a : Instr ⊕ Effect) : (s.due n k r a).reports = s.reports := by
  unfold State.due; split <;> rfl
@[simp] theorem dueOp_reports (s : State) (n k : Nat) (r : Option Nat) (i : Instr) : (s.dueOp n k r i).reports = s.reports := due_reports ..
@[simp] theorem dueEff_reports (s : State) (n k : Nat) (r : Option Nat) (i : Effect) : (s.dueEff n k r i).reports = s.reports := due_reports ..
@[simp] theorem due_upds (s : State) (n k : Nat) (r : Option Nat) (a : Instr ⊕ Effect) : (s.due n k r a).upds = s.upds := by
  unfold State.due; split <;> rfl
@[simp] theorem dueOp_upds (s : State) (n k : Nat) (r : Option Nat) (i : Instr) : (s.dueOp n k r i).upds = s.upds := due_upds ..
@[simp] theorem dueEff_upds (s : State) (n k : Nat) (r : Option Nat) (i : Effect) : (s.dueEff n k r i).upds = s.upds := due_upds ..
@[simp] theorem due_ports (s : State) (n k : Nat) (r : Option Nat) (a : Instr ⊕ Effect) : (s.due n k r a).ports = s.ports := by
  unfold State.due; split <;> rfl
@[simp] theorem dueOp_ports (s : State) (n k : Nat) (r : Option Nat) (i : Instr) : (s.dueOp n k r i).ports = s.ports := due_ports ..
@[simp] theorem dueEff_ports (s : State) (n k : Nat) (r : Option Nat) (i : Effect) : (s.dueEff n k r i).ports = s.ports := due_ports ..
@[simp] theorem due_hostSem (s : State) (n k : Nat) (r : Option Nat) (a : Instr ⊕ Effect) : (s.due n k r a).hostSem = s.hostSem := by
  unfold State.due; split <;> rfl
@[simp] theorem dueOp_hostSem (s : State) (n k : Nat) (r : Option Nat) (i : Instr) : (s.dueOp n k r i).hostSem = s.hostSem := due_hostSem ..
@[simp] theorem dueEff_hostSem (s : State) (n k : Nat) (r : Option Nat) (i : Effect) : (s.dueEff n k r i).hostSem = s.hostSem := due_hostSem ..
@[simp] theorem due_memwin (s : State) (n k : Nat) (r : Option Nat) (a : Instr ⊕ Effect) : (s.due n k r a).memwin = s.memwin := by
  unfold State.due; split <;> rfl
@[simp] theorem dueOp_memwin (s : State) (n k : Nat) (r : Option Nat) (i : Instr) : (s.dueOp n k r i).memwin = s.memwin := due_memwin ..
@[simp] theorem dueEff_memwin (s : State) (n k : Nat) (r : Option Nat) (i : Effect) : (s.dueEff n k r i).memwin = s.memwin := due_memwin ..
@[simp] theorem due_hostDown (s : State) (n k : Nat) (r : Option Nat) (a : Instr ⊕ Effect) : (s.due n k r a).hostDown = s.hostDown := by
  unfold State.due; split <;> rfl
@[simp] theorem dueOp_hostDown (s : State) (n k : Nat) (r : Option Nat) (i : Instr) : (s.dueOp n k r i).hostDown = s.hostDown := due_hostDown ..
@[simp] theorem dueEff_hostDown (s : State) (n k : Nat) (r : Option Nat) (i : Effect) : (s.dueEff n k r i).hostDown = s.hostDown := due_hostDown ..
@[simp] theorem due_xlatBase (s : State) (n k : Nat) (r : Option Nat) (a : Instr ⊕ Effect) : (s.due n k r a).xlatBase = s.xlatBase := by
  unfold State.due; split <;> rfl
@[simp] theorem dueOp_xlatBase (s : State) (n k : Nat) (r : Option Nat) (i : Instr) : (s.dueOp n k r i).xlatBase = s.xlatBase := due_xlatBase ..
@[simp] theorem dueEff_xlatBase (s : State) (n k : Nat) (r : Option Nat) (i : Effect) : (s.dueEff n k r i).xlatBase = s.xlatBase := due_xlatBase ..
@[simp] theorem due_kilnBudget (s : State) (n k : Nat) (r : Option Nat) (a : Instr ⊕ Effect) : (s.due n k r a).kilnBudget = s.kilnBudget := by
  unfold State.due; split <;> rfl
@[simp] theorem dueOp_kilnBudget (s : State) (n k : Nat) (r : Option Nat) (i : Instr) : (s.dueOp n k r i).kilnBudget = s.kilnBudget := due_kilnBudget ..
@[simp] theorem dueEff_kilnBudget (s : State) (n k : Nat) (r : Option Nat) (i : Effect) : (s.dueEff n k r i).kilnBudget = s.kilnBudget := due_kilnBudget ..
@[simp] theorem due_kilnBase (s : State) (n k : Nat) (r : Option Nat) (a : Instr ⊕ Effect) : (s.due n k r a).kilnBase = s.kilnBase := by
  unfold State.due; split <;> rfl
@[simp] theorem dueOp_kilnBase (s : State) (n k : Nat) (r : Option Nat) (i : Instr) : (s.dueOp n k r i).kilnBase = s.kilnBase := due_kilnBase ..
@[simp] theorem dueEff_kilnBase (s : State) (n k : Nat) (r : Option Nat) (i : Effect) : (s.dueEff n k r i).kilnBase = s.kilnBase := due_kilnBase ..
@[simp] theorem due_kilnReserved (s : State) (n k : Nat) (r : Option Nat) (a : Instr ⊕ Effect) : (s.due n k r a).kilnReserved = s.kilnReserved := by
  unfold State.due; split <;> rfl
@[simp] theorem dueOp_kilnReserved (s : State) (n k : Nat) (r : Option Nat) (i : Instr) : (s.dueOp n k r i).kilnReserved = s.kilnReserved := due_kilnReserved ..
@[simp] theorem dueEff_kilnReserved (s : State) (n k : Nat) (r : Option Nat) (i : Effect) : (s.dueEff n k r i).kilnReserved = s.kilnReserved := due_kilnReserved ..
@[simp] theorem due_kilnWindow (s : State) (n k : Nat) (r : Option Nat) (a : Instr ⊕ Effect) : (s.due n k r a).kilnWindow = s.kilnWindow := by
  unfold State.due; split <;> rfl
@[simp] theorem dueOp_kilnWindow (s : State) (n k : Nat) (r : Option Nat) (i : Instr) : (s.dueOp n k r i).kilnWindow = s.kilnWindow := due_kilnWindow ..
@[simp] theorem dueEff_kilnWindow (s : State) (n k : Nat) (r : Option Nat) (i : Effect) : (s.dueEff n k r i).kilnWindow = s.kilnWindow := due_kilnWindow ..
@[simp] theorem due_counted (s : State) (n k : Nat) (r : Option Nat) (a : Instr ⊕ Effect) : (s.due n k r a).counted = s.counted := by
  unfold State.due; split <;> rfl
@[simp] theorem dueOp_counted (s : State) (n k : Nat) (r : Option Nat) (i : Instr) : (s.dueOp n k r i).counted = s.counted := due_counted ..
@[simp] theorem dueEff_counted (s : State) (n k : Nat) (r : Option Nat) (i : Effect) : (s.dueEff n k r i).counted = s.counted := due_counted ..
@[simp] theorem due_hot (s : State) (n k : Nat) (r : Option Nat) (a : Instr ⊕ Effect) : (s.due n k r a).hot = s.hot := by
  unfold State.due; split <;> rfl
@[simp] theorem dueOp_hot (s : State) (n k : Nat) (r : Option Nat) (i : Instr) : (s.dueOp n k r i).hot = s.hot := due_hot ..
@[simp] theorem dueEff_hot (s : State) (n k : Nat) (r : Option Nat) (i : Effect) : (s.dueEff n k r i).hot = s.hot := due_hot ..
@[simp] theorem due_off (s : State) (n k : Nat) (r : Option Nat) (a : Instr ⊕ Effect) : (s.due n k r a).off = s.off := by
  unfold State.due; split <;> rfl
@[simp] theorem dueOp_off (s : State) (n k : Nat) (r : Option Nat) (i : Instr) : (s.dueOp n k r i).off = s.off := due_off ..
@[simp] theorem dueEff_off (s : State) (n k : Nat) (r : Option Nat) (i : Effect) : (s.dueEff n k r i).off = s.off := due_off ..
@[simp] theorem due_peerStat (s : State) (n k : Nat) (r : Option Nat) (a : Instr ⊕ Effect) : (s.due n k r a).peerStat = s.peerStat := by
  unfold State.due; split <;> rfl
@[simp] theorem dueOp_peerStat (s : State) (n k : Nat) (r : Option Nat) (i : Instr) : (s.dueOp n k r i).peerStat = s.peerStat := due_peerStat ..
@[simp] theorem dueEff_peerStat (s : State) (n k : Nat) (r : Option Nat) (i : Effect) : (s.dueEff n k r i).peerStat = s.peerStat := due_peerStat ..
@[simp] theorem due_peerSeq (s : State) (n k : Nat) (r : Option Nat) (a : Instr ⊕ Effect) : (s.due n k r a).peerSeq = s.peerSeq := by
  unfold State.due; split <;> rfl
@[simp] theorem dueOp_peerSeq (s : State) (n k : Nat) (r : Option Nat) (i : Instr) : (s.dueOp n k r i).peerSeq = s.peerSeq := due_peerSeq ..
@[simp] theorem dueEff_peerSeq (s : State) (n k : Nat) (r : Option Nat) (i : Effect) : (s.dueEff n k r i).peerSeq = s.peerSeq := due_peerSeq ..
@[simp] theorem due_peerNext (s : State) (n k : Nat) (r : Option Nat) (a : Instr ⊕ Effect) : (s.due n k r a).peerNext = s.peerNext := by
  unfold State.due; split <;> rfl
@[simp] theorem dueOp_peerNext (s : State) (n k : Nat) (r : Option Nat) (i : Instr) : (s.dueOp n k r i).peerNext = s.peerNext := due_peerNext ..
@[simp] theorem dueEff_peerNext (s : State) (n k : Nat) (r : Option Nat) (i : Effect) : (s.dueEff n k r i).peerNext = s.peerNext := due_peerNext ..
@[simp] theorem due_peerSent (s : State) (n k : Nat) (r : Option Nat) (a : Instr ⊕ Effect) : (s.due n k r a).peerSent = s.peerSent := by
  unfold State.due; split <;> rfl
@[simp] theorem dueOp_peerSent (s : State) (n k : Nat) (r : Option Nat) (i : Instr) : (s.dueOp n k r i).peerSent = s.peerSent := due_peerSent ..
@[simp] theorem dueEff_peerSent (s : State) (n k : Nat) (r : Option Nat) (i : Effect) : (s.dueEff n k r i).peerSent = s.peerSent := due_peerSent ..
@[simp] theorem due_flitsOut (s : State) (n k : Nat) (r : Option Nat) (a : Instr ⊕ Effect) : (s.due n k r a).flitsOut = s.flitsOut := by
  unfold State.due; split <;> rfl
@[simp] theorem dueOp_flitsOut (s : State) (n k : Nat) (r : Option Nat) (i : Instr) : (s.dueOp n k r i).flitsOut = s.flitsOut := due_flitsOut ..
@[simp] theorem dueEff_flitsOut (s : State) (n k : Nat) (r : Option Nat) (i : Effect) : (s.dueEff n k r i).flitsOut = s.flitsOut := due_flitsOut ..
@[simp] theorem due_answers (s : State) (n k : Nat) (r : Option Nat) (a : Instr ⊕ Effect) : (s.due n k r a).answers = s.answers := by
  unfold State.due; split <;> rfl
@[simp] theorem dueOp_answers (s : State) (n k : Nat) (r : Option Nat) (i : Instr) : (s.dueOp n k r i).answers = s.answers := due_answers ..
@[simp] theorem dueEff_answers (s : State) (n k : Nat) (r : Option Nat) (i : Effect) : (s.dueEff n k r i).answers = s.answers := due_answers ..
@[simp] theorem due_trustMeas (s : State) (n k : Nat) (r : Option Nat) (a : Instr ⊕ Effect) : (s.due n k r a).trustMeas = s.trustMeas := by
  unfold State.due; split <;> rfl
@[simp] theorem dueOp_trustMeas (s : State) (n k : Nat) (r : Option Nat) (i : Instr) : (s.dueOp n k r i).trustMeas = s.trustMeas := due_trustMeas ..
@[simp] theorem dueEff_trustMeas (s : State) (n k : Nat) (r : Option Nat) (i : Effect) : (s.dueEff n k r i).trustMeas = s.trustMeas := due_trustMeas ..
@[simp] theorem due_trustNonce (s : State) (n k : Nat) (r : Option Nat) (a : Instr ⊕ Effect) : (s.due n k r a).trustNonce = s.trustNonce := by
  unfold State.due; split <;> rfl
@[simp] theorem dueOp_trustNonce (s : State) (n k : Nat) (r : Option Nat) (i : Instr) : (s.dueOp n k r i).trustNonce = s.trustNonce := due_trustNonce ..
@[simp] theorem dueEff_trustNonce (s : State) (n k : Nat) (r : Option Nat) (i : Effect) : (s.dueEff n k r i).trustNonce = s.trustNonce := due_trustNonce ..
@[simp] theorem due_trustAttest (s : State) (n k : Nat) (r : Option Nat) (a : Instr ⊕ Effect) : (s.due n k r a).trustAttest = s.trustAttest := by
  unfold State.due; split <;> rfl
@[simp] theorem dueOp_trustAttest (s : State) (n k : Nat) (r : Option Nat) (i : Instr) : (s.dueOp n k r i).trustAttest = s.trustAttest := due_trustAttest ..
@[simp] theorem dueEff_trustAttest (s : State) (n k : Nat) (r : Option Nat) (i : Effect) : (s.dueEff n k r i).trustAttest = s.trustAttest := due_trustAttest ..
@[simp] theorem due_attestNonce (s : State) (n k : Nat) (r : Option Nat) (a : Instr ⊕ Effect) : (s.due n k r a).attestNonce = s.attestNonce := by
  unfold State.due; split <;> rfl
@[simp] theorem dueOp_attestNonce (s : State) (n k : Nat) (r : Option Nat) (i : Instr) : (s.dueOp n k r i).attestNonce = s.attestNonce := due_attestNonce ..
@[simp] theorem dueEff_attestNonce (s : State) (n k : Nat) (r : Option Nat) (i : Effect) : (s.dueEff n k r i).attestNonce = s.attestNonce := due_attestNonce ..
@[simp] theorem due_trustReport (s : State) (n k : Nat) (r : Option Nat) (a : Instr ⊕ Effect) : (s.due n k r a).trustReport = s.trustReport := by
  unfold State.due; split <;> rfl
@[simp] theorem dueOp_trustReport (s : State) (n k : Nat) (r : Option Nat) (i : Instr) : (s.dueOp n k r i).trustReport = s.trustReport := due_trustReport ..
@[simp] theorem dueEff_trustReport (s : State) (n k : Nat) (r : Option Nat) (i : Effect) : (s.dueEff n k r i).trustReport = s.trustReport := due_trustReport ..
@[simp] theorem due_fwImage (s : State) (n k : Nat) (r : Option Nat) (a : Instr ⊕ Effect) : (s.due n k r a).fwImage = s.fwImage := by
  unfold State.due; split <;> rfl
@[simp] theorem dueOp_fwImage (s : State) (n k : Nat) (r : Option Nat) (i : Instr) : (s.dueOp n k r i).fwImage = s.fwImage := due_fwImage ..
@[simp] theorem dueEff_fwImage (s : State) (n k : Nat) (r : Option Nat) (i : Effect) : (s.dueEff n k r i).fwImage = s.fwImage := due_fwImage ..
@[simp] theorem due_fwVersion (s : State) (n k : Nat) (r : Option Nat) (a : Instr ⊕ Effect) : (s.due n k r a).fwVersion = s.fwVersion := by
  unfold State.due; split <;> rfl
@[simp] theorem dueOp_fwVersion (s : State) (n k : Nat) (r : Option Nat) (i : Instr) : (s.dueOp n k r i).fwVersion = s.fwVersion := due_fwVersion ..
@[simp] theorem dueEff_fwVersion (s : State) (n k : Nat) (r : Option Nat) (i : Effect) : (s.dueEff n k r i).fwVersion = s.fwVersion := due_fwVersion ..
@[simp] theorem due_fwRunning (s : State) (n k : Nat) (r : Option Nat) (a : Instr ⊕ Effect) : (s.due n k r a).fwRunning = s.fwRunning := by
  unfold State.due; split <;> rfl
@[simp] theorem dueOp_fwRunning (s : State) (n k : Nat) (r : Option Nat) (i : Instr) : (s.dueOp n k r i).fwRunning = s.fwRunning := due_fwRunning ..
@[simp] theorem dueEff_fwRunning (s : State) (n k : Nat) (r : Option Nat) (i : Effect) : (s.dueEff n k r i).fwRunning = s.fwRunning := due_fwRunning ..
@[simp] theorem due_log (s : State) (n k : Nat) (r : Option Nat) (a : Instr ⊕ Effect) : (s.due n k r a).log = s.log := by
  unfold State.due; split <;> rfl
@[simp] theorem dueOp_log (s : State) (n k : Nat) (r : Option Nat) (i : Instr) : (s.dueOp n k r i).log = s.log := due_log ..
@[simp] theorem dueEff_log (s : State) (n k : Nat) (r : Option Nat) (i : Effect) : (s.dueEff n k r i).log = s.log := due_log ..
@[simp] theorem due_logCnt (s : State) (n k : Nat) (r : Option Nat) (a : Instr ⊕ Effect) : (s.due n k r a).logCnt = s.logCnt := by
  unfold State.due; split <;> rfl
@[simp] theorem dueOp_logCnt (s : State) (n k : Nat) (r : Option Nat) (i : Instr) : (s.dueOp n k r i).logCnt = s.logCnt := due_logCnt ..
@[simp] theorem dueEff_logCnt (s : State) (n k : Nat) (r : Option Nat) (i : Effect) : (s.dueEff n k r i).logCnt = s.logCnt := due_logCnt ..
@[simp] theorem due_ecc (s : State) (n k : Nat) (r : Option Nat) (a : Instr ⊕ Effect) : (s.due n k r a).ecc = s.ecc := by
  unfold State.due; split <;> rfl
@[simp] theorem dueOp_ecc (s : State) (n k : Nat) (r : Option Nat) (i : Instr) : (s.dueOp n k r i).ecc = s.ecc := due_ecc ..
@[simp] theorem dueEff_ecc (s : State) (n k : Nat) (r : Option Nat) (i : Effect) : (s.dueEff n k r i).ecc = s.ecc := due_ecc ..
@[simp] theorem due_outbox (s : State) (n k : Nat) (r : Option Nat) (a : Instr ⊕ Effect) : (s.due n k r a).outbox = s.outbox := by
  unfold State.due; split <;> rfl
@[simp] theorem dueOp_outbox (s : State) (n k : Nat) (r : Option Nat) (i : Instr) : (s.dueOp n k r i).outbox = s.outbox := due_outbox ..
@[simp] theorem dueEff_outbox (s : State) (n k : Nat) (r : Option Nat) (i : Effect) : (s.dueEff n k r i).outbox = s.outbox := due_outbox ..

/-! ## The protection list -/

@[simp] theorem eccClear_cycle (s : State) (l : List EccAt) : (s.eccClear l).cycle = s.cycle := by
  unfold State.eccClear; split <;> rfl
@[simp] theorem eccClear_phase (s : State) (l : List EccAt) : (s.eccClear l).phase = s.phase := by
  unfold State.eccClear; split <;> rfl
@[simp] theorem eccClear_ctx (s : State) (l : List EccAt) : (s.eccClear l).ctx = s.ctx := by
  unfold State.eccClear; split <;> rfl
@[simp] theorem eccClear_agenda (s : State) (l : List EccAt) : (s.eccClear l).agenda = s.agenda := by
  unfold State.eccClear; split <;> rfl
@[simp] theorem eccClear_frozen (s : State) (l : List EccAt) : (s.eccClear l).frozen = s.frozen := by
  unfold State.eccClear; split <;> rfl
@[simp] theorem eccClear_flights (s : State) (l : List EccAt) : (s.eccClear l).flights = s.flights := by
  unfold State.eccClear; split <;> rfl
@[simp] theorem eccClear_undo (s : State) (l : List EccAt) : (s.eccClear l).undo = s.undo := by
  unfold State.eccClear; split <;> rfl
@[simp] theorem eccClear_fresh (s : State) (l : List EccAt) : (s.eccClear l).fresh = s.fresh := by
  unfold State.eccClear; split <;> rfl
@[simp] theorem eccClear_serial (s : State) (l : List EccAt) : (s.eccClear l).serial = s.serial := by
  unfold State.eccClear; split <;> rfl
@[simp] theorem eccClear_mem (s : State) (l : List EccAt) : (s.eccClear l).mem = s.mem := by
  unfold State.eccClear; split <;> rfl
@[simp] theorem eccClear_memOld (s : State) (l : List EccAt) : (s.eccClear l).memOld = s.memOld := by
  unfold State.eccClear; split <;> rfl
@[simp] theorem eccClear_memOldAt (s : State) (l : List EccAt) : (s.eccClear l).memOldAt = s.memOldAt := by
  unfold State.eccClear; split <;> rfl
@[simp] theorem eccClear_slots (s : State) (l : List EccAt) : (s.eccClear l).slots = s.slots := by
  unfold State.eccClear; split <;> rfl
@[simp] theorem eccClear_elems (s : State) (l : List EccAt) : (s.eccClear l).elems = s.elems := by
  unfold State.eccClear; split <;> rfl
@[simp] theorem eccClear_clusters (s : State) (l : List EccAt) : (s.eccClear l).clusters = s.clusters := by
  unfold State.eccClear; split <;> rfl
@[simp] theorem eccClear_regions (s : State) (l : List EccAt) : (s.eccClear l).regions = s.regions := by
  unfold State.eccClear; split <;> rfl
@[simp] theorem eccClear_slices (s : State) (l : List EccAt) : (s.eccClear l).slices = s.slices := by
  unfold State.eccClear; split <;> rfl
@[simp] theorem eccClear_stamps (s : State) (l : List EccAt) : (s.eccClear l).stamps = s.stamps := by
  unfold State.eccClear; split <;> rfl
@[simp] theorem eccClear_refused (s : State) (l : List EccAt) : (s.eccClear l).refused = s.refused := by
  unfold State.eccClear; split <;> rfl
@[simp] theorem eccClear_launches (s : State) (l : List EccAt) : (s.eccClear l).launches = s.launches := by
  unfold State.eccClear; split <;> rfl
@[simp] theorem eccClear_points (s : State) (l : List EccAt) : (s.eccClear l).points = s.points := by
  unfold State.eccClear; split <;> rfl
@[simp] theorem eccClear_beats (s : State) (l : List EccAt) : (s.eccClear l).beats = s.beats := by
  unfold State.eccClear; split <;> rfl
@[simp] theorem eccClear_joins (s : State) (l : List EccAt) : (s.eccClear l).joins = s.joins := by
  unfold State.eccClear; split <;> rfl
@[simp] theorem eccClear_swaps (s : State) (l : List EccAt) : (s.eccClear l).swaps = s.swaps := by
  unfold State.eccClear; split <;> rfl
@[simp] theorem eccClear_accs (s : State) (l : List EccAt) : (s.eccClear l).accs = s.accs := by
  unfold State.eccClear; split <;> rfl
@[simp] theorem eccClear_reqs (s : State) (l : List EccAt) : (s.eccClear l).reqs = s.reqs := by
  unfold State.eccClear; split <;> rfl
@[simp] theorem eccClear_loads (s : State) (l : List EccAt) : (s.eccClear l).loads = s.loads := by
  unfold State.eccClear; split <;> rfl
@[simp] theorem eccClear_reports (s : State) (l : List EccAt) : (s.eccClear l).reports = s.reports := by
  unfold State.eccClear; split <;> rfl
@[simp] theorem eccClear_upds (s : State) (l : List EccAt) : (s.eccClear l).upds = s.upds := by
  unfold State.eccClear; split <;> rfl
@[simp] theorem eccClear_ports (s : State) (l : List EccAt) : (s.eccClear l).ports = s.ports := by
  unfold State.eccClear; split <;> rfl
@[simp] theorem eccClear_hostSem (s : State) (l : List EccAt) : (s.eccClear l).hostSem = s.hostSem := by
  unfold State.eccClear; split <;> rfl
@[simp] theorem eccClear_memwin (s : State) (l : List EccAt) : (s.eccClear l).memwin = s.memwin := by
  unfold State.eccClear; split <;> rfl
@[simp] theorem eccClear_hostDown (s : State) (l : List EccAt) : (s.eccClear l).hostDown = s.hostDown := by
  unfold State.eccClear; split <;> rfl
@[simp] theorem eccClear_xlatBase (s : State) (l : List EccAt) : (s.eccClear l).xlatBase = s.xlatBase := by
  unfold State.eccClear; split <;> rfl
@[simp] theorem eccClear_kilnBudget (s : State) (l : List EccAt) : (s.eccClear l).kilnBudget = s.kilnBudget := by
  unfold State.eccClear; split <;> rfl
@[simp] theorem eccClear_kilnBase (s : State) (l : List EccAt) : (s.eccClear l).kilnBase = s.kilnBase := by
  unfold State.eccClear; split <;> rfl
@[simp] theorem eccClear_kilnReserved (s : State) (l : List EccAt) : (s.eccClear l).kilnReserved = s.kilnReserved := by
  unfold State.eccClear; split <;> rfl
@[simp] theorem eccClear_kilnWindow (s : State) (l : List EccAt) : (s.eccClear l).kilnWindow = s.kilnWindow := by
  unfold State.eccClear; split <;> rfl
@[simp] theorem eccClear_counted (s : State) (l : List EccAt) : (s.eccClear l).counted = s.counted := by
  unfold State.eccClear; split <;> rfl
@[simp] theorem eccClear_hot (s : State) (l : List EccAt) : (s.eccClear l).hot = s.hot := by
  unfold State.eccClear; split <;> rfl
@[simp] theorem eccClear_off (s : State) (l : List EccAt) : (s.eccClear l).off = s.off := by
  unfold State.eccClear; split <;> rfl
@[simp] theorem eccClear_peerStat (s : State) (l : List EccAt) : (s.eccClear l).peerStat = s.peerStat := by
  unfold State.eccClear; split <;> rfl
@[simp] theorem eccClear_peerSeq (s : State) (l : List EccAt) : (s.eccClear l).peerSeq = s.peerSeq := by
  unfold State.eccClear; split <;> rfl
@[simp] theorem eccClear_peerNext (s : State) (l : List EccAt) : (s.eccClear l).peerNext = s.peerNext := by
  unfold State.eccClear; split <;> rfl
@[simp] theorem eccClear_peerSent (s : State) (l : List EccAt) : (s.eccClear l).peerSent = s.peerSent := by
  unfold State.eccClear; split <;> rfl
@[simp] theorem eccClear_flitsOut (s : State) (l : List EccAt) : (s.eccClear l).flitsOut = s.flitsOut := by
  unfold State.eccClear; split <;> rfl
@[simp] theorem eccClear_answers (s : State) (l : List EccAt) : (s.eccClear l).answers = s.answers := by
  unfold State.eccClear; split <;> rfl
@[simp] theorem eccClear_trustMeas (s : State) (l : List EccAt) : (s.eccClear l).trustMeas = s.trustMeas := by
  unfold State.eccClear; split <;> rfl
@[simp] theorem eccClear_trustNonce (s : State) (l : List EccAt) : (s.eccClear l).trustNonce = s.trustNonce := by
  unfold State.eccClear; split <;> rfl
@[simp] theorem eccClear_trustAttest (s : State) (l : List EccAt) : (s.eccClear l).trustAttest = s.trustAttest := by
  unfold State.eccClear; split <;> rfl
@[simp] theorem eccClear_attestNonce (s : State) (l : List EccAt) : (s.eccClear l).attestNonce = s.attestNonce := by
  unfold State.eccClear; split <;> rfl
@[simp] theorem eccClear_trustReport (s : State) (l : List EccAt) : (s.eccClear l).trustReport = s.trustReport := by
  unfold State.eccClear; split <;> rfl
@[simp] theorem eccClear_fwImage (s : State) (l : List EccAt) : (s.eccClear l).fwImage = s.fwImage := by
  unfold State.eccClear; split <;> rfl
@[simp] theorem eccClear_fwVersion (s : State) (l : List EccAt) : (s.eccClear l).fwVersion = s.fwVersion := by
  unfold State.eccClear; split <;> rfl
@[simp] theorem eccClear_fwRunning (s : State) (l : List EccAt) : (s.eccClear l).fwRunning = s.fwRunning := by
  unfold State.eccClear; split <;> rfl
@[simp] theorem eccClear_log (s : State) (l : List EccAt) : (s.eccClear l).log = s.log := by
  unfold State.eccClear; split <;> rfl
@[simp] theorem eccClear_logCnt (s : State) (l : List EccAt) : (s.eccClear l).logCnt = s.logCnt := by
  unfold State.eccClear; split <;> rfl
@[simp] theorem eccClear_outbox (s : State) (l : List EccAt) : (s.eccClear l).outbox = s.outbox := by
  unfold State.eccClear; split <;> rfl

/-! ## The registers of a slot -/

@[simp] theorem setA_bound (x : Slot) (r : AReg) (v : Word) : (x.setA r v).bound = x.bound := by
  unfold Slot.setA; split <;> rfl
@[simp] theorem setA_launch (x : Slot) (r : AReg) (v : Word) : (x.setA r v).launch = x.launch := by
  unfold Slot.setA; split <;> rfl
@[simp] theorem setA_kernel (x : Slot) (r : AReg) (v : Word) : (x.setA r v).kernel = x.kernel := by
  unfold Slot.setA; split <;> rfl
@[simp] theorem setA_rank (x : Slot) (r : AReg) (v : Word) : (x.setA r v).rank = x.rank := by
  unfold Slot.setA; split <;> rfl
@[simp] theorem setA_start (x : Slot) (r : AReg) (v : Word) : (x.setA r v).start = x.start := by
  unfold Slot.setA; split <;> rfl
@[simp] theorem setA_pc (x : Slot) (r : AReg) (v : Word) : (x.setA r v).pc = x.pc := by
  unfold Slot.setA; split <;> rfl
@[simp] theorem setA_k (x : Slot) (r : AReg) (v : Word) : (x.setA r v).k = x.k := by
  unfold Slot.setA; split <;> rfl
@[simp] theorem setA_fmt (x : Slot) (r : AReg) (v : Word) : (x.setA r v).fmt = x.fmt := by
  unfold Slot.setA; split <;> rfl
@[simp] theorem setA_unit (x : Slot) (r : AReg) (v : Word) : (x.setA r v).unit = x.unit := by
  unfold Slot.setA; split <;> rfl
@[simp] theorem setA_depth (x : Slot) (r : AReg) (v : Word) : (x.setA r v).depth = x.depth := by
  unfold Slot.setA; split <;> rfl
@[simp] theorem setA_fret (x : Slot) (r : AReg) (v : Word) : (x.setA r v).fret = x.fret := by
  unfold Slot.setA; split <;> rfl
@[simp] theorem setA_winmiss (x : Slot) (r : AReg) (v : Word) : (x.setA r v).winmiss = x.winmiss := by
  unfold Slot.setA; split <;> rfl
@[simp] theorem setA_late (x : Slot) (r : AReg) (v : Word) : (x.setA r v).late = x.late := by
  unfold Slot.setA; split <;> rfl
@[simp] theorem setA_poison (x : Slot) (r : AReg) (v : Word) : (x.setA r v).poison = x.poison := by
  unfold Slot.setA; split <;> rfl
@[simp] theorem setA_sinks (x : Slot) (r : AReg) (v : Word) : (x.setA r v).sinks = x.sinks := by
  unfold Slot.setA; split <;> rfl
@[simp] theorem setA_sinksOn (x : Slot) (r : AReg) (v : Word) : (x.setA r v).sinksOn = x.sinksOn := by
  unfold Slot.setA; split <;> rfl
@[simp] theorem setA_siteerr (x : Slot) (r : AReg) (v : Word) : (x.setA r v).siteerr = x.siteerr := by
  unfold Slot.setA; split <;> rfl
@[simp] theorem setA_tvec (x : Slot) (r : AReg) (v : Word) : (x.setA r v).tvec = x.tvec := by
  unfold Slot.setA; split <;> rfl
@[simp] theorem setA_epc (x : Slot) (r : AReg) (v : Word) : (x.setA r v).epc = x.epc := by
  unfold Slot.setA; split <;> rfl
@[simp] theorem setA_cause (x : Slot) (r : AReg) (v : Word) : (x.setA r v).cause = x.cause := by
  unfold Slot.setA; split <;> rfl
@[simp] theorem setA_tval (x : Slot) (r : AReg) (v : Word) : (x.setA r v).tval = x.tval := by
  unfold Slot.setA; split <;> rfl
@[simp] theorem setA_rb (x : Slot) (r : AReg) (v : Word) : (x.setA r v).rb = x.rb := by
  unfold Slot.setA; split <;> rfl
@[simp] theorem setA_ctr2 (x : Slot) (r : AReg) (v : Word) : (x.setA r v).ctr2 = x.ctr2 := by
  unfold Slot.setA; split <;> rfl
@[simp] theorem setA_ctr3 (x : Slot) (r : AReg) (v : Word) : (x.setA r v).ctr3 = x.ctr3 := by
  unfold Slot.setA; split <;> rfl
@[simp] theorem setA_siteBase (x : Slot) (r : AReg) (v : Word) : (x.setA r v).siteBase = x.siteBase := by
  unfold Slot.setA; split <;> rfl
@[simp] theorem setA_ac (x : Slot) (r : AReg) (v : Word) : (x.setA r v).ac = x.ac := by
  unfold Slot.setA; split <;> rfl
@[simp] theorem setA_wc (x : Slot) (r : AReg) (v : Word) : (x.setA r v).wc = x.wc := by
  unfold Slot.setA; split <;> rfl
@[simp] theorem setA_cur (x : Slot) (r : AReg) (v : Word) : (x.setA r v).cur = x.cur := by
  unfold Slot.setA; split <;> rfl
@[simp] theorem setA_following (x : Slot) (r : AReg) (v : Word) : (x.setA r v).following = x.following := by
  unfold Slot.setA; split <;> rfl
@[simp] theorem setA_sentAt (x : Slot) (r : AReg) (v : Word) : (x.setA r v).sentAt = x.sentAt := by
  unfold Slot.setA; split <;> rfl
@[simp] theorem setA_lineFmt (x : Slot) (r : AReg) (v : Word) : (x.setA r v).lineFmt = x.lineFmt := by
  unfold Slot.setA; split <;> rfl
@[simp] theorem setA_busy (x : Slot) (r : AReg) (v : Word) : (x.setA r v).busy = x.busy := by
  unfold Slot.setA; split <;> rfl
@[simp] theorem setA_wait (x : Slot) (r : AReg) (v : Word) : (x.setA r v).wait = x.wait := by
  unfold Slot.setA; split <;> rfl
@[simp] theorem setA_held (x : Slot) (r : AReg) (v : Word) : (x.setA r v).held = x.held := by
  unfold Slot.setA; split <;> rfl
@[simp] theorem setA_moved (x : Slot) (r : AReg) (v : Word) : (x.setA r v).moved = x.moved := by
  unfold Slot.setA; split <;> rfl
@[simp] theorem setA_ended (x : Slot) (r : AReg) (v : Word) : (x.setA r v).ended = x.ended := by
  unfold Slot.setA; split <;> rfl
@[simp] theorem setA_raised (x : Slot) (r : AReg) (v : Word) : (x.setA r v).raised = x.raised := by
  unfold Slot.setA; split <;> rfl
@[simp] theorem setA_barriers (x : Slot) (r : AReg) (v : Word) : (x.setA r v).barriers = x.barriers := by
  unfold Slot.setA; split <;> rfl
@[simp] theorem setA_paths (x : Slot) (r : AReg) (v : Word) : (x.setA r v).paths = x.paths := by
  unfold Slot.setA; split <;> rfl
@[simp] theorem setA_waymarks (x : Slot) (r : AReg) (v : Word) : (x.setA r v).waymarks = x.waymarks := by
  unfold Slot.setA; split <;> rfl
@[simp] theorem setA_wayErr (x : Slot) (r : AReg) (v : Word) : (x.setA r v).wayErr = x.wayErr := by
  unfold Slot.setA; split <;> rfl
@[simp] theorem setA_failed (x : Slot) (r : AReg) (v : Word) : (x.setA r v).failed = x.failed := by
  unfold Slot.setA; split <;> rfl
@[simp] theorem setA_gate (x : Slot) (r : AReg) (v : Word) : (x.setA r v).gate = x.gate := by
  unfold Slot.setA; split <;> rfl
@[simp] theorem setK_bound (x : Slot) (r : KReg) (v : Bool) : (x.setK r v).bound = x.bound := by
  unfold Slot.setK; split <;> rfl
@[simp] theorem setK_launch (x : Slot) (r : KReg) (v : Bool) : (x.setK r v).launch = x.launch := by
  unfold Slot.setK; split <;> rfl
@[simp] theorem setK_kernel (x : Slot) (r : KReg) (v : Bool) : (x.setK r v).kernel = x.kernel := by
  unfold Slot.setK; split <;> rfl
@[simp] theorem setK_rank (x : Slot) (r : KReg) (v : Bool) : (x.setK r v).rank = x.rank := by
  unfold Slot.setK; split <;> rfl
@[simp] theorem setK_start (x : Slot) (r : KReg) (v : Bool) : (x.setK r v).start = x.start := by
  unfold Slot.setK; split <;> rfl
@[simp] theorem setK_pc (x : Slot) (r : KReg) (v : Bool) : (x.setK r v).pc = x.pc := by
  unfold Slot.setK; split <;> rfl
@[simp] theorem setK_a (x : Slot) (r : KReg) (v : Bool) : (x.setK r v).a = x.a := by
  unfold Slot.setK; split <;> rfl
@[simp] theorem setK_fmt (x : Slot) (r : KReg) (v : Bool) : (x.setK r v).fmt = x.fmt := by
  unfold Slot.setK; split <;> rfl
@[simp] theorem setK_unit (x : Slot) (r : KReg) (v : Bool) : (x.setK r v).unit = x.unit := by
  unfold Slot.setK; split <;> rfl
@[simp] theorem setK_depth (x : Slot) (r : KReg) (v : Bool) : (x.setK r v).depth = x.depth := by
  unfold Slot.setK; split <;> rfl
@[simp] theorem setK_fret (x : Slot) (r : KReg) (v : Bool) : (x.setK r v).fret = x.fret := by
  unfold Slot.setK; split <;> rfl
@[simp] theorem setK_winmiss (x : Slot) (r : KReg) (v : Bool) : (x.setK r v).winmiss = x.winmiss := by
  unfold Slot.setK; split <;> rfl
@[simp] theorem setK_late (x : Slot) (r : KReg) (v : Bool) : (x.setK r v).late = x.late := by
  unfold Slot.setK; split <;> rfl
@[simp] theorem setK_poison (x : Slot) (r : KReg) (v : Bool) : (x.setK r v).poison = x.poison := by
  unfold Slot.setK; split <;> rfl
@[simp] theorem setK_sinks (x : Slot) (r : KReg) (v : Bool) : (x.setK r v).sinks = x.sinks := by
  unfold Slot.setK; split <;> rfl
@[simp] theorem setK_sinksOn (x : Slot) (r : KReg) (v : Bool) : (x.setK r v).sinksOn = x.sinksOn := by
  unfold Slot.setK; split <;> rfl
@[simp] theorem setK_siteerr (x : Slot) (r : KReg) (v : Bool) : (x.setK r v).siteerr = x.siteerr := by
  unfold Slot.setK; split <;> rfl
@[simp] theorem setK_tvec (x : Slot) (r : KReg) (v : Bool) : (x.setK r v).tvec = x.tvec := by
  unfold Slot.setK; split <;> rfl
@[simp] theorem setK_epc (x : Slot) (r : KReg) (v : Bool) : (x.setK r v).epc = x.epc := by
  unfold Slot.setK; split <;> rfl
@[simp] theorem setK_cause (x : Slot) (r : KReg) (v : Bool) : (x.setK r v).cause = x.cause := by
  unfold Slot.setK; split <;> rfl
@[simp] theorem setK_tval (x : Slot) (r : KReg) (v : Bool) : (x.setK r v).tval = x.tval := by
  unfold Slot.setK; split <;> rfl
@[simp] theorem setK_rb (x : Slot) (r : KReg) (v : Bool) : (x.setK r v).rb = x.rb := by
  unfold Slot.setK; split <;> rfl
@[simp] theorem setK_ctr2 (x : Slot) (r : KReg) (v : Bool) : (x.setK r v).ctr2 = x.ctr2 := by
  unfold Slot.setK; split <;> rfl
@[simp] theorem setK_ctr3 (x : Slot) (r : KReg) (v : Bool) : (x.setK r v).ctr3 = x.ctr3 := by
  unfold Slot.setK; split <;> rfl
@[simp] theorem setK_siteBase (x : Slot) (r : KReg) (v : Bool) : (x.setK r v).siteBase = x.siteBase := by
  unfold Slot.setK; split <;> rfl
@[simp] theorem setK_ac (x : Slot) (r : KReg) (v : Bool) : (x.setK r v).ac = x.ac := by
  unfold Slot.setK; split <;> rfl
@[simp] theorem setK_wc (x : Slot) (r : KReg) (v : Bool) : (x.setK r v).wc = x.wc := by
  unfold Slot.setK; split <;> rfl
@[simp] theorem setK_cur (x : Slot) (r : KReg) (v : Bool) : (x.setK r v).cur = x.cur := by
  unfold Slot.setK; split <;> rfl
@[simp] theorem setK_following (x : Slot) (r : KReg) (v : Bool) : (x.setK r v).following = x.following := by
  unfold Slot.setK; split <;> rfl
@[simp] theorem setK_sentAt (x : Slot) (r : KReg) (v : Bool) : (x.setK r v).sentAt = x.sentAt := by
  unfold Slot.setK; split <;> rfl
@[simp] theorem setK_lineFmt (x : Slot) (r : KReg) (v : Bool) : (x.setK r v).lineFmt = x.lineFmt := by
  unfold Slot.setK; split <;> rfl
@[simp] theorem setK_busy (x : Slot) (r : KReg) (v : Bool) : (x.setK r v).busy = x.busy := by
  unfold Slot.setK; split <;> rfl
@[simp] theorem setK_wait (x : Slot) (r : KReg) (v : Bool) : (x.setK r v).wait = x.wait := by
  unfold Slot.setK; split <;> rfl
@[simp] theorem setK_held (x : Slot) (r : KReg) (v : Bool) : (x.setK r v).held = x.held := by
  unfold Slot.setK; split <;> rfl
@[simp] theorem setK_moved (x : Slot) (r : KReg) (v : Bool) : (x.setK r v).moved = x.moved := by
  unfold Slot.setK; split <;> rfl
@[simp] theorem setK_ended (x : Slot) (r : KReg) (v : Bool) : (x.setK r v).ended = x.ended := by
  unfold Slot.setK; split <;> rfl
@[simp] theorem setK_raised (x : Slot) (r : KReg) (v : Bool) : (x.setK r v).raised = x.raised := by
  unfold Slot.setK; split <;> rfl
@[simp] theorem setK_barriers (x : Slot) (r : KReg) (v : Bool) : (x.setK r v).barriers = x.barriers := by
  unfold Slot.setK; split <;> rfl
@[simp] theorem setK_paths (x : Slot) (r : KReg) (v : Bool) : (x.setK r v).paths = x.paths := by
  unfold Slot.setK; split <;> rfl
@[simp] theorem setK_waymarks (x : Slot) (r : KReg) (v : Bool) : (x.setK r v).waymarks = x.waymarks := by
  unfold Slot.setK; split <;> rfl
@[simp] theorem setK_wayErr (x : Slot) (r : KReg) (v : Bool) : (x.setK r v).wayErr = x.wayErr := by
  unfold Slot.setK; split <;> rfl
@[simp] theorem setK_failed (x : Slot) (r : KReg) (v : Bool) : (x.setK r v).failed = x.failed := by
  unfold Slot.setK; split <;> rfl
@[simp] theorem setK_gate (x : Slot) (r : KReg) (v : Bool) : (x.setK r v).gate = x.gate := by
  unfold Slot.setK; split <;> rfl
@[simp] theorem pcNext_bound (x : Slot) : x.pcNext.bound = x.bound := rfl
@[simp] theorem pcNext_launch (x : Slot) : x.pcNext.launch = x.launch := rfl
@[simp] theorem pcNext_kernel (x : Slot) : x.pcNext.kernel = x.kernel := rfl
@[simp] theorem pcNext_rank (x : Slot) : x.pcNext.rank = x.rank := rfl
@[simp] theorem pcNext_start (x : Slot) : x.pcNext.start = x.start := rfl
@[simp] theorem pcNext_pc (x : Slot) : x.pcNext.pc = x.pc + 1 := rfl
@[simp] theorem pcNext_a (x : Slot) : x.pcNext.a = x.a := rfl
@[simp] theorem pcNext_k (x : Slot) : x.pcNext.k = x.k := rfl
@[simp] theorem pcNext_fmt (x : Slot) : x.pcNext.fmt = x.fmt := rfl
@[simp] theorem pcNext_unit (x : Slot) : x.pcNext.unit = x.unit := rfl
@[simp] theorem pcNext_depth (x : Slot) : x.pcNext.depth = x.depth := rfl
@[simp] theorem pcNext_fret (x : Slot) : x.pcNext.fret = x.fret := rfl
@[simp] theorem pcNext_winmiss (x : Slot) : x.pcNext.winmiss = x.winmiss := rfl
@[simp] theorem pcNext_late (x : Slot) : x.pcNext.late = x.late := rfl
@[simp] theorem pcNext_poison (x : Slot) : x.pcNext.poison = x.poison := rfl
@[simp] theorem pcNext_sinks (x : Slot) : x.pcNext.sinks = x.sinks := rfl
@[simp] theorem pcNext_sinksOn (x : Slot) : x.pcNext.sinksOn = x.sinksOn := rfl
@[simp] theorem pcNext_siteerr (x : Slot) : x.pcNext.siteerr = x.siteerr := rfl
@[simp] theorem pcNext_tvec (x : Slot) : x.pcNext.tvec = x.tvec := rfl
@[simp] theorem pcNext_epc (x : Slot) : x.pcNext.epc = x.epc := rfl
@[simp] theorem pcNext_cause (x : Slot) : x.pcNext.cause = x.cause := rfl
@[simp] theorem pcNext_tval (x : Slot) : x.pcNext.tval = x.tval := rfl
@[simp] theorem pcNext_rb (x : Slot) : x.pcNext.rb = x.rb := rfl
@[simp] theorem pcNext_ctr2 (x : Slot) : x.pcNext.ctr2 = x.ctr2 := rfl
@[simp] theorem pcNext_ctr3 (x : Slot) : x.pcNext.ctr3 = x.ctr3 := rfl
@[simp] theorem pcNext_siteBase (x : Slot) : x.pcNext.siteBase = x.siteBase := rfl
@[simp] theorem pcNext_ac (x : Slot) : x.pcNext.ac = x.ac := rfl
@[simp] theorem pcNext_wc (x : Slot) : x.pcNext.wc = x.wc := rfl
@[simp] theorem pcNext_cur (x : Slot) : x.pcNext.cur = x.cur := rfl
@[simp] theorem pcNext_following (x : Slot) : x.pcNext.following = x.following := rfl
@[simp] theorem pcNext_sentAt (x : Slot) : x.pcNext.sentAt = x.sentAt := rfl
@[simp] theorem pcNext_lineFmt (x : Slot) : x.pcNext.lineFmt = x.lineFmt := rfl
@[simp] theorem pcNext_busy (x : Slot) : x.pcNext.busy = x.busy := rfl
@[simp] theorem pcNext_wait (x : Slot) : x.pcNext.wait = x.wait := rfl
@[simp] theorem pcNext_held (x : Slot) : x.pcNext.held = x.held := rfl
@[simp] theorem pcNext_moved (x : Slot) : x.pcNext.moved = x.moved := rfl
@[simp] theorem pcNext_ended (x : Slot) : x.pcNext.ended = x.ended := rfl
@[simp] theorem pcNext_raised (x : Slot) : x.pcNext.raised = x.raised := rfl
@[simp] theorem pcNext_barriers (x : Slot) : x.pcNext.barriers = x.barriers := rfl
@[simp] theorem pcNext_paths (x : Slot) : x.pcNext.paths = x.paths := rfl
@[simp] theorem pcNext_waymarks (x : Slot) : x.pcNext.waymarks = x.waymarks := rfl
@[simp] theorem pcNext_wayErr (x : Slot) : x.pcNext.wayErr = x.wayErr := rfl
@[simp] theorem pcNext_failed (x : Slot) : x.pcNext.failed = x.failed := rfl
@[simp] theorem pcNext_gate (x : Slot) : x.pcNext.gate = x.gate := rfl

end Sys2Proof.Machine
end

