-- ==== Sys2Proof/Laws/Invariant.lean ====
section
/-! SUPPORT. Memory, the power budget and the cycle count after each shared operation: none but the two that perform
bytes at a node and the causes that take beats back changes memory, and none changes the other two. -/

namespace Sys2Proof.Machine

@[simp] theorem terminate_mem (s : State) (l c k : Nat) : (s.terminate l c k).mem = s.mem := by rw [terminate_frame]
@[simp] theorem deliver_mem (s : State) (k : Nat) (r : Raised) (p : BitVec 24) : (s.deliver k r p).mem = s.mem := by rw [deliver_frame]
@[simp] theorem raise_mem (s : State) (k : Nat) (r : Raised) : (s.raise k r).mem = s.mem := by rw [raise_frame]
@[simp] theorem raiseNow_mem (s : State) (k : Nat) (r : Raised) : (s.raiseNow k r).mem = s.mem := by rw [raiseNow_frame]
@[simp] theorem trapW_mem (s : State) (n c : Nat) : (s.trapW n c).mem = s.mem := by rw [trapW_frame]
@[simp] theorem rewind_mem (s : State) (k : Nat) (f : Flight) : (s.rewind k f).mem = s.mem := by rw [rewind_frame]
@[simp] theorem writeDst_mem (s : State) (o : SOp) (ls : List (Nat × Lane)) : (s.writeDst o ls).mem = s.mem := by
  have h := writeDst_frame s o ls; unfold OnlyDst at h; rw [h]
@[simp] theorem modSlot_mem (s : State) (k : Nat) (f : Slot → Slot) : (s.modSlot k f).mem = s.mem := rfl
@[simp] theorem modElem_mem (s : State) (k : Nat) (f : Elem → Elem) : (s.modElem k f).mem = s.mem := rfl
@[simp] theorem modCluster_mem (s : State) (k : Nat) (f : Cluster → Cluster) : (s.modCluster k f).mem = s.mem := rfl
@[simp] theorem modRegion_mem (s : State) (k : Nat) (f : Region → Region) : (s.modRegion k f).mem = s.mem := rfl
@[simp] theorem modLaunch_mem (s : State) (k : Nat) (f : Launch → Launch) : (s.modLaunch k f).mem = s.mem := rfl
@[simp] theorem modEl_mem (s : State) (f : Elem → Elem) : (s.modEl f).mem = s.mem := rfl
@[simp] theorem setMe_mem (s : State) (x : Slot) : (s.setMe x).mem = s.mem := rfl
@[simp] theorem writeA_mem (s : State) (d : AReg) (v : Word) : (s.writeA d v).mem = s.mem := rfl
@[simp] theorem writeK_mem (s : State) (d : KReg) (v : Bool) : (s.writeK d v).mem = s.mem := rfl
@[simp] theorem advance_mem (s : State) : (s.advance).mem = s.mem := rfl
@[simp] theorem recordSinks_mem (s : State) (k : Nat) (l : List Lane) (a b c : Nat) : (s.recordSinks k l a b c).mem = s.mem := rfl
@[simp] theorem setHandle_mem (s : State) (r h : Nat) (x : Handle) : (s.setHandle r h x).mem = s.mem := rfl
@[simp] theorem keepOld_mem (s : State) (as : List Nat) : (s.keepOld as).mem = s.mem := rfl

@[simp] theorem terminate_kilnBudget (s : State) (l c k : Nat) : (s.terminate l c k).kilnBudget = s.kilnBudget := by rw [terminate_frame]
@[simp] theorem deliver_kilnBudget (s : State) (k : Nat) (r : Raised) (p : BitVec 24) : (s.deliver k r p).kilnBudget = s.kilnBudget := by rw [deliver_frame]
@[simp] theorem raise_kilnBudget (s : State) (k : Nat) (r : Raised) : (s.raise k r).kilnBudget = s.kilnBudget := by rw [raise_frame]
@[simp] theorem raiseNow_kilnBudget (s : State) (k : Nat) (r : Raised) : (s.raiseNow k r).kilnBudget = s.kilnBudget := by rw [raiseNow_frame]
@[simp] theorem trapW_kilnBudget (s : State) (n c : Nat) : (s.trapW n c).kilnBudget = s.kilnBudget := by rw [trapW_frame]
@[simp] theorem rewind_kilnBudget (s : State) (k : Nat) (f : Flight) : (s.rewind k f).kilnBudget = s.kilnBudget := by rw [rewind_frame]
@[simp] theorem trapB_kilnBudget (s : State) (n c : Nat) : (s.trapB n c).kilnBudget = s.kilnBudget := by rw [trapB_frame]; rfl
@[simp] theorem writeDst_kilnBudget (s : State) (o : SOp) (ls : List (Nat × Lane)) : (s.writeDst o ls).kilnBudget = s.kilnBudget := by
  have h := writeDst_frame s o ls; unfold OnlyDst at h; rw [h]
@[simp] theorem finishBeat_kilnBudget (s : State) (o : SOp) (ls : List (Nat × Lane)) : (s.finishBeat o ls).kilnBudget = s.kilnBudget := by rw [finishBeat_frame]; rfl
@[simp] theorem lanewise_kilnBudget (s : State) (o : SOp) (i : LaneWord) (a b d : Bool) (f : LaneWord → LaneWord → LaneWord → LaneWord × Bool) : (s.lanewise o i a b d f).kilnBudget = s.kilnBudget := by rw [lanewise_frame]; rfl
@[simp] theorem modSlot_kilnBudget (s : State) (k : Nat) (f : Slot → Slot) : (s.modSlot k f).kilnBudget = s.kilnBudget := rfl
@[simp] theorem modElem_kilnBudget (s : State) (k : Nat) (f : Elem → Elem) : (s.modElem k f).kilnBudget = s.kilnBudget := rfl
@[simp] theorem modCluster_kilnBudget (s : State) (k : Nat) (f : Cluster → Cluster) : (s.modCluster k f).kilnBudget = s.kilnBudget := rfl
@[simp] theorem modRegion_kilnBudget (s : State) (k : Nat) (f : Region → Region) : (s.modRegion k f).kilnBudget = s.kilnBudget := rfl
@[simp] theorem modLaunch_kilnBudget (s : State) (k : Nat) (f : Launch → Launch) : (s.modLaunch k f).kilnBudget = s.kilnBudget := rfl
@[simp] theorem modEl_kilnBudget (s : State) (f : Elem → Elem) : (s.modEl f).kilnBudget = s.kilnBudget := rfl
@[simp] theorem setMe_kilnBudget (s : State) (x : Slot) : (s.setMe x).kilnBudget = s.kilnBudget := rfl
@[simp] theorem writeA_kilnBudget (s : State) (d : AReg) (v : Word) : (s.writeA d v).kilnBudget = s.kilnBudget := rfl
@[simp] theorem writeK_kilnBudget (s : State) (d : KReg) (v : Bool) : (s.writeK d v).kilnBudget = s.kilnBudget := rfl
@[simp] theorem advance_kilnBudget (s : State) : (s.advance).kilnBudget = s.kilnBudget := rfl
@[simp] theorem recordSinks_kilnBudget (s : State) (k : Nat) (l : List Lane) (a b c : Nat) : (s.recordSinks k l a b c).kilnBudget = s.kilnBudget := rfl
@[simp] theorem setHandle_kilnBudget (s : State) (r h : Nat) (x : Handle) : (s.setHandle r h x).kilnBudget = s.kilnBudget := rfl
@[simp] theorem keepOld_kilnBudget (s : State) (as : List Nat) : (s.keepOld as).kilnBudget = s.kilnBudget := rfl
@[simp] theorem memStore_kilnBudget (s : State) (a : Nat) (bs : List Byte) : (s.memStore a bs).kilnBudget = s.kilnBudget := by rw [memStore_frame]
@[simp] theorem memScatter_kilnBudget (s : State) (bs : List (Nat × Byte)) : (s.memScatter bs).kilnBudget = s.kilnBudget := rfl

@[simp] theorem terminate_cycle (s : State) (l c k : Nat) : (s.terminate l c k).cycle = s.cycle := by rw [terminate_frame]
@[simp] theorem deliver_cycle (s : State) (k : Nat) (r : Raised) (p : BitVec 24) : (s.deliver k r p).cycle = s.cycle := by rw [deliver_frame]
@[simp] theorem raise_cycle (s : State) (k : Nat) (r : Raised) : (s.raise k r).cycle = s.cycle := by rw [raise_frame]
@[simp] theorem raiseNow_cycle (s : State) (k : Nat) (r : Raised) : (s.raiseNow k r).cycle = s.cycle := by rw [raiseNow_frame]
@[simp] theorem trapW_cycle (s : State) (n c : Nat) : (s.trapW n c).cycle = s.cycle := by rw [trapW_frame]
@[simp] theorem rewind_cycle (s : State) (k : Nat) (f : Flight) : (s.rewind k f).cycle = s.cycle := by rw [rewind_frame]
@[simp] theorem trapB_cycle (s : State) (n c : Nat) : (s.trapB n c).cycle = s.cycle := by rw [trapB_frame]; rfl
@[simp] theorem writeDst_cycle (s : State) (o : SOp) (ls : List (Nat × Lane)) : (s.writeDst o ls).cycle = s.cycle := by
  have h := writeDst_frame s o ls; unfold OnlyDst at h; rw [h]
@[simp] theorem finishBeat_cycle (s : State) (o : SOp) (ls : List (Nat × Lane)) : (s.finishBeat o ls).cycle = s.cycle := by rw [finishBeat_frame]; rfl
@[simp] theorem lanewise_cycle (s : State) (o : SOp) (i : LaneWord) (a b d : Bool) (f : LaneWord → LaneWord → LaneWord → LaneWord × Bool) : (s.lanewise o i a b d f).cycle = s.cycle := by rw [lanewise_frame]; rfl
@[simp] theorem modSlot_cycle (s : State) (k : Nat) (f : Slot → Slot) : (s.modSlot k f).cycle = s.cycle := rfl
@[simp] theorem modElem_cycle (s : State) (k : Nat) (f : Elem → Elem) : (s.modElem k f).cycle = s.cycle := rfl
@[simp] theorem modCluster_cycle (s : State) (k : Nat) (f : Cluster → Cluster) : (s.modCluster k f).cycle = s.cycle := rfl
@[simp] theorem modRegion_cycle (s : State) (k : Nat) (f : Region → Region) : (s.modRegion k f).cycle = s.cycle := rfl
@[simp] theorem modLaunch_cycle (s : State) (k : Nat) (f : Launch → Launch) : (s.modLaunch k f).cycle = s.cycle := rfl
@[simp] theorem modEl_cycle (s : State) (f : Elem → Elem) : (s.modEl f).cycle = s.cycle := rfl
@[simp] theorem setMe_cycle (s : State) (x : Slot) : (s.setMe x).cycle = s.cycle := rfl
@[simp] theorem writeA_cycle (s : State) (d : AReg) (v : Word) : (s.writeA d v).cycle = s.cycle := rfl
@[simp] theorem writeK_cycle (s : State) (d : KReg) (v : Bool) : (s.writeK d v).cycle = s.cycle := rfl
@[simp] theorem advance_cycle (s : State) : (s.advance).cycle = s.cycle := rfl
@[simp] theorem recordSinks_cycle (s : State) (k : Nat) (l : List Lane) (a b c : Nat) : (s.recordSinks k l a b c).cycle = s.cycle := rfl
@[simp] theorem setHandle_cycle (s : State) (r h : Nat) (x : Handle) : (s.setHandle r h x).cycle = s.cycle := rfl
@[simp] theorem keepOld_cycle (s : State) (as : List Nat) : (s.keepOld as).cycle = s.cycle := rfl
@[simp] theorem memStore_cycle (s : State) (a : Nat) (bs : List Byte) : (s.memStore a bs).cycle = s.cycle := by rw [memStore_frame]
@[simp] theorem memScatter_cycle (s : State) (bs : List (Nat × Byte)) : (s.memScatter bs).cycle = s.cycle := rfl

/-! ## Beats taken back (R306): the bytes that they performed are set back, in the canonical form -/

theorem undoBytes_wf (l : List (Nat × Byte × Byte)) : ∀ m : List Host.Cell, Memory.wf m = true → Memory.wf (undoBytes l m) = true := by
  induction l with
  | nil => exact fun _ h => h
  | cons b l ih =>
    intro m h
    refine ih _ ?_
    simp only []
    split
    · exact memPut_wf h _ _
    · exact h

theorem mem_foldl {α : Type} (f : State → α → State) (hf : ∀ s x, (f s x).mem = s.mem) (l : List α) :
    ∀ s, (l.foldl f s).mem = s.mem := by
  induction l with
  | nil => exact fun _ => rfl
  | cons x l ih => exact fun s => (ih _).trans (hf s x)

/-- A note taken back sets back exactly the bytes that it holds. -/
theorem takeBack_mem (s : State) (u : Undo) : (s.takeBack u).mem = undoBytes u.mem s.mem := by
  have hh : ∀ s h, (State.undoHandle u.key s h).mem = s.mem := by
    intro s h; unfold State.undoHandle; split <;> rfl
  have hf : ∀ s b, (State.undoFe s b).mem = s.mem := by
    intro s b; unfold State.undoFe; split <;> rfl
  have hr : ∀ s b, (State.rehold s b).mem = s.mem := by
    intro s b; unfold State.rehold; split
    · rfl
    · unfold State.dueOp; rw [due_frame]
  have h1 : (s.undoSent u).mem = s.mem :=
    (mem_foldl State.undoAdd (fun _ _ => rfl) u.adds _).trans (mem_foldl _ hh u.handles s)
  have h2 : ((s.undoSent u).undoMem u).mem = undoBytes u.mem s.mem := by
    rw [← h1]; exact mem_foldl _ hf u.fe _
  exact (mem_foldl State.undoCluster (fun _ _ => rfl) u.clusters _).trans
    ((mem_foldl State.undoElem (fun _ _ => rfl) u.elems _).trans ((mem_foldl _ hr u.beatsWas _).trans h2))

theorem takeBackFrom_canonical (s : State) (key edge : Nat) (keep : Option Nat) (h : MemCanonical s) :
    MemCanonical (s.takeBackFrom key edge keep) := by
  unfold State.takeBackFrom
  simp only []
  generalize s.undo.filter _ = l, s.undo.filter _ = l'
  have hl : ∀ (l : List Undo) (x : State), MemCanonical x → MemCanonical (l.foldl State.takeBack x) := by
    intro l
    induction l with
    | nil => exact fun _ h => h
    | cons u l ih => exact fun x h => ih _ (by unfold MemCanonical; rw [takeBack_mem]; exact undoBytes_wf _ _ h)
  exact hl l { s with undo := l' } h

/-- A cause of point B keeps memory canonical. -/
theorem trapB_canonical (s : State) (num code : Nat) (h : MemCanonical s) : MemCanonical (s.trapB num code) := by
  unfold State.trapB
  split
  · exact h
  · next f _ =>
    have h1 : MemCanonical (s.rewind s.key f) := by unfold MemCanonical; rw [rewind_mem]; exact h
    unfold MemCanonical
    rw [raiseNow_mem]
    show Memory.wf (State.reportStored _ num).mem = true
    rw [reportStored_frame]
    exact takeBackFrom_canonical _ _ _ _ h1

theorem finishBeat_canonical (s : State) (o : SOp) (ls : List (Nat × Lane)) (h : MemCanonical s) :
    MemCanonical (s.finishBeat o ls) := by
  unfold State.finishBeat
  split
  · split
    · exact trapB_canonical _ _ _ h
    · unfold MemCanonical; rw [writeDst_mem]; exact h
  · unfold MemCanonical; rw [writeDst_mem]; exact h

theorem lanewise_canonical (s : State) (o : SOp) (imm : LaneWord) (pass rb rd : Bool)
    (f : LaneWord → LaneWord → LaneWord → LaneWord × Bool) (h : MemCanonical s) :
    MemCanonical (s.lanewise o imm pass rb rd f) := by
  unfold State.lanewise
  simp only []
  split
  · exact trapB_canonical _ _ _ h
  · exact finishBeat_canonical _ _ _ h

/-! ## The invariant -/

/-- A step's parts keep the invariant when they change neither field. -/
theorem stateInv_of_eq {s t : State} (h : StateInv s) (hm : t.mem = s.mem) (hb : t.kilnBudget = s.kilnBudget) : StateInv t := by
  unfold StateInv MemCanonical at *
  rw [hm, hb]
  exact h

theorem stateInv_memStore {s : State} (h : StateInv s) (a : Nat) (bs : List Byte) : StateInv (s.memStore a bs) :=
  ⟨(memStore_spec s a bs).2.2 h.1, by rw [memStore_kilnBudget]; exact h.2⟩

theorem stateInv_memScatter {s : State} (h : StateInv s) (bs : List (Nat × Byte)) : StateInv (s.memScatter bs) :=
  ⟨memScatter_canonical s bs h.1, h.2⟩

theorem stateInv_trapB {s : State} (h : StateInv s) (num code : Nat) : StateInv (s.trapB num code) :=
  ⟨trapB_canonical s num code h.1, by rw [trapB_kilnBudget]; exact h.2⟩

theorem stateInv_finishBeat {s : State} (h : StateInv s) (o : SOp) (ls : List (Nat × Lane)) : StateInv (s.finishBeat o ls) :=
  ⟨finishBeat_canonical s o ls h.1, by rw [finishBeat_kilnBudget]; exact h.2⟩

theorem stateInv_lanewise {s : State} (h : StateInv s) (o : SOp) (imm : LaneWord) (pass rb rd : Bool)
    (f : LaneWord → LaneWord → LaneWord → LaneWord × Bool) : StateInv (s.lanewise o imm pass rb rd f) :=
  ⟨lanewise_canonical s o imm pass rb rd f h.1, by rw [lanewise_kilnBudget]; exact h.2⟩

/-- A fold of steps that each keep the invariant keeps it. -/
theorem stateInv_foldl {α : Type} (f : State → α → State) (hf : ∀ s x, StateInv s → StateInv (f s x)) (l : List α) :
    ∀ s, StateInv s → StateInv (l.foldl f s) := by
  induction l with
  | nil => intro s h; exact h
  | cons x l ih => intro s h; exact ih _ (hf s x h)

end Sys2Proof.Machine
end

