-- ==== Sys2Proof/Laws/PerInstr.lean ====
section
/-! SUPPORT. For each instruction of the syntax: which of the two encodings holds it, and that storage holds it in ten
bytes, in five, or, an event, in none (R91). -/

namespace Sys2Proof.Laws.Encoding

/-- A schedule word has a form and an encoding in 80 bits, a control word an encoding in 40 bits, an event neither. -/
def Statement (i : Instr) : Prop :=
  (encodeSched i).isSome = (formRule i).isSome ∧ (encodeCtrl i).isSome = isCtrl i
    ∧ (encode i).length = (if (formRule i).isSome then 10 else if isCtrl i then 5 else 0)

theorem nop (o : SOp) : Statement (.nop o) := ⟨rfl, rfl, rfl⟩
theorem pass (o : SOp) : Statement (.pass o) := ⟨rfl, rfl, rfl⟩
theorem ptest (o : SOp) : Statement (.ptest o) := ⟨rfl, rfl, rfl⟩
theorem add (t : IntTy) (o : SOp) : Statement (.add t o) := ⟨rfl, rfl, rfl⟩
theorem sub (t : IntTy) (o : SOp) : Statement (.sub t o) := ⟨rfl, rfl, rfl⟩
theorem mul (t : IntTy) (o : SOp) : Statement (.mul t o) := ⟨rfl, rfl, rfl⟩
theorem mulh (t : IntTy) (o : SOp) : Statement (.mulh t o) := ⟨rfl, rfl, rfl⟩
theorem mad (t : IntTy) (o : SOp) : Statement (.mad t o) := ⟨rfl, rfl, rfl⟩
theorem min (t : IntTy) (o : SOp) : Statement (.min t o) := ⟨rfl, rfl, rfl⟩
theorem max (t : IntTy) (o : SOp) : Statement (.max t o) := ⟨rfl, rfl, rfl⟩
theorem abs (t : IntTy) (o : SOp) : Statement (.abs t o) := ⟨rfl, rfl, rfl⟩
theorem neg (t : IntTy) (o : SOp) : Statement (.neg t o) := ⟨rfl, rfl, rfl⟩
theorem cmp (c : Cond) (t : IntTy) (o : SOp) : Statement (.cmp c t o) := ⟨rfl, rfl, rfl⟩
theorem sel (t : IntTy) (o : SOp) : Statement (.sel t o) := ⟨rfl, rfl, rfl⟩
theorem and (o : SOp) : Statement (.and o) := ⟨rfl, rfl, rfl⟩
theorem or (o : SOp) : Statement (.or o) := ⟨rfl, rfl, rfl⟩
theorem xor (o : SOp) : Statement (.xor o) := ⟨rfl, rfl, rfl⟩
theorem andn (o : SOp) : Statement (.andn o) := ⟨rfl, rfl, rfl⟩
theorem shl (o : SOp) : Statement (.shl o) := ⟨rfl, rfl, rfl⟩
theorem shr (o : SOp) : Statement (.shr o) := ⟨rfl, rfl, rfl⟩
theorem sra (o : SOp) : Statement (.sra o) := ⟨rfl, rfl, rfl⟩
theorem rot (o : SOp) : Statement (.rot o) := ⟨rfl, rfl, rfl⟩
theorem clz (o : SOp) : Statement (.clz o) := ⟨rfl, rfl, rfl⟩
theorem popc (o : SOp) : Statement (.popc o) := ⟨rfl, rfl, rfl⟩
theorem bfxN32 (o : SOp) : Statement (.bfxN32 o) := ⟨rfl, rfl, rfl⟩
theorem bfxI32 (o : SOp) : Statement (.bfxI32 o) := ⟨rfl, rfl, rfl⟩
theorem bfi (o : SOp) : Statement (.bfi o) := ⟨rfl, rfl, rfl⟩
theorem fadd (t : FltTy) (o : SOp) : Statement (.fadd t o) := ⟨rfl, rfl, rfl⟩
theorem fsub (t : FltTy) (o : SOp) : Statement (.fsub t o) := ⟨rfl, rfl, rfl⟩
theorem fmul (t : FltTy) (o : SOp) : Statement (.fmul t o) := ⟨rfl, rfl, rfl⟩
theorem fma (t : FltTy) (o : SOp) : Statement (.fma t o) := ⟨rfl, rfl, rfl⟩
theorem fmin (t : FltTy) (o : SOp) : Statement (.fmin t o) := ⟨rfl, rfl, rfl⟩
theorem fmax (t : FltTy) (o : SOp) : Statement (.fmax t o) := ⟨rfl, rfl, rfl⟩
theorem fabs (t : FltTy) (o : SOp) : Statement (.fabs t o) := ⟨rfl, rfl, rfl⟩
theorem fneg (t : FltTy) (o : SOp) : Statement (.fneg t o) := ⟨rfl, rfl, rfl⟩
theorem fcmp (c : FCond) (t : FltTy) (o : SOp) : Statement (.fcmp c t o) := ⟨rfl, rfl, rfl⟩
theorem fclass (t : FltTy) (o : SOp) : Statement (.fclass t o) := ⟨rfl, rfl, rfl⟩
theorem fscale (t : FltTy) (o : SOp) : Statement (.fscale t o) := ⟨rfl, rfl, rfl⟩
theorem fround (t : FltTy) (o : SOp) : Statement (.fround t o) := ⟨rfl, rfl, rfl⟩
theorem cvt (d s : Fmt) (o : SOp) : Statement (.cvt d s o) := ⟨rfl, rfl, rfl⟩
theorem mxq (f : MxTy) (o : SOp) : Statement (.mxq f o) := ⟨rfl, rfl, rfl⟩
theorem mxdq (f : MxTy) (o : SOp) : Statement (.mxdq f o) := ⟨rfl, rfl, rfl⟩
theorem bpsplit (o : SOp) : Statement (.bpsplit o) := ⟨rfl, rfl, rfl⟩
theorem bpjoin (o : SOp) : Statement (.bpjoin o) := ⟨rfl, rfl, rfl⟩
theorem pack (t : PackTy) (o : SOp) : Statement (.pack t o) := ⟨rfl, rfl, rfl⟩
theorem unpack (t : PackTy) (o : SOp) : Statement (.unpack t o) := ⟨rfl, rfl, rfl⟩
theorem perm (o : SOp) : Statement (.perm o) := ⟨rfl, rfl, rfl⟩
theorem bcast (o : SOp) : Statement (.bcast o) := ⟨rfl, rfl, rfl⟩
theorem lsh (o : SOp) : Statement (.lsh o) := ⟨rfl, rfl, rfl⟩
theorem rsum (t : RedTy) (o : SOp) : Statement (.rsum t o) := by
  cases t <;> exact ⟨rfl, rfl, rfl⟩
theorem rmax (t : MaxTy) (o : SOp) : Statement (.rmax t o) := by
  cases t <;> exact ⟨rfl, rfl, rfl⟩
theorem segscan (t : RedTy) (o : SOp) : Statement (.segscan t o) := by
  cases t <;> exact ⟨rfl, rfl, rfl⟩
theorem grp (o : SOp) : Statement (.grp o) := ⟨rfl, rfl, rfl⟩
theorem lut (o : SOp) : Statement (.lut o) := ⟨rfl, rfl, rfl⟩
theorem lutr (o : SOp) : Statement (.lutr o) := ⟨rfl, rfl, rfl⟩
theorem lutc (o : SOp) : Statement (.lutc o) := ⟨rfl, rfl, rfl⟩
theorem lds (o : SOp) : Statement (.lds o) := ⟨rfl, rfl, rfl⟩
theorem sts (t : StsTy) (o : SOp) : Statement (.sts t o) := by
  cases t <;> exact ⟨rfl, rfl, rfl⟩
theorem ldx (o : SOp) : Statement (.ldx o) := ⟨rfl, rfl, rfl⟩
theorem stx (o : SOp) : Statement (.stx o) := ⟨rfl, rfl, rfl⟩
theorem ldt (t : LdtTy) (o : SOp) : Statement (.ldt t o) := by
  cases t <;> exact ⟨rfl, rfl, rfl⟩
theorem send (o : SOp) : Statement (.send o) := ⟨rfl, rfl, rfl⟩
theorem recv (o : SOp) : Statement (.recv o) := ⟨rfl, rfl, rfl⟩
theorem ldw (o : SOp) : Statement (.ldw o) := ⟨rfl, rfl, rfl⟩
theorem stw (o : SOp) : Statement (.stw o) := ⟨rfl, rfl, rfl⟩
theorem ldsy (o : SOp) : Statement (.ldsy o) := ⟨rfl, rfl, rfl⟩
theorem mcast (o : SOp) : Statement (.mcast o) := ⟨rfl, rfl, rfl⟩
theorem atomAdd (t : RedTy) (o : SOp) : Statement (.atomAdd t o) := by
  cases t <;> exact ⟨rfl, rfl, rfl⟩
theorem atomMin (t : AtomTy) (o : SOp) : Statement (.atomMin t o) := by
  cases t <;> exact ⟨rfl, rfl, rfl⟩
theorem atomMax (t : AtomTy) (o : SOp) : Statement (.atomMax t o) := by
  cases t <;> exact ⟨rfl, rfl, rfl⟩
theorem atomAnd (o : SOp) : Statement (.atomAnd o) := ⟨rfl, rfl, rfl⟩
theorem atomOr (o : SOp) : Statement (.atomOr o) := ⟨rfl, rfl, rfl⟩
theorem atomXor (o : SOp) : Statement (.atomXor o) := ⟨rfl, rfl, rfl⟩
theorem atomXchg (o : SOp) : Statement (.atomXchg o) := ⟨rfl, rfl, rfl⟩
theorem atomCas (o : SOp) : Statement (.atomCas o) := ⟨rfl, rfl, rfl⟩
theorem atomInc (o : SOp) : Statement (.atomInc o) := ⟨rfl, rfl, rfl⟩
theorem treq (o : SOp) : Statement (.treq o) := ⟨rfl, rfl, rfl⟩
theorem mfa (t : MTy) (o : SOp) : Statement (.mfa t o) := ⟨rfl, rfl, rfl⟩
theorem mfb (f : BForm) (o : SOp) : Statement (.mfb f o) := by
  rcases f with t | k <;> exact ⟨rfl, rfl, rfl⟩
theorem mzero (o : SOp) : Statement (.mzero o) := ⟨rfl, rfl, rfl⟩
theorem mdrain (t : FltTy) (o : SOp) : Statement (.mdrain t o) := by
  cases t <;> exact ⟨rfl, rfl, rfl⟩
theorem mjoin (o : SOp) : Statement (.mjoin o) := ⟨rfl, rfl, rfl⟩
theorem mchk (o : SOp) : Statement (.mchk o) := ⟨rfl, rfl, rfl⟩
theorem dtap (o : SOp) : Statement (.dtap o) := ⟨rfl, rfl, rfl⟩
theorem seqAdd (d x y : AReg) : Statement (.seqAdd d x y) := ⟨rfl, rfl, rfl⟩
theorem seqSub (d x y : AReg) : Statement (.seqSub d x y) := ⟨rfl, rfl, rfl⟩
theorem seqMul (d x y : AReg) : Statement (.seqMul d x y) := ⟨rfl, rfl, rfl⟩
theorem seqMulh (d x y : AReg) : Statement (.seqMulh d x y) := ⟨rfl, rfl, rfl⟩
theorem seqMulhu (d x y : AReg) : Statement (.seqMulhu d x y) := ⟨rfl, rfl, rfl⟩
theorem seqAnd (d x y : AReg) : Statement (.seqAnd d x y) := ⟨rfl, rfl, rfl⟩
theorem seqOr (d x y : AReg) : Statement (.seqOr d x y) := ⟨rfl, rfl, rfl⟩
theorem seqXor (d x y : AReg) : Statement (.seqXor d x y) := ⟨rfl, rfl, rfl⟩
theorem seqAndn (d x y : AReg) : Statement (.seqAndn d x y) := ⟨rfl, rfl, rfl⟩
theorem seqShl (d x y : AReg) : Statement (.seqShl d x y) := ⟨rfl, rfl, rfl⟩
theorem seqShr (d x y : AReg) : Statement (.seqShr d x y) := ⟨rfl, rfl, rfl⟩
theorem seqSra (d x y : AReg) : Statement (.seqSra d x y) := ⟨rfl, rfl, rfl⟩
theorem seqMin (d x y : AReg) : Statement (.seqMin d x y) := ⟨rfl, rfl, rfl⟩
theorem seqMax (d x y : AReg) : Statement (.seqMax d x y) := ⟨rfl, rfl, rfl⟩
theorem seqMinu (d x y : AReg) : Statement (.seqMinu d x y) := ⟨rfl, rfl, rfl⟩
theorem seqMaxu (d x y : AReg) : Statement (.seqMaxu d x y) := ⟨rfl, rfl, rfl⟩
theorem addi (d x : AReg) (imm : BitVec 18) : Statement (.addi d x imm) := ⟨rfl, rfl, rfl⟩
theorem andi (d x : AReg) (imm : BitVec 18) : Statement (.andi d x imm) := ⟨rfl, rfl, rfl⟩
theorem ori (d x : AReg) (imm : BitVec 18) : Statement (.ori d x imm) := ⟨rfl, rfl, rfl⟩
theorem xori (d x : AReg) (imm : BitVec 18) : Statement (.xori d x imm) := ⟨rfl, rfl, rfl⟩
theorem shli (d x : AReg) (n : BitVec 6) : Statement (.shli d x n) := ⟨rfl, rfl, rfl⟩
theorem shri (d x : AReg) (n : BitVec 6) : Statement (.shri d x n) := ⟨rfl, rfl, rfl⟩
theorem srai (d x : AReg) (n : BitVec 6) : Statement (.srai d x n) := ⟨rfl, rfl, rfl⟩
theorem li (d : AReg) (imm : BitVec 18) : Statement (.li d imm) := ⟨rfl, rfl, rfl⟩
theorem lsi (d : AReg) (imm : BitVec 18) : Statement (.lsi d imm) := ⟨rfl, rfl, rfl⟩
theorem kcmp (c : KCond) (k : KReg) (x y : AReg) : Statement (.kcmp c k x y) := ⟨rfl, rfl, rfl⟩
theorem kand (k x y : KReg) : Statement (.kand k x y) := ⟨rfl, rfl, rfl⟩
theorem kor (k x y : KReg) : Statement (.kor k x y) := ⟨rfl, rfl, rfl⟩
theorem kxor (k x y : KReg) : Statement (.kxor k x y) := ⟨rfl, rfl, rfl⟩
theorem knot (k x : KReg) : Statement (.knot k x) := ⟨rfl, rfl, rfl⟩
theorem ld (t : LdTy) (d base : AReg) (imm : BitVec 18) : Statement (.ld t d base imm) := ⟨rfl, rfl, rfl⟩
theorem st (t : StTy) (x base : AReg) (imm : BitVec 18) : Statement (.st t x base imm) := ⟨rfl, rfl, rfl⟩
theorem beq (x y : AReg) (off : BitVec 18) : Statement (.beq x y off) := ⟨rfl, rfl, rfl⟩
theorem bne (x y : AReg) (off : BitVec 18) : Statement (.bne x y off) := ⟨rfl, rfl, rfl⟩
theorem blt (x y : AReg) (off : BitVec 18) : Statement (.blt x y off) := ⟨rfl, rfl, rfl⟩
theorem bltu (x y : AReg) (off : BitVec 18) : Statement (.bltu x y off) := ⟨rfl, rfl, rfl⟩
theorem bge (x y : AReg) (off : BitVec 18) : Statement (.bge x y off) := ⟨rfl, rfl, rfl⟩
theorem bgeu (x y : AReg) (off : BitVec 18) : Statement (.bgeu x y off) := ⟨rfl, rfl, rfl⟩
theorem bk (k : KReg) (off : BitVec 18) : Statement (.bk k off) := ⟨rfl, rfl, rfl⟩
theorem bnk (k : KReg) (off : BitVec 18) : Statement (.bnk k off) := ⟨rfl, rfl, rfl⟩
theorem j (off : BitVec 18) : Statement (.j off) := ⟨rfl, rfl, rfl⟩
theorem call (d : AReg) (off : BitVec 18) : Statement (.call d off) := ⟨rfl, rfl, rfl⟩
theorem ret (x : AReg) : Statement (.ret x) := ⟨rfl, rfl, rfl⟩
theorem jr (x : AReg) : Statement (.jr x) := ⟨rfl, rfl, rfl⟩
theorem loop (n desc : AReg) : Statement (.loop n desc) := ⟨rfl, rfl, rfl⟩
theorem run (desc : AReg) : Statement (.run desc) := ⟨rfl, rfl, rfl⟩
theorem hold (slots : BitVec 8) : Statement (.hold slots) := ⟨rfl, rfl, rfl⟩
theorem wake (slots : BitVec 8) : Statement (.wake slots) := ⟨rfl, rfl, rfl⟩
theorem csync (m : AReg) : Statement (.csync m) := ⟨rfl, rfl, rfl⟩
theorem ctok (line : CtokLine) : Statement (.ctok line) := ⟨rfl, rfl, rfl⟩
theorem rvinit (x : AReg) (w : Fin 24) : Statement (.rvinit x w) := ⟨rfl, rfl, rfl⟩
theorem rvarr (w : Fin 24) : Statement (.rvarr w) := ⟨rfl, rfl, rfl⟩
theorem rvwait (w : Fin 24) : Statement (.rvwait w) := ⟨rfl, rfl, rfl⟩
theorem hwait (h : Fin 64) : Statement (.hwait h) := ⟨rfl, rfl, rfl⟩
theorem hfree (h : Fin 64) : Statement (.hfree h) := ⟨rfl, rfl, rfl⟩
theorem hstat (d : AReg) (h : Fin 64) : Statement (.hstat d h) := ⟨rfl, rfl, rfl⟩
theorem sbar (set : BitVec 16) : Statement (.sbar set) := ⟨rfl, rfl, rfl⟩
theorem fenceWay : Statement (.fenceWay) := ⟨rfl, rfl, rfl⟩
theorem fence (scope : Fin 6) : Statement (.fence scope) := ⟨rfl, rfl, rfl⟩
theorem mload (x : AReg) : Statement (.mload x) := ⟨rfl, rfl, rfl⟩
theorem mswap (x : AReg) : Statement (.mswap x) := ⟨rfl, rfl, rfl⟩
theorem mcancel : Statement (.mcancel) := ⟨rfl, rfl, rfl⟩
theorem dpatch (x : AReg) (first : Fin 512) (more : Fin 512) : Statement (.dpatch x first more) := ⟨rfl, rfl, rfl⟩
theorem dset (x : AReg) (c : Fin 512) : Statement (.dset x c) := ⟨rfl, rfl, rfl⟩
theorem dstep (n p : AReg) (dom : Fin 4) : Statement (.dstep n p dom) := ⟨rfl, rfl, rfl⟩
theorem dstop (dom : Fin 4) : Statement (.dstop dom) := ⟨rfl, rfl, rfl⟩
theorem dsave (x : AReg) : Statement (.dsave x) := ⟨rfl, rfl, rfl⟩
theorem drest (x : AReg) : Statement (.drest x) := ⟨rfl, rfl, rfl⟩
theorem trap (code : BitVec 16) : Statement (.trap code) := ⟨rfl, rfl, rfl⟩
theorem eret : Statement (.eret) := ⟨rfl, rfl, rfl⟩
theorem csrr (d : AReg) (n : BitVec 12) : Statement (.csrr d n) := ⟨rfl, rfl, rfl⟩
theorem csrw (x : AReg) (n : BitVec 12) : Statement (.csrw x n) := ⟨rfl, rfl, rfl⟩
theorem halt : Statement (.halt) := ⟨rfl, rfl, rfl⟩
theorem nrg (d : AReg) (m : Fin 8) : Statement (.nrg d m) := ⟨rfl, rfl, rfl⟩
theorem gen (d : AReg) : Statement (.gen d) := ⟨rfl, rfl, rfl⟩
theorem objectLoad (ld : Nat) (r : LoadRead) : Statement (.objectLoad ld r) := ⟨rfl, rfl, rfl⟩
theorem launchArgCheck (l : Nat) : Statement (.launchArgCheck l) := ⟨rfl, rfl, rfl⟩
theorem launchAging (l : Nat) : Statement (.launchAging l) := ⟨rfl, rfl, rfl⟩
theorem placement : Statement (.placement) := ⟨rfl, rfl, rfl⟩
theorem pageArm (l page : Nat) : Statement (.pageArm l page) := ⟨rfl, rfl, rfl⟩
theorem launchSlotsStart (l : Nat) : Statement (.launchSlotsStart l) := ⟨rfl, rfl, rfl⟩
theorem move (l cc0 cr0 : Nat) : Statement (.move l cc0 cr0) := ⟨rfl, rfl, rfl⟩
theorem moveAbort (l : Nat) : Statement (.moveAbort l) := ⟨rfl, rfl, rfl⟩
theorem moveDone (l : Nat) : Statement (.moveDone l) := ⟨rfl, rfl, rfl⟩
theorem kilnReconcile (sensed total : Nat) : Statement (.kilnReconcile sensed total) := ⟨rfl, rfl, rfl⟩
theorem kilnBudgetWrite (v : BitVec 32) : Statement (.kilnBudgetWrite v) := ⟨rfl, rfl, rfl⟩
theorem mloadDone (l : Nat) (cfg : Option Nat) : Statement (.mloadDone l cfg) := ⟨rfl, rfl, rfl⟩
theorem milestoneCommit (l : Nat) : Statement (.milestoneCommit l) := ⟨rfl, rfl, rfl⟩
theorem milestoneCancel (l page : Nat) : Statement (.milestoneCancel l page) := ⟨rfl, rfl, rfl⟩
theorem milestoneSwitch (l : Nat) : Statement (.milestoneSwitch l) := ⟨rfl, rfl, rfl⟩
theorem planeRelease (l : Nat) : Statement (.planeRelease l) := ⟨rfl, rfl, rfl⟩
theorem windowDataArrival (acc : Nat) : Statement (.windowDataArrival acc) := ⟨rfl, rfl, rfl⟩
theorem windowClose (elem : Nat) (entry : Fin 4) : Statement (.windowClose elem entry) := ⟨rfl, rfl, rfl⟩
theorem regScrub (elem : Nat) : Statement (.regScrub elem) := ⟨rfl, rfl, rfl⟩
theorem accScrub (cluster : Nat) : Statement (.accScrub cluster) := ⟨rfl, rfl, rfl⟩
theorem sliceScrub (slice : Nat) : Statement (.sliceScrub slice) := ⟨rfl, rfl, rfl⟩
theorem hbmScrubReport (stack addr : Nat) : Statement (.hbmScrubReport stack addr) := ⟨rfl, rfl, rfl⟩
theorem matrixStep (cluster : Nat) : Statement (.matrixStep cluster) := ⟨rfl, rfl, rfl⟩
theorem joinComplete (join : Nat) : Statement (.joinComplete join) := ⟨rfl, rfl, rfl⟩
theorem joinStall (join : Nat) : Statement (.joinStall join) := ⟨rfl, rfl, rfl⟩
theorem counterUpdate (upd : Nat) : Statement (.counterUpdate upd) := ⟨rfl, rfl, rfl⟩
theorem expertCounterWrite (slice block word : Nat) (v : BitVec 64) : Statement (.expertCounterWrite slice block word v) := ⟨rfl, rfl, rfl⟩
theorem channelBeatArrival (beat : Nat) : Statement (.channelBeatArrival beat) := ⟨rfl, rfl, rfl⟩
theorem recvHoldExpiry (beat : Nat) : Statement (.recvHoldExpiry beat) := ⟨rfl, rfl, rfl⟩
theorem sliceFillRead (acc : Nat) : Statement (.sliceFillRead acc) := ⟨rfl, rfl, rfl⟩
theorem stampCheck (acc : Nat) : Statement (.stampCheck acc) := ⟨rfl, rfl, rfl⟩
theorem writeBackRead (elem : Nat) : Statement (.writeBackRead elem) := ⟨rfl, rfl, rfl⟩
theorem writeBackPerform (acc : Nat) : Statement (.writeBackPerform acc) := ⟨rfl, rfl, rfl⟩
theorem atomicPerform (acc : Nat) : Statement (.atomicPerform acc) := ⟨rfl, rfl, rfl⟩
theorem mcastReplica (acc : Nat) : Statement (.mcastReplica acc) := ⟨rfl, rfl, rfl⟩
theorem transferUnitLand (req unit : Nat) (r : UnitRead) : Statement (.transferUnitLand req unit r) := ⟨rfl, rfl, rfl⟩
theorem handleFull (region : Nat) (h : Fin 64) : Statement (.handleFull region h) := ⟨rfl, rfl, rfl⟩
theorem fetchDeadline (req : Nat) : Statement (.fetchDeadline req) := ⟨rfl, rfl, rfl⟩
theorem firmwareCycleSteal (region : Nat) : Statement (.firmwareCycleSteal region) := ⟨rfl, rfl, rfl⟩
theorem firmwareCopyDone (req : Nat) (units : List (Nat × UnitRead)) : Statement (.firmwareCopyDone req units) := ⟨rfl, rfl, rfl⟩
theorem handleDrainEnd (region : Nat) (h : Fin 64) : Statement (.handleDrainEnd region h) := ⟨rfl, rfl, rfl⟩
theorem xlatInval (v : BitVec 64) : Statement (.xlatInval v) := ⟨rfl, rfl, rfl⟩
theorem sliceSlotsApply (slice : Nat) : Statement (.sliceSlotsApply slice) := ⟨rfl, rfl, rfl⟩
theorem hostMemwinWrite (n : Fin 8) (v : BitVec 64) : Statement (.hostMemwinWrite n v) := ⟨rfl, rfl, rfl⟩
theorem waymarkAck (slot elem slice : Nat) : Statement (.waymarkAck slot elem slice) := ⟨rfl, rfl, rfl⟩
theorem rvwaitResume (slot : Nat) : Statement (.rvwaitResume slot) := ⟨rfl, rfl, rfl⟩
theorem hwaitResume (slot : Nat) : Statement (.hwaitResume slot) := ⟨rfl, rfl, rfl⟩
theorem csyncRelease (l : Nat) : Statement (.csyncRelease l) := ⟨rfl, rfl, rfl⟩
theorem sequencerWake (region : Nat) : Statement (.sequencerWake region) := ⟨rfl, rfl, rfl⟩
theorem fenceResume (slot : Nat) : Statement (.fenceResume slot) := ⟨rfl, rfl, rfl⟩
theorem ddaStep (region : Nat) (dom : Fin 4) : Statement (.ddaStep region dom) := ⟨rfl, rfl, rfl⟩
theorem dpatchDone (slot : Nat) : Statement (.dpatchDone slot) := ⟨rfl, rfl, rfl⟩
theorem dsaveDone (slot : Nat) (bad : Option Nat) : Statement (.dsaveDone slot bad) := ⟨rfl, rfl, rfl⟩
theorem drestDone (slot : Nat) : Statement (.drestDone slot) := ⟨rfl, rfl, rfl⟩
theorem trapDelivery (slot : Nat) : Statement (.trapDelivery slot) := ⟨rfl, rfl, rfl⟩
theorem linkUp (l : Link) (remote : BitVec 16) (rport : BitVec 4) : Statement (.linkUp l remote rport) := ⟨rfl, rfl, rfl⟩
theorem thermalRecovery : Statement (.thermalRecovery) := ⟨rfl, rfl, rfl⟩
theorem sharedPointAnswer (slot : Nat) : Statement (.sharedPointAnswer slot) := ⟨rfl, rfl, rfl⟩
theorem badTokenWrite (host : HostPort) (port : Fin 16) (why : BadToken) : Statement (.badTokenWrite host port why) := ⟨rfl, rfl, rfl⟩
theorem clusterPowerGate (cluster : Nat) : Statement (.clusterPowerGate cluster) := ⟨rfl, rfl, rfl⟩
theorem appealsExpiry (cluster : Nat) : Statement (.appealsExpiry cluster) := ⟨rfl, rfl, rfl⟩
theorem csyncStall (l : Nat) : Statement (.csyncStall l) := ⟨rfl, rfl, rfl⟩
theorem wakeLate (region : Nat) : Statement (.wakeLate region) := ⟨rfl, rfl, rfl⟩
theorem wallClr (region : Nat) : Statement (.wallClr region) := ⟨rfl, rfl, rfl⟩
theorem winmissClr (slot : Nat) : Statement (.winmissClr slot) := ⟨rfl, rfl, rfl⟩
theorem poisonOriginClr (slot : Nat) : Statement (.poisonOriginClr slot) := ⟨rfl, rfl, rfl⟩
theorem siteerrClr (slot : Nat) : Statement (.siteerrClr slot) := ⟨rfl, rfl, rfl⟩
theorem accerrClr (cluster : Nat) : Statement (.accerrClr cluster) := ⟨rfl, rfl, rfl⟩
theorem ddaErrClr (region : Nat) : Statement (.ddaErrClr region) := ⟨rfl, rfl, rfl⟩
theorem heartbeat (cluster : Nat) : Statement (.heartbeat cluster) := ⟨rfl, rfl, rfl⟩
theorem heartbeatJudge (cluster : Nat) (side : Dir) (ob : Observed) : Statement (.heartbeatJudge cluster side ob) := ⟨rfl, rfl, rfl⟩
theorem babble (cluster : Nat) (side : Dir) : Statement (.babble cluster side) := ⟨rfl, rfl, rfl⟩
theorem vote (cluster : Nat) : Statement (.vote cluster) := ⟨rfl, rfl, rfl⟩
theorem voteFence (cluster : Nat) (lost : List (Dir × Dir)) : Statement (.voteFence cluster lost) := ⟨rfl, rfl, rfl⟩
theorem appealStart (cluster : Nat) : Statement (.appealStart cluster) := ⟨rfl, rfl, rfl⟩
theorem appealVerdict (cluster : Nat) (sig : Option (BitVec 64)) (lost : List (Dir × Dir)) : Statement (.appealVerdict cluster sig lost) := ⟨rfl, rfl, rfl⟩
theorem launchRetire (l : Nat) : Statement (.launchRetire l) := ⟨rfl, rfl, rfl⟩
theorem unloadGo (region : Nat) (v : BitVec 64) : Statement (.unloadGo region v) := ⟨rfl, rfl, rfl⟩
theorem copyRelease (region : Nat) : Statement (.copyRelease region) := ⟨rfl, rfl, rfl⟩
theorem preemptGo (region : Nat) (v : BitVec 64) : Statement (.preemptGo region v) := ⟨rfl, rfl, rfl⟩
theorem regionHalt (region : Nat) : Statement (.regionHalt region) := ⟨rfl, rfl, rfl⟩
theorem imageSaveDone (region : Nat) : Statement (.imageSaveDone region) := ⟨rfl, rfl, rfl⟩
theorem preemptResume (region : Nat) (v : BitVec 64) : Statement (.preemptResume region v) := ⟨rfl, rfl, rfl⟩
theorem regionResume (region : Nat) : Statement (.regionResume region) := ⟨rfl, rfl, rfl⟩
theorem preemptKill (region : Nat) (v : BitVec 64) : Statement (.preemptKill region v) := ⟨rfl, rfl, rfl⟩
theorem pagecopyOut (region : Nat) (v : BitVec 64) : Statement (.pagecopyOut region v) := ⟨rfl, rfl, rfl⟩
theorem pagecopyIn (region : Nat) (v : BitVec 64) : Statement (.pagecopyIn region v) := ⟨rfl, rfl, rfl⟩
theorem pagecopyDone (region : Nat) : Statement (.pagecopyDone region) := ⟨rfl, rfl, rfl⟩
theorem orphansClr (slice : Nat) : Statement (.orphansClr slice) := ⟨rfl, rfl, rfl⟩
theorem peerRetryClr (n : Fin 16) : Statement (.peerRetryClr n) := ⟨rfl, rfl, rfl⟩
theorem registerWrite (host : HostPort) (off : Nat) (v : BitVec 64) : Statement (.registerWrite host off v) := ⟨rfl, rfl, rfl⟩
theorem hostLinkReset (host : HostPort) : Statement (.hostLinkReset host) := ⟨rfl, rfl, rfl⟩
theorem hostMemAccess (host : HostPort) (write : Bool) (addr : Nat) (d : BitVec 512) : Statement (.hostMemAccess host write addr d) := ⟨rfl, rfl, rfl⟩
theorem cxlSnoop (host : HostPort) (addr : Nat) : Statement (.cxlSnoop host addr) := ⟨rfl, rfl, rfl⟩
theorem peerFlit (l : Link) (f : Flit) : Statement (.peerFlit l f) := ⟨rfl, rfl, rfl⟩
theorem linkDown (l : Link) : Statement (.linkDown l) := ⟨rfl, rfl, rfl⟩
theorem peerRequest (n : Fin 16) (write : Bool) (off : Nat) (d : BitVec 512) : Statement (.peerRequest n write off d) := ⟨rfl, rfl, rfl⟩
theorem firmwareBoot (image : List Byte) (signed : Signed) (settings : BitVec 384) : Statement (.firmwareBoot image signed settings) := ⟨rfl, rfl, rfl⟩
theorem trustExtend (j : BitVec 8) (d : BitVec 384) : Statement (.trustExtend j d) := ⟨rfl, rfl, rfl⟩
theorem trustAttest : Statement (.trustAttest) := ⟨rfl, rfl, rfl⟩
theorem attestReport : Statement (.attestReport) := ⟨rfl, rfl, rfl⟩
theorem thermal (w : Hot) : Statement (.thermal w) := ⟨rfl, rfl, rfl⟩
theorem dieOverheat (die : Fin 8) : Statement (.dieOverheat die) := ⟨rfl, rfl, rfl⟩
theorem powerFault (supply : Nat) : Statement (.powerFault supply) := ⟨rfl, rfl, rfl⟩
theorem mgmtWatchdog : Statement (.mgmtWatchdog) := ⟨rfl, rfl, rfl⟩
theorem debugWrite (region addr : Nat) (bytes : List Byte) : Statement (.debugWrite region addr bytes) := ⟨rfl, rfl, rfl⟩
theorem moduleReset : Statement (.moduleReset) := ⟨rfl, rfl, rfl⟩
theorem openTok (t : Token) : Statement (.openTok t) := ⟨rfl, rfl, rfl⟩
theorem paramTok (t : Token) : Statement (.paramTok t) := ⟨rfl, rfl, rfl⟩
theorem dataTok (t : Token) : Statement (.dataTok t) := ⟨rfl, rfl, rfl⟩
theorem closeTok (t : Token) : Statement (.closeTok t) := ⟨rfl, rfl, rfl⟩
theorem ingressClr (port : Fin 16) : Statement (.ingressClr port) := ⟨rfl, rfl, rfl⟩
theorem hostSemWrite (host : HostPort) (n : Fin 16) (v : BitVec 32) : Statement (.hostSemWrite host n v) := ⟨rfl, rfl, rfl⟩

end Sys2Proof.Laws.Encoding
end

