-- ==== Sys2Proof/Tests/Slice0.lean ====
section
/-! SUPPORT. Tests, each from a value that the spec itself works out or from a word written out from its encoding tables;
and, for each statement, states and operands that meet its hypotheses. -/

namespace Sys2Proof.Tests

open Sys2Proof Sys2Proof.Machine

/-! ## Ill-formed terms: one for each check of `wfCheck` (R93 to R98, R135, R138, R149, R153, R169) -/

theorem test_wf_cols : wfCheck (.and { colF := 4, colL := 3 }) = some .cols := by decide
theorem test_wf_seq_one_column : wfCheck (.and { colF := 0, colL := 1, dst := .seq }) = some .cols := by decide
theorem test_wf_matrix_columns : wfCheck (.mzero { colF := 0, colL := 2 }) = some .cols := by decide
theorem test_wf_dst : wfCheck (.mad .i32 { dst := .mask, imm := 1 }) = some .dst := by decide
theorem test_wf_srcA : wfCheck (.perm { a := .recvP }) = some .srcA := by decide
theorem test_wf_srcB : wfCheck (.and { a := .imm, b := .imm }) = some .srcB := by decide
theorem test_wf_pred : wfCheck (.mxq .mxf8 { fold := 3, predMask := 1 }) = some .pred := by decide
theorem test_wf_win : wfCheck (.ldw { win := 0 }) = some .win := by decide
theorem test_wf_flg : wfCheck (.mfa .i8 { dst := .feed, last := true }) = some .flg := by decide
theorem test_wf_imm_unused : wfCheck (.and { imm := 7 }) = some .imm := by decide
theorem test_wf_imm_mask_zero : wfCheck (.ptest { dst := .mask, imm := 0 }) = some .imm := by decide
theorem test_wf_fold : wfCheck (.mfa .mxf4 { dst := .feed, fold := 3, imm := 0x1000 }) = some .fold := by decide
theorem test_wf_overlap : wfCheck (.mxq .mxf8 { fold := 3, dst := .g 4, a := .g 5 }) = some .overlap := by decide
theorem test_wf_event : wfCheck .placement = some .notAWord := by decide
theorem test_wf_dpatch_range : wfCheck (.dpatch 1 500 12) = some .imm := by decide
theorem test_wf_dpatch_last_cell : wfCheck (.dpatch 1 500 11) = none := by decide

/-! ## Words written out from the encodings of the spec (R91 to R103, and the worked words of chapters 6 to 23) -/

/-- R92 to R100: `add.i32 g0, w:g0, #1` with cols=1..3. -/
theorem test_decode_add : decodeSched 0x0500118100A000000001#80
    = .ok (.add .i32 { colF := 1, colL := 3, a := .nbr .west 0, b := .imm, imm := 1 }) := by rfl
theorem test_decode_lds : decodeSched 0x400243A4000000000309#80
    = .ok (.lds { fold := 1, colF := 4, colL := 7, dst := .q 2, imm := 0x0309 }) := by rfl
theorem test_decode_sts : decodeSched 0x40C00060050010000021#80
    = .ok (.sts .n8 { dst := .site, a := .g 5, predMask := 2, imm := 0x0021 }) := by rfl
theorem test_decode_stw : decodeSched 0x40820060030000000001#80
    = .ok (.stw { fold := 1, dst := .site, a := .g 3, imm := 1 }) := by rfl
theorem test_decode_ldw : decodeSched 0x4072000C000000200011#80
    = .ok (.ldw { fold := 1, dst := .g 6, win := 1, imm := 0x0011 }) := by rfl
theorem test_decode_ldt : decodeSched 0x40BE0188000000000002#80
    = .ok (.ldt .n16 { fold := 7, colL := 3, dst := .g 4, imm := 2 }) := by rfl
theorem test_decode_send : decodeSched 0x405052E2010000000007#80
    = .ok (.send { colF := 5, colL := 5, dst := .send, a := .g 1, imm := 7 }) := by rfl
theorem test_decode_recv : decodeSched 0x4060C620000000000007#80
    = .ok (.recv { colF := 12, colL := 12, dst := .q 0, imm := 7 }) := by rfl
theorem test_decode_grp : decodeSched 0x30A00008020180000001#80
    = .ok (.grp { dst := .g 4, a := .g 2, b := .g 3, imm := 1 }) := by rfl
theorem test_decode_segscan : decodeSched 0x30800010070000000009#80
    = .ok (.segscan .i32 { dst := .g 8, a := .g 7, imm := 9 }) := by rfl
theorem test_decode_dtap : decodeSched 0x7000018A000000000008#80
    = .ok (.dtap { colL := 3, dst := .g 5, imm := 8 }) := by rfl

/-- MIN 8t + 3 with t = 1, FLG = RND 1, SAT, PCHK. -/
theorem test_decode_fma : decodeSched 0x10BE0D8A03E4800E0000#80
    = .ok (.fma .f16 { fold := 7, colL := 27, dst := .g 5, a := .g 3, b := .bcast 9, rnd := .rtz, sat := true, pchk := true }) := by rfl
/-- MIN 8t + c with t = 4 and lt = 3; DST 52, PRED N with m5. -/
theorem test_decode_cmp : decodeSched 0x0A302168112A68000002#80
    = .ok (.cmp .lt .n16 { colF := 2, colL := 2, dst := .mask, a := .q 1, b := .nbr .north 20, predNeg := true, predMask := 5, imm := 2 }) := by rfl
/-- MIN the destination's format index, source B's index the source's. -/
theorem test_decode_cvt : decodeSched 0x20B0006D900100000000#80
    = .ok (.cvt .e4m3 .i32 { dst := .res, a := .recvP }) := by rfl
/-- MIN 8t + c with t = 2 and un = 4; DST 55, LAST. -/
theorem test_decode_fcmp : decodeSched 0x1542006E000080010000#80
    = .ok (.fcmp .un .bf16 { fold := 1, dst := .seq, b := .g 1, last := true }) := by rfl
/-- MIN 1. -/
theorem test_decode_mxq : decodeSched 0x24160004080000000000#80
    = .ok (.mxq .mxf8 { fold := 3, dst := .g 2, a := .g 8 }) := by rfl
/-- MIN 27. -/
theorem test_decode_unpack : decodeSched 0x25B00002020000000001#80
    = .ok (.unpack .n8 { dst := .g 1, a := .g 2, imm := 1 }) := by rfl
/-- MIN 1. -/
theorem test_decode_bcast : decodeSched 0x30100000030000000007#80
    = .ok (.bcast { a := .g 3, imm := 7 }) := by rfl
/-- MIN 2. -/
theorem test_decode_lutc : decodeSched 0x3420000C010100000003#80
    = .ok (.lutc { dst := .g 6, a := .g 1, b := .g 2, imm := 3 }) := by rfl
/-- MIN 10. -/
theorem test_decode_atom_cas : decodeSched 0x44A00002020188A00102#80
    = .ok (.atomCas { dst := .g 1, a := .g 2, b := .g 3, predMask := 1, win := 5, imm := 0x0102 }) := by rfl
/-- DST 50. -/
theorem test_decode_treq : decodeSched 0x50000064010000000002#80
    = .ok (.treq { dst := .xfer, a := .g 1, imm := 2 }) := by rfl
/-- MIN 7; DST 51, the site port. -/
theorem test_decode_mfa : decodeSched 0x60780DE7880000001ABC#80
    = .ok (.mfa .mxi8 { fold := 4, colL := 27, dst := .feed, a := .siteP, imm := 0x1ABC }) := by rfl
/-- MIN 26 + k for k + 2 planes; DST 53. -/
theorem test_decode_mfb : decodeSched 0x61C201EA040000000010#80
    = .ok (.mfb (.bp 2) { fold := 1, colL := 3, dst := .wbuf, a := .g 4, imm := 0x0010 }) := by rfl
/-- MIN 42. -/
theorem test_decode_mdrain : decodeSched 0x62AE43A8000010040005#80
    = .ok (.mdrain .f16 { fold := 7, colF := 4, colL := 7, dst := .q 4, predMask := 2, sat := true, imm := 5 }) := by rfl
/-- MIN 12. -/
theorem test_decode_bfi : decodeSched 0x0CC0000601A000000810#80
    = .ok (.bfi { dst := .g 3, a := .g 1, b := .imm, imm := 0x0810 }) := by rfl

/-- R107: majors 56 to 63 are reserved, and a minor that the grid leaves blank is illegal. -/
theorem test_decode_reserved_major : decodeSched (SFields.pack { (SFields.unpack 0) with maj := 56 }) = .error .rsvMajor := by rfl
theorem test_decode_blank_minor : decodeSched (SFields.pack { (SFields.unpack 0) with maj := 0, min := 3 }) = .error .illegalMinor := by rfl
/-- R95: select 5 has no index but 0. -/
theorem test_decode_bad_source :
    decodeSched (SFields.pack { (SFields.unpack 0) with maj := 3, sas := 5, sai := 1 }) = .error (.badField .srcA) := by rfl

/-- R101 to R103, one word of each major. -/
theorem test_decode_xor : decodeCtrl 0x00739CC000#40 = .ok (.seqXor 7 7 6) := by rfl
theorem test_decode_addi : decodeCtrl 0x0400840005#40 = .ok (.addi 1 1 5) := by rfl
theorem test_decode_loop : decodeCtrl 0x1C02980000#40 = .ok (.loop 5 6) := by rfl
theorem test_decode_run : decodeCtrl 0x1C10080000#40 = .ok (.run 2) := by rfl
theorem test_decode_hold : decodeCtrl 0x1C20000006#40 = .ok (.hold 6) := by rfl
theorem test_decode_ctok : decodeCtrl 0x2010000004#40 = .ok (.ctok .unit) := by rfl
theorem test_decode_rvinit : decodeCtrl 0x2020800000#40 = .ok (.rvinit 1 0) := by rfl
theorem test_decode_rvarr : decodeCtrl 0x2030000000#40 = .ok (.rvarr 0) := by rfl
theorem test_decode_rvwait : decodeCtrl 0x2040000000#40 = .ok (.rvwait 0) := by rfl
theorem test_decode_sbar : decodeCtrl 0x2080000006#40 = .ok (.sbar 6) := by rfl
theorem test_decode_fence_way : decodeCtrl 0x2090000000#40 = .ok .fenceWay := by rfl
theorem test_decode_fence : decodeCtrl 0x20A0000002#40 = .ok (.fence 2) := by rfl
theorem test_decode_dpatch : decodeCtrl 0x2800080200#40 = .ok (.dpatch 2 0 1) := by rfl
theorem test_decode_dset : decodeCtrl 0x2811800000#40 = .ok (.dset 3 0) := by rfl
theorem test_decode_dstep : decodeCtrl 0x2822140000#40 = .ok (.dstep 4 5 0) := by rfl
theorem test_decode_dstop : decodeCtrl 0x2830000002#40 = .ok (.dstop 2) := by rfl
theorem test_decode_dsave : decodeCtrl 0x28401C0000#40 = .ok (.dsave 7) := by rfl
theorem test_decode_drest : decodeCtrl 0x28501C0000#40 = .ok (.drest 7) := by rfl
theorem test_decode_nrg : decodeCtrl 0x2C53000002#40 = .ok (.nrg 6 2) := by rfl
theorem test_decode_gen : decodeCtrl 0x2C62800000#40 = .ok (.gen 5) := by rfl
/-- R101, R103: an unused field that is not zero is `BAD_FIELD`; R102: a blank minor is illegal. -/
theorem test_decode_ctrl_unused : decodeCtrl 0x2C40000001#40 = .error (.badField .imm) := by rfl
theorem test_decode_ctrl_blank : decodeCtrl 0x0410000000#40 = .error .illegalMinor := by rfl
/-- R91: the table's bits reach the decoder in the byte order of storage. -/
theorem test_decode_table : decodeTableWord 40 0x1C02980000 = some (.loop 5 6) := by rfl

/-! ## One beat, one word: values that the spec works out -/

/-- A slot of launch 0 in region 0, bound and started. -/
def aSlot : Slot := { bound := true, start := some 0 }

/-- A running launch of one slot on generation 1 of region 0. -/
def aLaunch : Launch := { stage := .running, region := 0, gen := 1, slots := [0], armed := true }

/-- A copy with one kernel of 16 control words and the given sites. -/
def aCopy (sites : Map Site) : Copy := { gen := 1, bytes := 4096, kernels := [{ words := 16, slcnt := 4, ii := 8 }], sites := sites }

/-- Region 0 under that launch, its slot 0 as given, at cycle 16. -/
def aState (sl : Slot) (sites : Map Site := []) : State :=
  { State.reset with cycle := 16, slots := [(0, sl)], launches := [(0, aLaunch)], regions := [(0, { copies := [aCopy sites] })] }

/-- A first beat of a line at element 0 of region 0. -/
def aFlight : Flight :=
  { region := 0, slot := 0, launch := 0, gen := 1, row := 0, col := 0, colL := 0, cc0 := 0, edge := 16, beat := 0, word := 0,
    pos := {}, line := 0, rb := 0, ctr2 := 0, ctr3 := 0, fmt := 0x8000 }

/-- The beat at its element, with registers by (code, lane). -/
def aBeat (regs : List (Nat × Nat × LaneWord)) : State :=
  { aState aSlot with
    ctx := { flight := some aFlight }
    elems := [(0, { regs := putAll [] (regs.map fun x => (regKey 0 x.1 x.2.1, Lane.clean x.2.2)) })] }

/-- Lane `lane` of register `code` of element 0 after a word. -/
def laneAfter (i : Instr) (s : State) (code lane : Nat) : Option LaneWord :=
  match exec i s with
  | .next t => some (t.regLane 0 0 code lane).v
  | _ => none

/-- R156: the two lanes of the table of words. -/
def r156 : State := aBeat [(1, 0, 0x7FF00005), (2, 0, 0x0020FFFF)]
def r156Op : SOp := { dst := .g 3, a := .g 1, b := .g 2 }
theorem test_add_i16_wraps : laneAfter (.add .i16 r156Op) r156 3 0 = some 0x80100004 := by decide
theorem test_add_i16_clamps : laneAfter (.add .i16 { r156Op with sat := true }) r156 3 0 = some 0x7FFF0004 := by decide
theorem test_add_n16_clamps : laneAfter (.add .n16 { r156Op with sat := true }) r156 3 0 = some 0x8010FFFF := by decide
theorem test_mulh_i16 : laneAfter (.mulh .i16 r156Op) r156 3 0 = some 0x000FFFFF := by decide

/-- The example of `bfx.i32`: position 20, width 16. -/
theorem test_bfx_i32 : laneAfter (.bfxI32 { dst := .g 3, a := .g 1, b := .imm, imm := 0x0F14 }) (aBeat [(1, 0, 0xF00DCAFE)]) 3 0
    = some 0xFFFFFF00 := by decide

/-- The example of `cvt.e4m3.i32` of 1,000: 448 with SAT, a NaN without. -/
theorem test_cvt_e4m3_sat : laneAfter (.cvt .e4m3 .i32 { dst := .g 3, a := .g 1, sat := true }) (aBeat [(1, 0, 1000)]) 3 0
    = some 0x7E := by decide
theorem test_cvt_e4m3_nan : laneAfter (.cvt .e4m3 .i32 { dst := .g 3, a := .g 1 }) (aBeat [(1, 0, 1000)]) 3 0
    = some 0x7F := by decide

/-- The worked encodings of chapter 3: 300.0 and 2^-10 to e4m3 and e5m2. -/
theorem test_cvt_300 : laneAfter (.cvt .e4m3 .f32 { dst := .g 3, a := .g 1 }) (aBeat [(1, 0, 0x43960000)]) 3 0 = some 0x79
    ∧ laneAfter (.cvt .e5m2 .f32 { dst := .g 3, a := .g 1 }) (aBeat [(1, 0, 0x43960000)]) 3 0 = some 0x5D := by decide
theorem test_cvt_tiny : laneAfter (.cvt .e4m3 .f32 { dst := .g 3, a := .g 1 }) (aBeat [(1, 0, 0x3A800000)]) 3 0 = some 0
    ∧ laneAfter (.cvt .e5m2 .f32 { dst := .g 3, a := .g 1 }) (aBeat [(1, 0, 0x3A800000)]) 3 0 = some 0x14 := by decide

/-- The worked example of `grp`: keys in g2, tokens in g3; lane 3 of g4 and g5. -/
def r173 : State := aBeat ((List.range 8).flatMap fun i =>
  [(2, i, BitVec.ofNat 32 ([3, 1, 3, 0, 1, 3, 2, 1].getD i 0)), (3, i, BitVec.ofNat 32 i)])
theorem test_grp : laneAfter (.grp { dst := .g 4, a := .g 2, b := .g 3 }) r173 4 3 = some 7
    ∧ laneAfter (.grp { dst := .g 4, a := .g 2, b := .g 3 }) r173 5 3 = some 1 := by decide

/-- The worked example of chapter 1: where element 17,437 stands. -/
theorem test_element_17437 : elemRegion 17437 = 38 ∧ elemRow 17437 = 15 ∧ elemCol 17437 = 17 ∧ homeSlice 38 0 = 152 := by decide

/-- R113, R117: a control word through a step, from reset; a write to a0 is discarded. -/
theorem test_step_addi : (match step (State.reset.withFetchWord 40 0x0400840005) with
    | .next t => some ((t.slot 0).areg 1) | _ => none) = some 5 := by decide
theorem test_step_a0 : (match step (State.reset.withFetchWord 40 0x0400040005) with
    | .next t => some ((t.slot 0).areg 0, (t.slot 0).pc) | _ => none) = some (0, 0x20001) := by decide
/-- R107: a word of a reserved major traps at its own PC; a slot without a handler ends its launch (R310, R312). -/
theorem test_step_reserved : (match step (State.reset.withFetchWord 40 0xE000000000) with
    | .next t => some ((t.launch 0).terminated, (t.launch 0).cause) | _ => none) = some (true, 112) := by decide

end Sys2Proof.Tests
end

