-- ==== Sys2Proof/Tests/Witnesses.lean ====
section
/-! SUPPORT. For each statement about a control word with hypotheses: a state and operands that meet them, clause by clause, at the ends of the
ranges where the clauses meet. -/

namespace Sys2Proof.Tests

open Sys2Proof Sys2Proof.Machine

/-- The slot with one register set. -/
def withA (r : AReg) (v : Word) : Slot := aSlot.setA r v

theorem live_aState (sl : Slot) (xs : Map Site) (hb : sl.bound = true) (hl : sl.launch = 0) : Live (aState sl xs) := by
  refine ⟨hb, ?_⟩
  show (State.launch (aState sl xs) sl.launch).halted = false
  rw [hl]
  rfl

/-! ## Control words -/

theorem meets_ScalarWordsWriteOneRegister :
    (∃ w, scalarResult (.li 1 5) (aState aSlot).me = some w)
      ∧ isShiftImm 0x0490840040#40 = true ∧ (0x0490840040#40).toNat / 2 ^ 6 % 2 ^ 12 ≠ 0 :=
  ⟨⟨_, rfl⟩, by decide⟩

theorem meets_BranchesMoveThePc :
    branchOffset (.beq 0 0 3) (aState aSlot).me = some 3
      ∧ ((aState (withA 1 15)).me.areg 1).toNat < ((aState (withA 1 15)).kernelAt (aState (withA 1 15)).key).words
      ∧ ((aState (withA 1 16)).kernelAt (aState (withA 1 16)).key).words ≤ ((aState (withA 1 16)).me.areg 1).toNat := by decide

/-- A site of one bank, 64 words in a line, two lines: 512 bytes. -/
def aSite : Site := { page := 0, banks := 1, lcols := 63, lines := 2 }

theorem meets_SequencerAccessesPerform :
    (let s := aState (withA 1 0x0300000000000000) [(3, aSite)];
      Live s ∧ siteNamed s (seqSite (low64 ((s.me.areg 1).toInt + (504#18).toInt))) = some aSite
        ∧ admits aSite (seqOff (low64 ((s.me.areg 1).toInt + (504#18).toInt))) (ldWidth .i64)
        ∧ ¬ admits aSite (seqOff (low64 ((s.me.areg 1).toInt + (508#18).toInt))) (stWidth .i64)
        ∧ siteNamed s (seqSite (low64 ((s.me.areg 0).toInt + (504#18).toInt))) = none
        ∧ s.seqServed (s.seqPlace 0 (s.genOf 0) 3 504).1 31 = true
        ∧ s.elemRuns (s.seqPlace 0 (s.genOf 0) 3 504).1 = true
        ∧ ({ s with clusters := [(0, { shut := true })] } : State).elemRuns (s.seqPlace 0 (s.genOf 0) 3 504).1 = false
        ∧ s.ownerHalted (.inr (.value 0 1 0)) = false) := by
  refine ⟨live_aState _ _ rfl rfl, ?_⟩
  unfold admits
  decide

/-- A descriptor of `loop` for one line of stage 0 from line 3, the last line of the kernel. -/
def goodLoop : Word := 0x0003000000000000
def goodRun : Word := 0x0003000000000000

theorem meets_IssuesStart :
    (let s := aState ((withA 1 5).setA 2 goodLoop);
      s.me.active = false ∧ Idle s.cycle s.me ∧ GoodLoop s (s.me.areg 2) ∧ GoodRun s (s.me.areg 2)
        ∧ (s.me.areg 1).toNat % 2 ^ 32 ≠ 0 ∧ (s.me.areg 0).toNat % 2 ^ 32 = 0)
    ∧ (let s := aState (withA 2 0x0004000000000000);
      ¬ GoodLoop s (s.me.areg 2) ∧ ¬ GoodRun s (s.me.areg 2))
    ∧ (¬ Idle 16 { aSlot with cur := { kind := .run } } ∧ ¬ Idle 16 { aSlot with sentAt := some 16 })
    ∧ ({ aSlot with cause := 0x8000000000000000 } : Slot).active = true := by
  refine ⟨⟨by decide, ⟨by decide, by decide, by decide⟩, ⟨by decide, by decide, ?_, by decide⟩, ⟨by decide, by decide⟩, by decide, by decide⟩,
    ⟨fun h => absurd h.1 (by decide), fun h => absurd h.1 (by decide)⟩, ⟨fun h => absurd h.1 (by decide), fun h => absurd h.2.2 (by decide)⟩, by decide⟩
  intro j _ h
  have : ∀ j < 16, stageOf goodLoop j = 0 := by decide
  exact this j h

/-- Slot 0 in a loop of four trips of the descriptor's lines, with the given word in row 2 of the first line. -/
def issueState (w : Nat) (x : Issue := { kind := .loop, n := 4 }) : State :=
  { aState { aSlot with cur := x } with
    regions := [(0, { copies := [aCopy []], store := putAll [] ((bytesOf w 10).mapIdx fun i b => (20 + i, b)) })] }
/-- A word of two beats. -/
def goodWord : Nat := 0x0502018000A000000001

/-- Whether a word is issued in row q of that copy. -/
def sounds (q : Nat) (w : SchedWord) : Bool :=
  match decodeSched w with
  | .ok i => shapeOk (copyRows (aCopy [])) (4 * (aCopy []).pcol) q i == none
  | .error _ => false
def failsWith (e : DecErr) (w : SchedWord) : Bool := decodeSched w == .error e

/-- A word in row 2 that is issued, of two beats at the first and the last trip; one of a reserved major, one of a blank minor, and
one with columns past the page set. -/
theorem meets_IssuesStart_beats :
    (let s := issueState goodWord;
      s.ecc = [] ∧ (s.slot 0).cur.kind = .loop ∧ (s.slot 0).cur.beat = 0 ∧ (stageOf 0 0 ≤ 0 ∧ 0 < 4 + stageOf 0 0) ∧ stagesOf 0 = 1 ∧ loopLast 0 = 0
        ∧ ((s.lineOf 0 none 0).mapIdx sounds).all (·) = true ∧ lineBeats (s.lineOf 0 none 0) = 2 ∧ (s.lineOf 0 none 0).length = 4)
      ∧ (((issueState (56 * 2 ^ 74)).lineOf 0 none 0)[2]?.any (failsWith .rsvMajor)) = true
      ∧ (((issueState (3 * 2 ^ 68)).lineOf 0 none 0)[2]?.any (failsWith .illegalMinor)) = true
      ∧ (((issueState 0x0502001B00A000000001).lineOf 0 none 0)[2]?.any fun w => !sounds 2 w && !failsWith .rsvMajor w && !failsWith .illegalMinor w) = true
      ∧ ((issueState goodWord { kind := .loop, n := 4, iter := 3, beat := 1 }).slot 0).following = [] := by decide

theorem meets_HoldWakeAndTokensAct :
    (let s := { aState aSlot with slots := [(0, aSlot), (1, aSlot)] };
      Live s ∧ StaysFree s 2 ∧ OwnSet s 0xFE 2) ∧ ¬ StaysFree (aState aSlot) 1 := by
  refine ⟨⟨⟨rfl, rfl⟩, ⟨0, by decide, by decide⟩, by unfold OwnSet; decide⟩, ?_⟩
  rintro ⟨i, h, hb, _, _, hn, _⟩
  have : ∀ i < 8, ((aState aSlot).slot (8 * (aState aSlot).ctx.region + i)).bound = true → (1#8).getLsbD i = true := by decide
  exact absurd ((this i h hb).symm.trans hn) (by decide)

theorem meets_RendezvousWordsStart :
    (let s := aState (withA 1 2);
      s.ecc = [] ∧ s.remotePoint s.me.launch 23 = false)
    ∧ (let s := { aState aSlot with
                  launches := [(0, aLaunch), (1, { aLaunch with region := 1 })]
                  points := [(23, { link := some (1, 0) })] };
      s.remotePoint s.me.launch 23 = true) := by decide

/-- A point of launch 0 set for two arrivals, in phase 7. -/
def aPoint : Point := { init := true, count := 2, ph := 7, arr := 1 }

theorem meets_ArrivalsAreCounted :
    (let s := { aState { aSlot with ac := [(5, 7)] } with points := [(5, aPoint)] };
      s.pointLives (s.target 0 5) = true ∧ arrival 7 (s.point 0 5) = some { aPoint with arr := 2 }
        ∧ arrival 8 (s.point 0 5) = some { aPoint with next := 1 }
        ∧ arrival 9 (s.point 0 5) = none ∧ arrival 6 (s.point 0 5) = none
        ∧ s.sameTeam 0 (s.slot 0).launch = true ∧ s.sameTeam 0 1 = false
        ∧ (let s := { s with launches := [(0, aLaunch), (1, aLaunch)], points := [(24 + 5, aPoint)] };
          s.pointLives (s.target 1 5) = true ∧ arrival 7 (s.point (s.target 1 5).1 (s.target 1 5).2) = some { aPoint with arr := 2 }
            ∧ arrival 9 (s.point (s.target 1 5).1 (s.target 1 5).2) = none)
        ∧ ({ s with points := [(24 + 5, { aPoint with gone := true })] } : State).pointLives (s.target 1 5) = false)
      ∧ 3 ≤ 3 ∧ (({ init := true, count := 1, arr := 2 } : Point).init = true →
        ({ init := true, count := 1, arr := 2 } : Point).count.toNat ≠ 0) := by decide

/-- Region 0 with handle 63 as given. -/
def withHandle (y : Handle) : State :=
  { aState aSlot with regions := [(0, { copies := [aCopy []], handles := [(63, y)] })] }

theorem meets_HandleWordsStart :
    (aState aSlot).ecc = [] ∧ Live (aState aSlot)
      ∧ ((aState aSlot).handle 0 63).st = .free
      ∧ ((withHandle { st := .filling }).handle 0 63).st = .filling
      ∧ ((withHandle { st := .full }).handle 0 63).owner = 0
      ∧ ((withHandle { st := .full, owner := 1 }).handle 0 63).owner ≠ (aState aSlot).me.launch :=
  ⟨rfl, live_aState _ _ rfl rfl, by decide, by decide, by decide, by decide⟩

theorem meets_HandleWordsAct :
    (aState aSlot).ownerHalted (.inr (.value 0 1 (handleBits ((aState aSlot).handle 0 63)))) = false
      ∧ ((withHandle { st := .full, dest := some (0, 65) }).handle 0 63).st = .full
      ∧ ((withHandle { st := .full }).handle 0 63).owner = ((withHandle { st := .full }).slot 0).launch
      ∧ ((withHandle { st := .draining }).handle 0 63).st ≠ .full := by decide

theorem meets_BarriersFencesAndCsyncStart :
    Live (aState (withA 1 1))
      ∧ ((aState (withA 1 1)).me.areg 1).toNat < 2 ^ pagesOf ((aState (withA 1 1)).copyOf 0)
      ∧ 2 ^ pagesOf ((aState (withA 1 2)).copyOf 0) ≤ ((aState (withA 1 2)).me.areg 1).toNat
      ∧ (let s := { aState (withA 1 1) with
                    slots := [(0, withA 1 1), (1, { aSlot with wait := .csync 0 4 })]
                    launches := [(0, { aLaunch with slots := [0, 1] })] };
        ∃ k ∈ s.slotKeys s.me.launch, k ≠ s.key ∧ ∃ v' c, (s.slot k).wait = .csync v' c ∧ v' ≠ s.me.areg 1) :=
  ⟨live_aState _ _ rfl rfl, by decide, by decide, 1, by decide, by decide, 0, 4, by decide, by decide⟩

/-- Launch 0 with its milestone state, and the old plane's generation. -/
def withMstat (m : BitVec 32) (old : Option Nat) (a1 : Word) (committed : Bool := false) : State :=
  { aState (withA 1 a1) with launches := [(0, { aLaunch with mstat := m, oldGen := old, committed := committed })] }

theorem meets_MilestoneWordsAct :
    Live (withMstat 0 none 0)
      ∧ (mState ((withMstat 0 none 0).launch 0).mstat = 0 ∧ mPend ((withMstat 0 none 0).launch 0).mstat = false)
      ∧ ((withMstat 0 (some 1) 0).launch 0).oldGen ≠ none
      ∧ (mState ((withMstat 1 none 0).launch 0).mstat = 1 ∧ mPend ((withMstat 4 none 0).launch 0).mstat = true)
      ∧ ((withMstat 2 none 527).me.areg 1).toNat < (withMstat 2 none 527).cycle + 512
      ∧ (withMstat 2 none 528).cycle + 512 ≤ ((withMstat 2 none 528).me.areg 1).toNat
      ∧ mState ((withMstat 2 none 528).launch 0).mstat = 2
      ∧ mState ((withMstat 3 none 528).launch 0).mstat = 3
      ∧ ¬ (mPend ((withMstat 6 none 0).launch 0).mstat = true ∧ ((withMstat 6 none 0).launch 0).committed = true)
      ∧ (mPend ((withMstat 6 none 0 true).launch 0).mstat = true ∧ ((withMstat 6 none 0 true).launch 0).committed = true) := by
  refine ⟨⟨rfl, rfl⟩, ?_⟩
  decide

/-- A site of one bank at the ends of its buffer; a launch that owns the region's DDA. -/
def ddaState (a1 a2 : Word) (run : Bool := false) : State :=
  { aState ((withA 1 a1).setA 2 a2) [(3, aSite)] with
    regions := [(0, { copies := [aCopy [(3, aSite)]], ddaOwner := some 0, doms := [(2, { running := run })] })] }

theorem ddaRuns_ddaState (a b : Word) (r : Bool) : DdaRuns (ddaState a b r) 0 := by
  intro l h
  simp only [ddaState, State.region, look] at h
  cases Option.some.inj h
  rfl

theorem meets_DdaWordsStart :
    Live (ddaState 0 0) ∧ DdaRuns (ddaState 0 0) 0
      ∧ (∃ z, siteNamed (ddaState 0x03000000000001F8 0) 3 = some z ∧ admits z (seqOff 0x03000000000001F8) 8)
      ∧ siteNamed (ddaState 0 0) (seqSite 0) = none
      ∧ (-(2 ^ 32) < (0x00000000FFFFFFFF#64).toInt ∧ (0x00000000FFFFFFFF#64).toInt < 2 ^ 32)
      ∧ (-(2 ^ 32) < (0xFFFFFFFF00000001#64).toInt)
      ∧ ¬ ((0x0000000100000000#64).toInt < 2 ^ 32) ∧ ¬ (-(2 ^ 32) < (0xFFFFFFFF00000000#64).toInt)
      ∧ ((0x7FFFFFFF#64).toNat < 2 ^ 31 ∧ 1 ≤ (0xFFFF#64).toNat ∧ (0xFFFF#64).toNat < 2 ^ 16)
      ∧ ¬ (0x80000000#64).toNat < 2 ^ 31 ∧ ¬ 1 ≤ (0#64).toNat ∧ ¬ (0x10000#64).toNat < 2 ^ 16
      ∧ ((0xFFCFC0#64).toNat % 64 = 0 ∧ (0xFFCFC0#64).toNat + 12352 ≤ 2 ^ 24)
      ∧ ¬ (0xFFD000#64).toNat + 12352 ≤ 2 ^ 24 ∧ ¬ (0x20#64).toNat % 64 = 0
      ∧ (∀ i < 4, (((ddaState 0 0).region 0).dom i).running = false)
      ∧ ¬ ∀ i < 4, (((ddaState 0 0 true).region 0).dom i).running = false := by
  refine ⟨⟨rfl, rfl⟩, ddaRuns_ddaState _ _ _, ⟨aSite, by decide, ?_⟩, by decide, by decide, by decide, by decide,
    by decide, by decide, by decide, by decide, by decide, by decide, by decide, by decide, by decide, by decide⟩
  unfold admits
  decide

/-- The word after offset 0x1F0 lies in the site; the one after 0x1F8 does not. -/
theorem meets_DdaWordsAct :
    DdaRuns (ddaState 0 0) 0
      ∧ (let s := ddaState 0 0;
        let find := ((s.copyOf (s.slot 0).launch).sites.find? (·.1 == 3)).map (·.2);
        (∃ z, find = some z ∧ admits z (0x1F0 + 8 * (0 + 1)) 8) ∧ (¬ ∃ z, find = some z ∧ admits z (0x1F8 + 8 * (0 + 1)) 8)
          ∧ s.cycle + 7 = 23 ∧ 0 + 1 < 2 ∧ s.elemRuns (s.seqPlace 0 (s.genOf 0) 3 (0x1F0 + 8 * 0)).1 = true
          ∧ s.seqServed (s.seqPlace 0 (s.genOf 0) 3 (0x1F0 + 8 * 0)).1 23 = true
          ∧ s.ownerHalted (.inr (.patchWord 0 0 (0 + 1) 2 3 0x1F0 (23 + 8) [])) = false) := by
  refine ⟨ddaRuns_ddaState _ _ _, ⟨aSite, by decide, ?_⟩, ?_, by decide, by decide, by decide, by decide⟩
  · unfold admits; decide
  · rintro ⟨z, h, _, _⟩
    cases Option.some.inj h
    rename_i hz
    exact absurd hz (by decide)

/-! ## Exceptions -/

/-- A slot with its trap registers. -/
def trapSlot (tvec cause : Word) : Slot := { aSlot with tvec := tvec, cause := cause }

theorem meets_DeliveryFollowsTheRecord :
    causeClass 114 ≠ .T ∧ HandlerReady (aState (trapSlot 0x800000000000000F 0)) 0
      ∧ (inHandler (trapSlot 0 0) = false ∧ trapEn (trapSlot 0 0) = false)
      ∧ (trapEn (trapSlot 0x8000000000000010 0) = true
        ∧ ((aState (trapSlot 0x8000000000000010 0)).kernelAt 0).words ≤ trapEntry (trapSlot 0x8000000000000010 0))
      ∧ causeClass 119 = .T
      ∧ inHandler (trapSlot 0 0x8000000000000000) = true ∧ holdsCause (trapSlot 0 0xC000000000000000) = true
      ∧ holdsCause (trapSlot 0 0x8000000000000000) = false := by
  refine ⟨by decide, ⟨by decide, by decide, by decide⟩, by decide⟩

theorem meets_TerminationStopsEverySlot :
    ((aState aSlot).launch 0).terminated = false
      ∧ ({ aState aSlot with launches := [(0, { aLaunch with terminated := true })] }.launch 0).terminated = true := by decide

theorem meets_TrapsEnterAndReturn :
    HandlerReady (aState (trapSlot 0x800000000000000F 0)) (aState (trapSlot 0x800000000000000F 0)).key
      ∧ (inHandler (aState (trapSlot 0 0)).me = false ∧ trapEn (aState (trapSlot 0 0)).me = false)
      ∧ (let s := aState (trapSlot 0 0x8000000000000070);
        inHandler s.me = true ∧ causeClass (causeNum s.me) ≠ .R)
      ∧ (let s := aState (trapSlot 0 0x8000000000000072);
        inHandler s.me = true ∧ causeClass (causeNum s.me) = .R ∧ holdsCause s.me = false)
      ∧ (let s := aState (trapSlot 0 0xC000000000000072);
        inHandler s.me = true ∧ causeClass (causeNum s.me) = .R ∧ holdsCause s.me = true ∧ trapEn s.me = false)
      ∧ (let s := aState (trapSlot 0x8000000000000010 0xC000000000000072);
        inHandler s.me = true ∧ causeClass (causeNum s.me) = .R ∧ holdsCause s.me = true ∧ trapEn s.me = true
          ∧ (s.kernelAt s.key).words ≤ trapEntry s.me)
      ∧ (let s := aState (trapSlot 0x800000000000000F 0xC000000000000072);
        inHandler s.me = true ∧ causeClass (causeNum s.me) = .R ∧ holdsCause s.me = true ∧ trapEn s.me = true
          ∧ trapEntry s.me < (s.kernelAt s.key).words) := by
  refine ⟨⟨by decide, by decide, by decide⟩, by decide⟩

theorem meets_HaltAndReadback :
    (¬ Idle 16 (aState { aSlot with cur := { kind := .run } }).me ∧ inHandler (aState { aSlot with cur := { kind := .run } }).me = false)
      ∧ Idle 16 (aState aSlot).me ∧ (aState aSlot).me.raised = [] ∧ Live (aState aSlot) :=
  ⟨⟨fun h => absurd h.1 (by decide), by decide⟩, ⟨by decide, by decide, by decide⟩, by decide, live_aState _ _ rfl rfl⟩

theorem meets_RegisterWordsAct :
    ((0x000#12).toNat, (0x8000#64)) ∈ csrTable (aState aSlot) ∧ noRegister (0x00D#12).toNat = true
      ∧ noRegister (0xFFF#12).toNat = true ∧ Live (aState aSlot)
      ∧ (0x201#12).toNat ∈ [0x001, 0x002, 0x004, 0x00A, 0x00B, 0x00C, 0x010, 0x011, 0x012, 0x200, 0x201]
      ∧ (0x057#12).toNat < 0x058 ∧ (0x4FF#12).toNat % 8 ≠ 1 ∧ (0x103#12).toNat < 0x104 ∧ (0x307#12).toNat < 0x308
      ∧ (0 < pagesOf ((aState aSlot).copyOf 0) ∧ 255 < 256)
      ∧ siteNamed (aState aSlot [(255, { aSite with fill := 4 })]) 255 = some { aSite with fill := 4 }
      ∧ siteNamed (aState aSlot) 255 = none :=
  ⟨by decide, by decide, by decide, live_aState _ _ rfl rfl, by decide, by decide, by decide, by decide, by decide, by decide, by decide, by decide⟩

end Sys2Proof.Tests
end

