-- ==== Sys2Proof/Tests/WitnessesLanes.lean ====
section
/-! SUPPORT. For each statement about the lanes of a beat with hypotheses: a state and operands that meet them, clause by clause, at the
ends of the ranges where the clauses meet. -/

namespace Sys2Proof.Tests

open Sys2Proof Sys2Proof.Machine

/-! ## Schedule words: what a beat computes -/

/-- A beat with a source to the west, in the grid's west column. -/
def nbrOp : SOp := { dst := .g 3, a := .nbr .west 0, b := .g 2 }

theorem meets_LaneFormsComputeEachLane :
    (∃ F, laneForm (.add .i16 r156Op) r156.fl.fmt = some F ∧ r156.readFault F.o (r156.laneReads F.o F.readsB F.readsD) = none)
      ∧ ∃ F, laneForm (.add .i16 nbrOp) r156.fl.fmt = some F ∧ r156.readFault F.o (r156.laneReads F.o F.readsB F.readsD) = some 17 :=
  ⟨⟨_, rfl, by decide⟩, ⟨_, rfl, by decide⟩⟩

theorem meets_RoundingFollowsTheMode :
    ({ } : Arith).flush = false ∧ ({ rnd := .rtz } : Arith).rnd = .rtz ∧ ({ } : Arith).rnd = .rne
      ∧ (finiteCode .e4m3 (fround { rnd := .rtz } .e4m3 (.fin false 300 0)).c).isSome = true
      ∧ (finiteCode .e4m3 (fround { } .e4m3 (.fin false 300 0)).c).isSome = true
      ∧ finiteCode .e4m3 (fround { } .e4m3 (.fin false 1000 0)).c = none := by decide

theorem meets_BlocksTakeTheirLargestsScale :
    (∃ x ∈ [Val.fin false 1 0, Val.inf true], ∀ n m e, x ≠ .fin n m e)
      ∧ (∀ x ∈ [Val.fin false 0 5, Val.fin true 0 0], ∃ n e, x = .fin n 0 e)
      ∧ ((∀ x ∈ [Val.fin true 3 1, Val.fin false 1 0], ∃ n m e, x = .fin n m e ∧ (ratOf n m e).abs ≤ 6)
        ∧ (∃ n m e, Val.fin n m e ∈ [Val.fin true 3 1, Val.fin false 1 0] ∧ (ratOf n m e).abs = 6) ∧ (6 : Rat) ≠ 0) := by
  refine ⟨⟨.inf true, by simp, by simp⟩, ?_, ?_, ⟨true, 3, 1, by simp, by norm_num [ratOf, Rat.abs]⟩, by norm_num⟩
  · intro x hx
    simp only [List.mem_cons, List.not_mem_nil, or_false] at hx
    rcases hx with rfl | rfl
    · exact ⟨_, _, rfl⟩
    · exact ⟨_, _, rfl⟩
  · intro x hx
    simp only [List.mem_cons, List.not_mem_nil, or_false] at hx
    rcases hx with rfl | rfl
    · exact ⟨_, _, _, rfl, by norm_num [ratOf, Rat.abs]⟩
    · exact ⟨_, _, _, rfl, by norm_num [ratOf, Rat.abs]⟩

/-- The beat number `b` of a word. -/
def atBeatOf (b : Nat) (s : State) : State := { s with ctx := { s.ctx with flight := some { aFlight with beat := b } } }

theorem meets_SelectAndBlockFormsMove :
    r156.readFault r156Op (r156.selReads r156Op) = none
      ∧ ((atBeatOf 2 r156).fl.beat % 4 ≠ 3 ∧ (atBeatOf 2 r156).readFault r156Op (atBeatOf 2 r156).mxqReads = none)
      ∧ ((atBeatOf 7 r156).fl.beat = 4 * 1 + 3 ∧ (atBeatOf 7 r156).dstNext (.g 3) = some 4
        ∧ (atBeatOf 7 r156).readFault r156Op (atBeatOf 7 r156).mxqReads = none)
      ∧ (∀ f, (atBeatOf 7 r156).readFault r156Op ((atBeatOf 7 r156).mxdqReads f r156Op) = none)
      ∧ r156.readFault r156Op (r156.coverReads 8) = none
      ∧ (r156Op.imm.toNat % 8 + 2 ≤ 8 ∧ r156.readFault r156Op (r156.coverReads (r156Op.imm.toNat % 8 + 2)) = none) :=
  ⟨by decide, by decide, by decide, fun f => by cases f <;> decide, by decide, by decide⟩

/-- The beat at element 15 of the cluster. -/
def atElem (e row col : Nat) (s : State) : State := { s with ctx := { s.ctx with elem := e, row := row, col := col } }

theorem meets_TablesAnswerTheirSegment :
    r156.ctx.elem % 16 ≠ 15
      ∧ ((atElem 15 3 3 r156).ctx.elem % 16 = 15 ∧ (atElem 15 3 3 r156).ecc = []
        ∧ ∀ b, (atElem 15 3 3 r156).readFault r156Op ((atElem 15 3 3 r156).laneReads r156Op b false) = none)
      ∧ (let s := { atElem 15 3 3 r156 with ecc := [(.lut 15 128, .double)] };
        0 ∈ s.enabled r156Op ∧ s.eccAt (.lut 15 128) = some .double ∧ s.readFault r156Op (s.laneReads r156Op false false) = none)
      ∧ (isNan (.inf true) = false ∧ (0x3F80000080000000#64).toNat % 2 ^ 31 = 0) := by decide

theorem meets_LaneMovesDrawFromTheFirstBeat :
    (∀ s ∈ [r156, atBeatOf 1 r156], s.readFault r156Op (s.permReads r156Op) = none
        ∧ s.readFault r156Op (s.bcastReads r156Op) = none ∧ s.readFault r156Op (s.lshReads r156Op) = none)
      ∧ r156.fl.beat = 0 ∧ (atBeatOf 1 r156).fl.beat ≠ 0 := by
  decide

/-- At element 0 and at element 15 of a cluster, on the first and the last beat. -/
theorem meets_LaneMovesAndTablesComplete :
    (∀ s ∈ [r156, atBeatOf 7 r156, atElem 15 3 3 r156], s.tagOk r156Op.a = true ∧ s.tagOk r156Op.b = true ∧ s.ecc = []
        ∧ destOf s r156Op.dst = some 3 ∧ s.ctx.slot < 8 ∧ s.qcnt ≤ 32 ∧ s.fl.beat < 8)
      ∧ r156.ctx.elem % 16 ≠ 15 ∧ (atElem 15 3 3 r156).ctx.elem % 16 = 15 := by
  decide

theorem meets_ReductionsWriteOnTheLastBeat :
    (r156.readFault r156Op (r156.allReads r156Op) = none ∧ r156.readFault r156Op (r156.scanReads r156Op) = none
        ∧ r156.readFault r156Op (r156.grpReads r156Op) = none ∧ r156.fl.beat = r156Op.fold.val
        ∧ r156Op.imm.getLsbD 0 = false ∧ r156.dstNext r156Op.dst = some 4)
      ∧ r156.fl.beat ≠ ({ r156Op with fold := 1 } : SOp).fold.val := by decide

/-! ## Schedule words: where results go -/

/-- Two result lanes, the second poisoned. -/
def twoLanes : List (Nat × Lane) := [(0, Lane.clean 1), (63, { v := 2, p := true, o := 5 })]

theorem meets_RegistersTakeResults :
    (twoLanes.map (·.1)).Nodup ∧ r156.ctx.slot < 8 ∧ r156.qcnt ≤ 32 ∧ (∀ x ∈ twoLanes, x.1 < 64)
      ∧ destOf r156 (.g 15) = some 15 ∧ destOf r156 (.q 31) = some 47
      ∧ reachesRes (.q 31) = true ∧ reachesRes .seq = true ∧ reachesRes .site = false
      ∧ r156.dstNext (.g 14) = some 15 ∧ 15 < 48 := by decide

theorem meets_MasksReturnAndTheFrameOfABeat :
    (∀ x ∈ twoLanes, x.1 < 64) ∧ (twoLanes.map (·.1)).Nodup ∧ r156.ownerHalted (.inr (.fret r156.key r156.fl.edge 0)) = false
      ∧ (({ dst := .mask, imm := 7 } : SOp).dst = .mask ∧ ({ dst := .mask, imm := 7 } : SOp).imm.toNat % 8 ≠ 0)
      ∧ ({ dst := .seq } : SOp).dst = .seq
      ∧ ((atBeatOf 0 { r156 with ctx := { r156.ctx with flight := some { aFlight with fmt := 4 } } }).fl.fmt.getLsbD 2 = false
        ∨ ({ r156 with ctx := { r156.ctx with flight := some { aFlight with fmt := 4 } } }).fl.fmt.getLsbD 2 = true)
      ∧ ∃ x ∈ twoLanes, x.2.p = true := by decide

/-- No neighbour to the west; and an eastern neighbour whose result register no slot has written. -/
theorem meets_NeighbourTagsAreChecked :
    (∃ F, laneForm (.add .i16 nbrOp) r156.fl.fmt = some F ∧ F.o.a = .nbr .west 0)
      ∧ neighbour r156.ctx.region r156.ctx.row r156.ctx.col .west = none
      ∧ (neighbour r156.ctx.region r156.ctx.row r156.ctx.col .east = some 1
        ∧ ((r156.elem 1).resView r156.cycle).2 ≠ some (r156.ctx.slot, 0)) :=
  ⟨⟨_, rfl, rfl⟩, by decide, by decide, by decide⟩

theorem meets_BeatFaultsArePrecise :
    (let s := { aState (trapSlot 0x800000000000000F 0) with ctx := { flight := some aFlight } };
      s.ctx.flight = some aFlight ∧ s.me.bound = true ∧ s.me.ended = false ∧ s.me.awaiting s.cycle = false
        ∧ causeClass 17 ≠ .T ∧ HandlerReady s s.key ∧ (∀ x ∈ s.undo, ¬ (x.key = 0 ∧ 16 ≤ x.edge)) ∧ s.ctx.failed = false
        ∧ s.cycle ≤ aFlight.edge + 27 ∧ causeClass 51 ≠ .T ∧ 17 ∉ [51, 52, 54, 96] ∧ 96 ∈ [51, 52, 54, 96]) :=
  ⟨by decide, by decide, by decide, by decide, by decide, ⟨by decide, by decide, by decide⟩, by decide, by decide, by decide, by decide,
    by decide, by decide⟩

end Sys2Proof.Tests
end

