-- ==== Sys2Proof/Tests/WitnessesSites.lean ====
section
/-! SUPPORT. For each statement about sites, windows and tiles with hypotheses: a state and operands that meet them, clause by clause, at the
ends of the ranges where the clauses meet. -/

namespace Sys2Proof.Tests

open Sys2Proof Sys2Proof.Machine

/-! ## Schedule words: sites, channels, windows, requests -/

/-- A copy with the site and a pinned range that holds two of its lines. -/
def winCopy (x : Site) : Copy := { aCopy [(3, x)] with pins := [(0x1000, 512, true)], windows := [(1, 4, 0)] }

/-- A beat of a word on site 3, at an address, with the class of the bank's entry. -/
def siteBeat (x : Site) (base : Word) (cls : Nat) (tag : Option (Nat × Nat) := none) : State :=
  { aState aSlot with
    ctx := { flight := some { aFlight with base := base } }
    regions := [(0, { copies := [winCopy x] })]
    elems := [(0, { slotTable := (List.range 16).map fun i => (i, cls), tag := tag })]
    clusters := [(0, { launch := some 0 })] }

def siteOp : SOp := { dst := .g 3, a := .g 1, imm := 0x0003, win := 1 }

theorem meets_BankLoadsReadTheShare :
    (let s := siteBeat aSite 0 1 (some (0, 3));
      0 < (s.share siteOp).se ∧ s.tagOk siteOp.a = true ∧ s.tagOk siteOp.b = true ∧ s.ecc = []
        ∧ laneAdmitted s false ∧ laneAdmitted s true ∧ (∃ c, s.el.tag = some (s.ctx.slot, c))
        ∧ ¬ s.fl.fmt.getLsbD 2 = true)
      ∧ (laneAdmitted (siteBeat aSite 0 0) false ∧ ¬ laneAdmitted (siteBeat aSite 0 0) true)
      ∧ (¬ laneAdmitted (siteBeat aSite 0 2) false)
      ∧ (∀ c, (siteBeat aSite 0 1).el.tag ≠ some ((siteBeat aSite 0 1).ctx.slot, c))
      ∧ (let s := { siteBeat aSite 0 1 with
                    ctx := { flight := some { aFlight with fmt := 4 } }
                    elems := [(0, { tag := some (0, 3), res := [(0, { p := true })] })] };
        s.fl.fmt.getLsbD 2 = true ∧ ∃ i ∈ s.enabled siteOp, (resLane s.el s.el.res i).p = true)
      ∧ ([(0, (1 : LaneWord)), (7, 2)].map (·.1)).Nodup := by
  refine ⟨⟨by decide, by decide, by decide, by decide, Or.inl (by decide), Or.inl (by decide), ⟨3, by decide⟩, by decide⟩,
    ⟨Or.inr (by decide), ?_⟩, ?_, ?_, ⟨by decide, 0, by decide, by decide⟩, by decide⟩
  · rintro (h | ⟨_, h⟩)
    · exact absurd h (by decide)
    · exact absurd h (by decide)
  · rintro (h | ⟨h, _⟩)
    · exact absurd h (by decide)
    · exact absurd h (by decide)
  · intro c
    simp [siteBeat, State.el, State.elem, look]

theorem meets_BankStoresWriteTheShare :
    (let s := siteBeat aSite 0 0 (some (0, 3));
      0 < (s.share siteOp).se ∧ s.readFault siteOp (s.bankReads siteOp true false) = none ∧ s.ecc = [] ∧ laneAdmitted s false
        ∧ s.fl.fmt.getLsbD 2 = false ∧ (∃ c, s.el.tag = some (s.ctx.slot, c)) ∧ (s.siteRec siteOp).slip = 0 ∧ (s.siteRec siteOp).fill < 2)
      ∧ (let s := { siteBeat aSite 0 1 with
                    ctx := { flight := some { aFlight with fmt := 4 } }
                    elems := [(0, { regs := [(regKey 0 1 0, { p := true })] })] };
        s.fl.fmt.getLsbD 2 = true ∧ ∃ i ∈ s.enabled siteOp, (s.laneA siteOp 0 i).p = true)
      ∧ 2 ≤ ((siteBeat { aSite with fill := 2 } 0 0).siteRec siteOp).fill
      ∧ (((siteBeat { aSite with fill := 2, slip := 1 } 0 0).siteRec siteOp).slip ≠ 0 ∧ Live (siteBeat { aSite with fill := 2, slip := 1 } 0 0))
      ∧ ([(0, (1 : Byte)), (0, 2)] = [] ++ (0, (1 : Byte)) :: [(0, 2)] ∧ (0 : Nat) ∈ [(0, (2 : Byte))].map (·.1)
        ∧ [(0, (1 : Byte)), (0, 2)] = [(0, (1 : Byte))] ++ (0, 2) :: [] ∧ (0 : Nat) ∉ ([] : List (Nat × Byte)).map (·.1)) :=
  ⟨⟨by decide, by decide, by decide, Or.inr (by decide), by decide, ⟨3, by decide⟩, by decide, by decide⟩,
    ⟨by decide, 0, by decide, by decide⟩, by decide, ⟨by decide, by decide, by decide⟩, by decide⟩

/-- A byte merged into the storer's own buffer and, with its granule's tag, into the line of the other member of its group. -/
def slipSite : Site := { aSite with fill := 2, slip := 1 }
def mergeState : State :=
  { aState aSlot [(3, slipSite)] with elems := [(0, { tags := [(granKey 3 0 0, { space := 0, off := 0x1000 })] })] }
theorem meets_BankStoresWriteTheShare_merge :
    (let c := mergeState.copy (elemRegion 0) 1;
      let x : Site := look {} c.sites 3;
      (∃ b ∈ [(5, some ({ space := 0, off := 0x1000 } : GTag), (9 : Byte))], b.2.2 = 9 ∧ (0 : Nat) = 0 ∧ 5 = (shareOf x 0).off + b.1)
        ∧ x.slip ≠ 0 ∧ (∃ m ∈ c.sites, m.2.slip = x.slip ∧ m.2.banks.getLsbD (0 % 16) = true
          ∧ ∃ g ∈ (mergeState.elem 0).tags, g.2 = { space := 0, off := 0x1000 } ∧ g.1 / 256 / 4096 = m.1
            ∧ 5 = (shareOf m.2 0).off + g.1 / 256 % 4096 * 4 * (shareOf m.2 0).lw + g.1 % 256 * 64 + 5 % 64)) := by decide

/-- A beat held for channel 7, from an element to the one under way. -/
def heldBeat : ChanBeat :=
  { id := 0, region := 0, chan := 7, slot := 0, launch := 0, gen := 1, src := 1, dst := 0, lanes := [some {}], arrive := 16, held := true }

/-- A beat on channel 7, with the clusters of its route open at every port, whatever route the compiler chose. -/
def openRoute : State :=
  let s := siteBeat aSite 0 1
  let x := s.launch 0
  { s with
    beats := [heldBeat]
    serial := 1
    clusters := (Config.channelRoute 48 7).map fun h => (pageCluster x (s.copy x.region 1) h.page, { seams := 0xF }) }

theorem open_look {xs : List Config.Hop} {f : Config.Hop → Nat} :
    ∀ h ∈ xs, look ({} : Cluster) (xs.map fun g => (f g, ({ seams := 0xF } : Cluster))) (f h) = { seams := 0xF } := by
  induction xs with
  | nil => exact fun h m => nomatch m
  | cons g xs ih =>
    intro h m
    simp only [List.map_cons, look]
    split
    · rfl
    · rename_i ne
      rcases List.mem_cons.mp m with rfl | m
      · exact absurd rfl ne
      · exact ih h m

theorem meets_ChannelsCarryBeats :
    (let s := openRoute;
      let o : SOp := { siteOp with imm := 7 };
      s.readFault o (s.laneReads o false false) = none ∧ s.readFault o s.maskReads = none
        ∧ (s.launch s.fl.launch).halted = false ∧ (∀ b ∈ s.beats, b.id < s.serial)
        ∧ s.beats.find? (fun b => b.region == s.ctx.region && b.launch == s.fl.launch && b.chan == 7 && b.held) = some heldBeat)
      ∧ (siteBeat aSite 0 1).beats.find? (fun b => b.region == 0 && b.launch == 0 && b.chan == 7 && b.held) = none := by
  refine ⟨⟨rfl, rfl, rfl, ?_, rfl⟩, rfl⟩
  intro b hb
  cases List.mem_singleton.mp hb
  exact Nat.zero_lt_one

/-- Each port of the route stitched; and, of a route with a first port, that port closed. -/
theorem meets_ChannelsCarryBeats_route :
    (∀ h ∈ Config.channelRoute 48 7, (!(openRoute.cluster (pageCluster (openRoute.launch 0)
        (openRoute.copy (openRoute.launch 0).region 1) h.page)).seams.getLsbD h.port.val) = false)
      ∧ ∀ h rest, Config.channelRoute 48 7 = h :: rest → (Config.channelRoute 48 7).zipIdx = [] ++ (h, 0) :: rest.zipIdx 1
        ∧ (!(({ openRoute with clusters := [] } : State).cluster (pageCluster (openRoute.launch 0)
          (openRoute.copy (openRoute.launch 0).region 1) h.page)).seams.getLsbD h.port.val) = true := by
  refine ⟨fun h m => ?_, fun h rest e => ⟨by rw [e]; rfl, by simp [State.cluster, look]⟩⟩
  have e : openRoute.cluster (pageCluster (openRoute.launch 0) (openRoute.copy (openRoute.launch 0).region 1) h.page) = { seams := 0xF } :=
    open_look (f := fun h : Config.Hop => pageCluster (openRoute.launch 0) (openRoute.copy (openRoute.launch 0).region 1) h.page) h m
  rw [e]
  have : ∀ p : Fin 4, (!(0xF#4).getLsbD p.val) = false := by decide
  exact this h.port

/-- The sender's cluster of a channel, fenced or not, wherever the route has it. -/
theorem meets_ChannelsCarryBeats_fence :
    (∀ n, ((siteBeat aSite 0 1).cluster (n / 16)).shut = false)
      ∧ ∀ n, ({ siteBeat aSite 0 1 with clusters := [(n / 16, { shut := true })] }.cluster (n / 16)).shut = true := by
  refine ⟨fun n => ?_, fun n => ?_⟩
  · simp only [siteBeat, aState, State.cluster, look]
    split <;> rfl
  · simp [State.cluster, look]

theorem meets_WindowsOpenOnTheFirstBeat :
    (let s := siteBeat aSite 0x1000 1;
      0 < (s.share siteOp).le ∧ s.winFault siteOp (s.fillReads siteOp) false [] = none ∧ s.fl.beat = 0 ∧ (s.siteRec siteOp).slip = 0
        ∧ s.el.freeEntry = some 0 ∧ (s.launch s.fl.launch).halted = false
        ∧ ∀ op ∈ [0, 10], s.winFault siteOp (s.atomReads siteOp op) true (s.atomSinks siteOp op) = none)
      ∧ (atomOf (.atomCas siteOp)).isSome = true
      ∧ (let s := atBeatOf 1 (siteBeat aSite 0x1000 1);
        s.winFault siteOp (s.fillReads siteOp) false [] = none ∧ s.fl.beat ≠ 0)
      ∧ (let s := { siteBeat aSite 0x1000 1 with elems := [(0, { landing := (List.range 4).map fun i => (i, { isOpen := true }) })] };
        s.winFault siteOp (s.fillReads siteOp) false [] = none ∧ s.el.freeEntry = none)
      ∧ (let s := siteBeat aSite 0x1140 1;
        s.readFault siteOp (s.fillReads siteOp) = none ∧ s.fl.beat = 0
          ∧ s.spanOk (s.siteRec siteOp) (lineAt s siteOp) (4 * (s.share siteOp).lw) false = false)
      -- the line's first slice has neither an entry of the class nor SPARE
      ∧ (let s := { siteBeat aSite 0x1000 1 with slices := [(sliceOf 0x1000, { slots := 0 })] };
        s.spanOk (s.siteRec siteOp) (lineAt s siteOp) (4 * (s.share siteOp).lw) false = true
          ∧ (List.range ((4 * (s.share siteOp).lw + 63) / 64)).map (lineAt s siteOp / 64 + ·) = [] ++ 64 :: [65, 66, 67]
          ∧ (∀ k < 16, (s.slice (sliceOf (64 * 64))).slots.toNat / 4 ^ k % 4 = 0)
          ∧ (if (s.siteRec siteOp).fill = 3 then 0 else 2) = 2) := by decide

/-- A store with write-back: the site FILL 2, its first line tagged, its base as given. -/
def storeBeat (base : Word) : State :=
  { siteBeat { aSite with fill := 2 } 0x1000 1 with
    ctx := { flight := some { aFlight with base := base } }
    elems := [(0, { tags := (List.range 4).map fun g => (granKey 3 0 g, { space := 0, off := 0x1000 + 64 * g }) })] }

theorem meets_StoresQueueTheirWriteBack :
    (let s := storeBeat 0x2000000000001000;
      0 < (s.share siteOp).le ∧ s.winFault siteOp (s.laneReads siteOp false false) true ((s.enabled siteOp).map fun i => s.laneA siteOp 0 i) = none ∧ Live s
        ∧ (s.launch s.fl.launch).halted = false ∧ s.accs = []
        ∧ (s.el.lineTags 3 0).map (·.2) = lineTagsAt (s.share siteOp) 0x1000 ∧ s.fl.base.toNat / 2 ^ 60 ≠ 0)
      ∧ (storeBeat 0x1000).fl.base.toNat / 2 ^ 60 = 0
      ∧ (let s := siteBeat { aSite with fill := 2 } 0x1140 1;
        s.readFault siteOp (s.laneReads siteOp false false) = none ∧ s.fl.beat = 0 ∧ s.fl.fmt.getLsbD 2 = false
          ∧ s.spanOk (s.siteRec siteOp) (lineAt s siteOp) (4 * (s.share siteOp).lw) true = false) :=
  ⟨⟨by decide, by decide, ⟨by decide, by decide⟩, by decide, by decide, by decide, by decide⟩, by decide, by decide⟩

/-- A request packet in lanes 0 to 3 of g1, with lane 3's high bits as given, and mask m1 over those lanes. -/
def packetBeat (hi : LaneWord) (y : Handle) (reqs : List Req := []) : State :=
  { aBeat [(1, 3, hi)] with
    regions := [(0, { copies := [aCopy []], handles := [(1, y)] })]
    elems := [(0, { regs := [(regKey 0 1 3, Lane.clean hi)], masks := [(1, 0xF)] })]
    reqs := reqs }
def packetOp : SOp := { dst := .xfer, a := .g 1, predMask := 1, imm := 0 }
def aReq : Req := { id := 0 }

theorem meets_RequestsAreAcceptedWhole :
    (let s := packetBeat 0x00400000 {};
      s.readFault packetOp (s.laneReads packetOp false false) = none ∧ s.readFault packetOp s.maskReads = none ∧ s.ecc = [] ∧ s.enabled packetOp = [0, 1, 2, 3]
        ∧ (∀ i < 4, (s.laneA packetOp 0 i).p = false)
        ∧ (let p : BitVec 128 := (s.laneA packetOp 0 3).v ++ (s.laneA packetOp 0 2).v ++ (s.laneA packetOp 0 1).v ++ (s.laneA packetOp 0 0).v;
          p.toNat / 2 ^ 124 = 0 ∧ pktOk s.flCopy p 0 = true ∧ p.toNat / 2 ^ 118 % 64 = 1)
        ∧ (s.handle 0 1).st = .free
        ∧ (s.reqs.filter fun r => r.slice == 0 && r.port == 0 && r.st == .queued).length < 64)
      ∧ (let s := packetBeat 0x00720000 {};
        let p : BitVec 128 := (s.laneA packetOp 0 3).v ++ (s.laneA packetOp 0 2).v ++ (s.laneA packetOp 0 1).v ++ (s.laneA packetOp 0 0).v;
        p.toNat / 2 ^ 124 = 0 ∧ pktOk s.flCopy p 0 = false)
      ∧ ((packetBeat 0x00400000 { st := .full }).handle 0 1).st ≠ .free
      ∧ ¬ (((packetBeat 0x00400000 {} (List.replicate 64 aReq)).reqs.filter fun r => r.slice == 0 && r.port == 0 && r.st == .queued).length < 64) := by
  decide

/-- Two packets in lanes 0 to 7, their lanes 3 and 7 as given. -/
def twoPackets (x y : LaneWord) (n : Nat := 0) : State :=
  { aBeat [] with
    regions := [(0, { copies := [aCopy []] })]
    elems := [(0, { regs := [(regKey 0 1 3, Lane.clean x), (regKey 0 1 7, Lane.clean y)], masks := [(1, 0xFF)] })]
    reqs := List.replicate n aReq }
theorem meets_RequestsAreAcceptedWhole_two :
    (let s := twoPackets 0x00400000 0x00800000;
      let pk (g : Nat) : BitVec 128 := (s.laneA packetOp 0 (4 * g + 3)).v ++ (s.laneA packetOp 0 (4 * g + 2)).v ++ (s.laneA packetOp 0 (4 * g + 1)).v
        ++ (s.laneA packetOp 0 (4 * g)).v;
      s.enabled packetOp = List.range 8 ∧ (∀ i < 8, (s.laneA packetOp 0 i).p = false)
        ∧ (∀ g < 2, (pk g).toNat / 2 ^ 124 = 0 ∧ pktOk s.flCopy (pk g) 0 = true ∧ (pk g).toNat / 2 ^ 118 % 64 = g + 1
          ∧ (s.handle 0 (g + 1)).st = .free)
        ∧ s.reqs.length < 63)
      ∧ (twoPackets 0x00400000 0x00800000 63).reqs.length = 63
      ∧ (let s := twoPackets 0x00400000 0x00720000;
        ((s.laneA packetOp 0 7).v ++ (s.laneA packetOp 0 6).v ++ (s.laneA packetOp 0 5).v ++ (s.laneA packetOp 0 4).v).toNat / 2 ^ 124 = 0
          ∧ pktOk s.flCopy ((s.laneA packetOp 0 7).v ++ (s.laneA packetOp 0 6).v ++ (s.laneA packetOp 0 5).v ++ (s.laneA packetOp 0 4).v) 0 = false) := by
  decide

/-! ## Schedule words: the matrix array -/

/-- A cluster whose other fifteen elements have given their lanes of the word under way. -/
def fedBeat (feed : List FStep) (seen : List Nat) : State :=
  { aBeat [] with clusters := [(0, { launch := some 0, feed := feed, fwords := [{ serial := (aBeat []).fl.wordId, seen := seen, total := 8 }] })] }
def fedOp : SOp := { dst := .feed, a := .g 1, imm := 0x1000 }
def aStep : FStep :=
  { ready := none, queuedAt := 0, tile := 0, ty := .i8, pack := 1, region := 0, slot := 0, launch := 0, word := 77, index := 0, line := 0,
    vals := [], scales := [] }

/-- The word as the beat under way leaves it, before its steps are queued. -/
def fedWord (s : State) : FWord :=
  let w0 : FWord := ((s.cluster 0).fwords.find? (·.serial == s.fl.wordId)).getD { serial := 0 }
  { w0 with lanes := putAll w0.lanes ((s.feedLanes .i8).map fun i => (i, s.laneA fedOp 0 i)),
            seen := if w0.seen.contains 0 then w0.seen else 0 :: w0.seen }

theorem meets_MatrixOperandsAreBuffered :
    ((∀ t, (fedBeat [] []).readFault fedOp ((fedBeat [] []).feedReads t) = none) ∧ (fedWord (fedBeat [] [])).seen.length < 16)
      ∧ (let s := fedBeat [] ((List.range 15).map (· + 1));
        16 ≤ (fedWord s).seen.length ∧ (s.queueBeat .i8 fedOp (fedWord s)).isSome = true)
      ∧ (let s := fedBeat (List.replicate 16 aStep) ((List.range 15).map (· + 1));
        16 ≤ (fedWord s).seen.length ∧ s.queueBeat .i8 fedOp (fedWord s) = none)
      ∧ (63 < 64 ∧ 0 < 1)
      ∧ (r156.readFault r156Op (r156.laneReads r156Op false false) = none ∧ r156.enabled r156Op = 0 :: [1, 2, 3, 4, 5, 6, 7])
      ∧ (r156.enabled { r156Op with predNeg := true } = []
        ∧ r156.readFault { r156Op with predNeg := true } (r156.laneReads { r156Op with predNeg := true } false false) = none)
      ∧ (r156.readFault { imm := 3 } r156.maskReads = none ∧ r156.noteFirst.tileBusy 3 = false)
      ∧ (let s := { r156 with clusters := [(0, { zeroed := [(3, (List.range 15).map (· + 1))] })] };
        15 ≤ (look [] (s.cluster 0).zeroed 3).length ∧ 0 ∉ look [] (s.cluster 0).zeroed 3) :=
  ⟨⟨fun t => by cases t <;> rfl, by decide⟩, by decide, by decide, by decide, by decide, by decide, by decide, by decide⟩

/-- Steps that wait for their scales and steps that do not; a line of the weight buffer that the beat completes, or does not. -/
theorem meets_MatrixOperandsAreBuffered_more :
    ((fedWord (fedBeat [] ((List.range 15).map (· + 1)))).dead = false
        ∧ (∀ l ∈ (none : Option Nat), l < 8 * (0 + 1)) ∧ ¬ (∀ l ∈ some 32, l < 8 * (0 + 1)) ∧ (∀ l ∈ some 16, l < 8 * (2 + 1)))
      ∧ (let before (x : Nat × BitVec 16) (l : Nat) : Bool := x.1 == r156.fl.wordId + 1 && x.2.getLsbD l;
        (∀ l < 16, before (r156.fl.wordId + 1, 0xFF00) l = true ∨ ∃ i ∈ r156.enabled r156Op, i % 16 = l)
          ∧ (∃ l < 16, before (r156.fl.wordId + 1, 0xFF00) l = false)
          ∧ (∃ l < 16, before (0, 0) l = false ∧ ∀ i ∈ r156.enabled r156Op, i % 16 ≠ l)
          ∧ ∀ i ∈ r156.enabled r156Op, (r156.laneA r156Op 0 i).p = false) := by decide

def drainOp : SOp := { dst := .g 3, fold := 7, imm := 3 }

/-- Four clusters of a quad, with the descriptor of a joint operation in lane 0 of g1. -/
def quadBeat (d : LaneWord) : State :=
  { aBeat [(1, 0, d)] with regions := [(0, { copies := [{ aCopy [] with quad := true, pcol := 2, prow := 2 }] })] }

theorem meets_MatrixResultsLeaveTheTile :
    (r156.readFault drainOp r156.maskReads = none ∧ r156.noteFirst.tileBusy 3 = false ∧ r156.ecc = []
        ∧ r156.flCopy.accprot = false ∧ r156.fl.beat = 0 ∧ drainOp.fold.val ≠ 0)
      ∧ ((atBeatOf 7 r156).readFault drainOp (atBeatOf 7 r156).maskReads = none ∧ (atBeatOf 7 r156).ecc = []
        ∧ (atBeatOf 7 r156).flCopy.accprot = false ∧ (atBeatOf 7 r156).fl.beat ≠ 0 ∧ (atBeatOf 7 r156).noteFirst.tileBusy 3 = false ∧ (atBeatOf 7 r156).fl.beat = drainOp.fold.val)
      ∧ (let s := { r156 with ecc := [(.tile 0 (4096 * 3 + 5), .single)] };
        s.readFault drainOp s.maskReads = none ∧ s.noteFirst.tileBusy 3 = false ∧ (s.cluster 0).chk = none
          ∧ s.flCopy.accprot = false ∧ ∀ e ∈ s.ecc, e.2 = .single)
      ∧ (let s := { r156 with clusters := [(0, { feed := [{ aStep with tile := 3 }] })] };
        s.noteFirst.tileBusy 3 = true ∧ s.readFault drainOp s.maskReads = none ∧ s.readFault drainOp (s.joinReads drainOp) = none)
      ∧ (let s := quadBeat 0x3000;
        s.readFault { a := .g 1 } (s.joinReads { a := .g 1 }) = none ∧ s.noteFirst.tileBusy 0 = false ∧ s.memberOf s.fl.launch 0 = some (0, 0)
          ∧ s.ctx.elem % 16 = 0 ∧ (look (0, 0) (s.launch s.fl.launch).joins 0).1 ≠ s.fl.wordId + 1
          ∧ (0#16).getLsbD 2 = false ∧ (s.laneA { a := .g 1 } 0 0).v.toNat < 2 ^ 24 ∧ (s.launch s.fl.launch).halted = false
          ∧ ∀ j ∈ s.joins, j.id ≠ 8 * s.fl.wordId + 0)
      ∧ (atElem 5 1 1 (quadBeat 0)).ctx.elem % 16 ≠ 0 := by decide

/-- Tile 3 with one row checksum wrong, a row and a column alike, and two rows; one word of it with a double-bit error. -/
def sumState (sums : List (Nat × LaneWord)) : State :=
  { r156 with
    clusters := [(0, { launch := some 0, sums := sums })]
    regions := [(0, { copies := [{ aCopy [] with accprot := true }] })] }
theorem meets_MatrixResultsLeaveTheTile_sums :
    (let s := sumState [(128 * 3 + 5, 7)];
      s.readFault drainOp s.maskReads = none ∧ s.noteFirst.tileBusy 3 = false ∧ s.flCopy.accprot = true ∧ (s.cluster 0).chk = none
        ∧ s.fl.beat = 0 ∧ look false (s.cluster 0).drained 3 = false
        ∧ sumsOff (s.cluster 0) 3 0 = [5] ∧ sumsOff (s.cluster 0) 3 1 = [])
      ∧ (let s := sumState [(128 * 3 + 5, 7), (128 * 3 + 64 + 9, 7)];
        sumsOff (s.cluster 0) 3 0 = [5] ∧ sumsOff (s.cluster 0) 3 1 = [9])
      ∧ (let s := sumState [(128 * 3 + 5, 7), (128 * 3 + 6, 7)];
        sumsOff (s.cluster 0) 3 0 = [5, 6])
      ∧ (let s := { r156 with ecc := [(.tile 0 (4096 * 3 + 5), .double)] };
        s.readFault drainOp s.maskReads = none ∧ s.noteFirst.tileBusy 3 = false ∧ s.flCopy.accprot = false
          ∧ (4096 * 3 + 5) / 4096 = 3 ∧ (4096 * 3 + 5) % 4096 / 256 = s.ctx.elem % 16 ∧ (4096 * 3 + 5) % 64 / 16 = drainOp.imm.toNat / 4 % 4) := by
  decide +kernel

/-- A joint operation with `od` of three planes under handle 0, its line with the form of three planes; a bad descriptor. -/
def odOp : SOp := { a := .g 1, imm := 0x204 }
theorem meets_MatrixResultsLeaveTheTile_od :
    (let s := { quadBeat 0x3000 with clusters := [(0, { launch := some 0, wlines := [(0, { tag := some (.bp 1, false) })] })] };
      s.readFault odOp (s.joinReads odOp) = none ∧ s.noteFirst.tileBusy 0 = false ∧ s.memberOf s.fl.launch 0 = some (0, 0) ∧ odOp.imm.getLsbD 2 = true
        ∧ (s.laneA odOp 0 0).v.toNat < 2 ^ 24 ∧ (s.laneA odOp 0 1).v.toNat < 2 ^ 11
        ∧ ((s.cluster 0).wline ((s.laneA odOp 0 0).v.toNat % 2 ^ 12)).tag = some (.bp 1, false) ∧ odOp.imm.toNat / 2 ^ 9 % 8 + 2 = 3)
      ∧ (let s := quadBeat 0x1000000;
        s.readFault odOp (s.joinReads odOp) = none ∧ s.noteFirst.tileBusy 0 = false ∧ s.memberOf s.fl.launch 0 = some (0, 0)
          ∧ ¬ (s.laneA odOp 0 0).v.toNat < 2 ^ 24 ∧ s.me.bound = true ∧ s.me.ended = false) := by decide

end Sys2Proof.Tests
end

