-- ==== Sys2Proof/Tests/WitnessesLaunch.lean ====
section
/-! SUPPORT. For each statement about launches with hypotheses: a state and operands that meet them, clause by clause, at the
ends of the ranges where the clauses meet. -/

namespace Sys2Proof.Tests

open Sys2Proof Sys2Proof.Machine

/-! ## Launches and their machinery -/

/-- Port 3 as given, with launch 5 in its open stream. -/
def portState (y : Port) (x : Launch) : State := { State.reset with ports := [(3, y)], launches := [(5, x)], cycle := 16 }
def openPort : Port := { stream := some 5, seq := 2 }
def aTok (len : BitVec 8) : Token := { port := 3, seq := 2, len := len }

/-- An open launch on port 3 that has its parameters. -/
def openLaunch : Launch := { port := 3, gotParam := true }

theorem inPlace_open (y : Launch) (len : BitVec 8) (h : y.host = .A) : InPlace (portState openPort y) (aTok len) 5 :=
  ⟨rfl, h, rfl⟩

theorem meets_TokensMakeALaunch :
    (let p : Port := { queue := List.replicate 64 9 };
      (64 ≤ p.queue.length ∧ p.stream = none) ∧ ((portState {} {}).port 3).queue.length < 64 ∧ ((portState {} {}).port 3).stream = none
        ∧ ({ aTok 56 with seq := 0 } : Token).seq = 0 ∧ (portState {} {}).anyCopy 7 = false ∧ (aTok 56).seq ≠ 0)
      ∧ (∀ l, ¬ InPlace (portState {} {}) (aTok 56) l)
      ∧ (InPlace (portState openPort {}) (aTok 56) 5 ∧ InPlace (portState openPort openLaunch) (aTok 1) 5
        ∧ InPlace (portState openPort openLaunch) (aTok 0) 5)
      ∧ (openLaunch.units < 2 ^ 24 ∧ openLaunch.openRsv = false ∧ openLaunch.block.toNat % 2 ^ 82 = 0 ∧ saggarOf openLaunch ≠ 0xFFF
        ∧ (openLaunch.argv = false ∧ openLaunch.hasData = false) ∧ openLaunch.status ≠ 2)
      ∧ (let x : Launch := { openLaunch with block := 0x40000000e00000000000000000000000000000000000000000000000000000000000000000000000000000000000000000000000#448, hasData := true, data := List.replicate 56 0 };
        x.argv = true ∧ x.data.length = x.argLen)
      ∧ 2 ^ 24 ≤ ({ openLaunch with block := 0x100000000000000000000000000000000000000000000000000000000000000000000000000000000000000000000000000000000000000#448 } : Launch).units
      ∧ ({ openLaunch with openRsv := true } : Launch).openRsv ≠ false
      ∧ (∀ g ∈ [LStage.closed, .waiting, .placed], ((portState {} { stage := g }).launch 5).stage = g ∧ ((portState {} { stage := g }).launch 5).armed = false)
      ∧ ((portState {} {}).launch 5).stage = .open ∧ ((portState {} { stage := .placed, armed := true }).launch 5).armed = true
      ∧ (0x40000000#32).toNat / 2 ^ 28 % 4 = (0#32).toNat / 2 ^ 30 ∧ (0x40000000#32).toNat / 2 ^ 30 = 1
      ∧ (0x50000000#32).toNat / 2 ^ 28 % 4 ≠ (0#32).toNat / 2 ^ 30 := by
  refine ⟨by decide, ?_, ⟨inPlace_open _ _ rfl, inPlace_open _ _ rfl, inPlace_open _ _ rfl⟩, by decide⟩
  rintro l ⟨h, _, _⟩
  simp [State.port, portState, look, aTok] at h

/-- A code object of one page and one kernel of two `halt` words: header, directory, and sections 1, 2, 3 and 7. -/
def objBytes : List Byte := bytesOf 0x2c400000002c40000000000000000000000000000000000000000000000000000000000000000000000000000000000000000000000000000000021000200000000000000000000100000700000000000000000000d000000000030000000000000a000000c00000000002000000000000280000009000000000010000000000001000000080000000004f424b4400010000000000000000000000000000000000000000000000000007000000010000410000040000000000000000000000000000000000005dcea35d 208

def comes : Except Blame (Option (State × Nat)) → Bool
  | .ok (some _) => true
  | _ => false

theorem comes_spec {x : Except Blame (Option (State × Nat))} (h : comes x = true) : ∃ u gen, x = .ok (some (u, gen)) := by
  match x with
  | .ok (some (u, g)) => exact ⟨u, g, rfl⟩

/-- A closed launch that waits on load 0 of that object. -/
def loadState (fresh : Bool) : State :=
  { State.reset with
    launches := [(0, { aLaunch with stage := .closed, gotParam := true, load := some 0, region := 63, gen := 0, slots := [], armed := false })]
    loads := [{ id := 0, region := 5, len := 208, launch := 0, fresh := fresh }] }

/-- A copy of generation 1 in region 0, and a closed launch at the head of port 0 that can bind it. -/
def headState (x : Launch) (c : Copy) : State :=
  { State.reset with
    launches := [(0, x)], ports := [(0, { queue := [0] })]
    regions := [(0, { copies := [c], lastGen := 1 })] }
def headLaunch : Launch :=
  { stage := .closed, gotParam := true, argChecked := true, block := 0x100000000000000000000000000000000000000000000000000000000000000000000000000000000000000000000000000000000#448 }
def bindable : Copy := { aCopy [(3, { aSite with life := 2 })] with ident := 0 }

theorem meets_LaunchesAreLoadedAndPlaced :
    (∃ u gen, State.reset.loadInto (objOf objBytes) 0 7 0 none none = .ok (some (u, gen)))
      ∧ ((loadState true).loads.find? (fun d => d.id == 0 && !d.phase) = some { id := 0, region := 5, len := 208, launch := 0 }
        ∧ (loadState true).waitingOn 0 = [0] ∧ ((loadState true).launch 0).stage = .closed ∧ ((loadState true).launch 0).gotParam = true
        ∧ (loadState true).bindings 0 (saggarOf ((loadState true).launch 0)) = []
        ∧ objBytes.length = 208 ∧ (∀ c ∈ [(objOf objBytes).step1, (objOf objBytes).step2, (objOf objBytes).step3, (objOf objBytes).step4], c = (none : Option Blame))
        ∧ (objOf objBytes).storeBytes ≤ 2 ^ 21 ∧ (loadState true).loadRegion (objOf objBytes).storeBytes = some 0)
      ∧ (∃ u gen, (loadState true).loadInto (objOf objBytes) 0 0 (saggarOf ((loadState true).launch 0)) none none = .ok (some (u, gen)))
      ∧ (∃ u gen, (loadState false).loadInto (objOf objBytes) 5 0 (saggarOf ((loadState false).launch 0)) none none = .ok (some (u, gen)))
      ∧ (let s := headState { headLaunch with argChecked := false } bindable;
        (s.launch 0).stage = .closed ∧ (s.launch 0).argChecked = false
          ∧ s.bindings (s.launch 0).ident (saggarOf (s.launch 0)) = [(0, 1)] ∧ (s.launch 0).argv = false
          ∧ (s.copy 0 1).sites.find? (·.1 == 3) = some (3, { aSite with life := 2 }) ∧ siteBytes { aSite with life := 2 } = 512)
      ∧ (let s := headState headLaunch bindable;
        s.nextHead = some 0 ∧ s.placeAct 0 = .place 0 0 0 ∧ s.shapeOf 0 = some bindable
          ∧ ∀ d ∈ (s.region 0).copies, relFits { s.launch 0 with region := 0, cc0 := 0, cr0 := 0 } d = true) := by
  refine ⟨comes_spec (by decide +kernel), by decide +kernel, comes_spec (by decide +kernel), comes_spec (by decide +kernel), by decide, by decide +kernel⟩

/-- A region that holds the object's copy by the load's end, and one that does not; a launch of a patched copy's saggar. -/
theorem meets_LaunchesAreLoadedAndPlaced_twin :
    (let c : Copy := { aCopy [] with ident := 7, bindable := true };
      c.bindable = true ∧ c.ident = 7 ∧ c.saggar = (if (objOf objBytes).patches = [] then none else some 0))
      ∧ (∀ c ∈ ((loadState false).region 5).copies, ¬ c.bindable = true)
      ∧ (let s := headState { headLaunch with argChecked := false } { bindable with saggar := some (saggarOf headLaunch) };
        (s.copy 0 1).saggar ≠ none ∧ s.bindings (s.launch 0).ident (saggarOf (s.launch 0)) = [(0, 1)])
      ∧ (headState { headLaunch with argChecked := false } bindable).copy 0 1 = bindable := by decide

/-- A launch in region 0 that one move would let the head of port 0 be placed: it stands on the second column, every other region
holds a page on its second column, and the head needs six columns. -/
def crowdedState : State :=
  { State.reset with
    launches := [(0, aLaunch), (1, { headLaunch with ident := 2 })]
    ports := [(0, { queue := [1] })]
    slots := [(0, aSlot)]
    clusters := (List.range 48).map fun r => (28 * r + 1, ({ launch := some (if r = 0 then 0 else 9) } : Cluster))
    regions := [(0, { copies := [aCopy [], { aCopy [] with gen := 2, ident := 2, base := 4096, pcol := 6, prow := 4 }], lastGen := 2 })] }
def crowdedMover : State := { crowdedState with launches := [(0, { aLaunch with cc0 := 1 }), (1, { headLaunch with ident := 2 })] }

theorem meets_PagesArmMoveAndDraw :
    (let x : Launch := { aLaunch with stage := .placed };
      x.stage = .placed ∧ 0 < pagesOf (aCopy []) ∧ 0 + 1 = pagesOf (aCopy []) ∧ x.armed = true ∧ 0 + 1 ≠ pagesOf { aCopy [] with pcol := 2 })
      ∧ (crowdedMover.cycle % 8 = 0 ∧ crowdedMover.moveAllowed 0 0 0 = true ∧ crowdedMover.quiet 0 = true
        ∧ (crowdedMover.launch 0).moveBy = none ∧ crowdedMover.moveAllowed 0 7 0 = false)
      ∧ ¬ (({ crowdedMover with cycle := 7 } : State).cycle % 8 = 0)
      ∧ (let s := { crowdedMover with launches := [(0, { aLaunch with cc0 := 1, moveBy := some 0 }), (1, { headLaunch with ident := 2 })] };
        (s.launch 0).moveBy = some 0 ∧ (s.launch 0).moving = none ∧ s.mayMove 0 0 0 = true ∧ s.cycle ≤ 0
          ∧ s.mayMove 0 7 0 = false ∧ 0 < ({ s with cycle := 1 } : State).cycle ∧ ({ aLaunch with moving := some (0, 0) } : Launch).moving ≠ none)
      ∧ (let x : Launch := { aLaunch with moving := some (6, 3), cc0 := 0, cr0 := 0 };
        x.moving = some (6, 3) ∧ (∀ cl ∈ rectOf 0 6 3 1 1, cl ∉ rectOf 0 0 0 1 1) ∧ 6 + 1 ≤ 7 ∧ 0 + 1 ≤ 7
          ∧ (∀ f ∈ crowdedMover.flights, f.launch ≠ 0) ∧ ∃ f ∈ [aFlight], f.launch = 0)
      ∧ (let s := { aState aSlot with cycle := 199999 };
        (s.cycle + 1) % 200000 = 0 ∧ 380000 ≤ s.budget ∧ s.budget < 400000 ∧ s.drawing = [0] ∧ s.counted = 0 ∧ ({ s with counted := 1 } : State).counted ≠ 0
          ∧ (∀ k ∈ ({ s with slots := [(0, { aSlot with gate := 15 })] } : State).slotKeys 0,
            (({ s with slots := [(0, { aSlot with gate := 15 })] } : State).slot k).gate ≠ 0))
      ∧ ({ crowdedMover with regions := [(0, { handles := [(1, { st := .filling })] })] } : State).quiet 0 = false
      ∧ ({ aLaunch with moveBy := some 5 } : Launch).moving = none := by
  refine ⟨by decide, by decide +kernel, by decide, by decide +kernel, by decide, by decide +kernel, by decide +kernel, by decide⟩

/-- The active copy of the object's shape. -/
def objCopy : Copy := { gen := 1, bytes := 4096, kernels := [{ slots := 1, gcnt := 1, ii := 8, words := 2, slcnt := 1 }], fmax := 1, wmax := 0 }

/-- A running launch on that copy, with another one loaded under generation 2. -/
def swapState (x : Launch) (gen2 : Nat := 2) : State :=
  { State.reset with
    cycle := 1000, launches := [(0, x)], slots := [(0, aSlot)]
    regions := [(0, { copies := [objCopy, { objCopy with gen := gen2 }], lastGen := gen2 })] }

/-- Translation tables that map the first gibibyte of space 0x00 onto itself, and the object at offset 0x10000. -/
def imageMem : List Host.Cell :=
  [(0, 0x03), (1, 0x10), (0x1000, 0x03), (0x1001, 0x20), (0x2000, 0x03), (0x2001, 0x30), (0x3000, 0x07)]
    ++ (objBytes.mapIdx fun i b => (0x10000 + i, b)).filter fun c => c.2 != 0

def imageState (mem : List Host.Cell) : State :=
  { swapState { aLaunch with mload := some 7, mstat := 1 } with
    loads := [{ id := 7, region := 0, len := 208, launch := 0, phase := true, va := 0x10000 }], mem := mem }

/-- The copy that a load gives. -/
def copyFits (x : Launch) (r : Except Blame (Option (State × Nat))) : Bool :=
  match r with
  | .ok (some (u, gen)) => relFits x (u.copy x.region gen)
  | _ => false

theorem copyFits_spec {x : Launch} {r : Except Blame (Option (State × Nat))} (h : copyFits x r = true) :
    ∃ u gen, r = .ok (some (u, gen)) ∧ relFits x (u.copy x.region gen) = true := by
  match r with
  | .ok (some (u, g)) => exact ⟨u, g, rfl, h⟩

theorem meets_MilestonesSwitchPlanes_image :
    (∀ m, (imageState m).loads.find? (fun d => ((imageState m).launch 0).mload == some d.id)
        = some { id := 7, region := 0, len := 208, launch := 0, phase := true, va := 0x10000 })
      ∧ (imageState imageMem).imageAt (saggarOf aLaunch) 0x10000 = some objBytes
      ∧ (imageState []).imageAt (saggarOf aLaunch) 0x10000 = none := by
  refine ⟨fun m => rfl, by decide +kernel, by decide +kernel⟩

theorem meets_MilestonesSwitchPlanes :
    (mState 1 = 1)
      ∧ (let x : Launch := { aLaunch with mload := some 7, mstat := 1 };
        sameShape (objOf objBytes) objCopy = true
          ∧ (swapState x).kilnReserved - x.res + reservation (objOf objBytes).epi (objOf objBytes).pages (objOf objBytes).kernels
              + (swapState x).kilnBase.toNat ≤ (swapState x).budget)
      ∧ (∃ u gen, (imageState imageMem).loadInto (objOf objBytes) 0
          (BitVec.ofNat 128 (objOf objBytes).ident) (saggarOf aLaunch) none none = .ok (some (u, gen))
          ∧ relFits { aLaunch with mload := some 7, mstat := 1 } (u.copy 0 gen) = true)
      ∧ (mPend 6 = true ∧ mState 6 = 2 ∧ mPend 7 = true ∧ mState 7 ≠ 2 ∧ (1256#64).toNat = (swapState aLaunch).cycle + 256)
      ∧ (swapState aLaunch).cycle + 8 ≤ (1008#64).toNat
      ∧ (let x : Launch := { aLaunch with mstat := 6, committed := true, milestone := 1000, shadow := some 2 };
        mPend x.mstat = true ∧ x.committed = true ∧ x.milestone.toNat = (swapState x).cycle ∧ x.shadow = some 2 ∧ x.halted = false)
      ∧ (swapState aLaunch).planeBusy 0 1 = false
      ∧ ({ swapState { aLaunch with oldGen := some 1 } with flights := [aFlight] } : State).planeBusy 0 1 = true
      ∧ (∀ k ∈ (swapState aLaunch).slotKeys 0, ((swapState aLaunch).slot k).bound = true ∧ ((swapState aLaunch).slot k).ended = false) := by
  refine ⟨by decide, by decide +kernel, copyFits_spec (x := { aLaunch with mload := some 7, mstat := 1 }) (by decide +kernel), by decide, by decide,
    by decide, by decide, by decide, by decide⟩

/-- Region 0 with its unload register as given. -/
def unloadState (w : Word) : State := { State.reset with regions := [(0, { copies := [aCopy []], lastGen := 1, unload := w })] }
/-- A completion address in space 1, and one in no space. -/
def cplBlock : BitVec 448 := 0x100000000000400000000000001000000000000000000000000000000000000000000000000000000000000000000000000000000#448
def cplNone : BitVec 448 := 0x100000000000000000000000001000000000000000000000000000000000000000000000000000000000000000000000000000000#448

theorem meets_RetirementReturnsEverything :
    (aState { aSlot with ended := true }).mayRetire 0 = true
      ∧ (headState { headLaunch with block := 0 } bindable).mayRetireEmpty 0 = true
      ∧ portCarries State.reset ({ aLaunch with block := cplBlock } : Launch).cplva
      ∧ ¬ portCarries State.reset ({ aLaunch with block := cplNone } : Launch).cplva
      ∧ (let st (w : Word) : Nat := w.toNat / 2 ^ 61 % 4;
        (0x8000000000000001#64).toNat / 2 ^ 63 = 1 ∧ st ((unloadState 0).region 0).unload ≠ 1
          ∧ (∃ c ∈ ((unloadState 0).region 0).copies, c.gen = 1) ∧ (∀ c ∈ ((unloadState 0).region 0).copies, c.gen ≠ 2)
          ∧ st ((unloadState 0x2000000000000001).region 0).unload = 1 ∧ 1 ∉ (unloadState 0x2000000000000001).refs 0
          ∧ 1 ∈ ({ unloadState 0x2000000000000001 with launches := [(0, aLaunch)] } : State).refs 0) := by
  refine ⟨by decide, by decide, ?_, ?_, by decide⟩
  · unfold portCarries; decide +kernel
  · unfold portCarries; decide +kernel

end Sys2Proof.Tests
end

