-- ==== Sys2Proof/Tests/WitnessesDevice.lean ====
section
/-! SUPPORT. For each statement about the device and the whole machine with hypotheses: a state and operands that meet them, clause by clause, at the
ends of the ranges where the clauses meet. -/

namespace Sys2Proof.Tests

open Sys2Proof Sys2Proof.Machine

/-- A windowed access of one line of 64 bytes from element 0 to the line at a slice address. -/
def anAcc (k : AccKind) : Access :=
  { id := 4, kind := k, launch := 0, gen := 1, elem := 0, site := 3, addr := sliceBase, len := 64, ops := [(0, 1, 2), (15, 3, 4)] }
def accState (a : Access) (st : Map Stamp := []) : State := { aState aSlot [(3, { aSite with fill := 3 })] with accs := [a], stamps := st }
/-- Full/empty bits of slice 0 set for its first words. -/
def fullState (a : Access) (n : Nat) : State :=
  { accState a with slices := [(0, { fe := (List.range n).map fun i => (i, true) })] }
def otherStamp : Stamp := { launch := 0, site := 4, w := true }
/-- A queued write-back of the first line of site 3, dirty in one byte, under its own tag. -/
def queuedBack : Access := { anAcc .wback with st := .queued }
def dirtyState (use : Option Nat) : State :=
  { accState queuedBack with
    elems := [(0, { tags := (List.range 4).map (fun g => (granKey 3 0 g, { space := 0, off := sliceBase + 64 * g })),
                    dirty := [(dirtyKey 3 0, true)], otherUse := use })] }

theorem meets_AccessesPerformAtTheirNodes :
    (∀ k, (accState (anAcc k)).acc 4 = some (anAcc k) ∧ (accState (anAcc k)).mayPerform (anAcc k) = true)
      ∧ (accState (anAcc .read)).ecc = [] ∧ (accState (anAcc .read)).memOldAt ≠ (accState (anAcc .read)).cycle
      ∧ (anAcc .read).reply = []
      ∧ (∀ k, let s := accState (anAcc k);
        (anAcc k).lines ≠ [] ∧ (s.partsAt (anAcc k) (anAcc k).lines).1 = (anAcc k).lines
          ∧ (s.atBanks (anAcc k).cls (.acc 4 (sliceBase / 64)) 0 (bankNodes (anAcc k).lines)).1 = true)
      ∧ (∀ k, let s := { accState (anAcc k) with cycle := 24 };
        (s.partsAt (anAcc k) (anAcc k).lines).1 = []
          ∧ (s.atBanks (anAcc k).cls (.acc 4 (sliceBase / 64)) 0 (bankNodes (anAcc k).lines)).1 = false)
      ∧ (accState (anAcc .wback)).tagRefused (anAcc .wback) = false
      ∧ (let a : Access := { anAcc .wback with bytes := [(sliceBase, 1)] };
        ({ accState a with refused := [{ launch := 0, elem := 0, site := 3, line := 0, addr := sliceBase, len := 64 }] } : State).tagRefused a = true)
      ∧ (∀ v ∈ ((accState (anAcc .read)).slice 0).waits, v.who ≠ .acc 4 (sliceBase / 64))
      ∧ (∀ g ∈ (anAcc .read).granules, ∀ st, (g, st) ∈ (accState (anAcc .read)).stamps → False)
      ∧ ((fullState (anAcc .sync) 16).feAt sliceBase = true ∧ (fullState (anAcc .sync) 1).feAt (sliceBase + 4) = false)
      ∧ (let s := accState (anAcc .check) [(sliceBase / 64, otherStamp)];
        ∃ g ∈ (anAcc .check).granules, ∃ st, s.stamps.find? (·.1 == g) = some (g, st)
          ∧ stampOk (s.copy 0 1).sites (anAcc .check) st = false)
      ∧ ((aState aSlot).slot 0).bound = true ∧ ((aState aSlot).slot 0).ended = false
      ∧ ([(0, (1 : Byte)), (63, 2)].map (·.1)).Nodup ∧ ([(0, (1 : Byte)), (63, 2)] : Map Byte) ≠ []
      ∧ (accState (anAcc .atom)).atomTurn (anAcc .atom) = true
      ∧ ([(0, (1 : LaneWord), (2 : LaneWord)), (63, 3, 4)].map (·.1)).Nodup
      ∧ (let f (s : State) := s.accs.find? fun a => a.elem == 0 && a.kind == .wback && a.st == .queued && decide (a.notBefore ≤ s.cycle);
        f (accState (anAcc .read)) = none ∧ f (dirtyState none) = some queuedBack
          ∧ (dirtyState (some 16)).bankFree 0 false = false
          ∧ (let s := dirtyState none;
            let h := shareOf (accSite s queuedBack) 0;
            s.bankFree 0 false = true ∧ ((s.elem 0).lineTags 3 0).map (·.2) = lineTagsAt h sliceBase
              ∧ (s.elem 0).dirtyOf h 3 0 ≠ [] ∧ 4 * h.lw * (0 + 1) ≤ 65536)) := by
  refine ⟨fun k => by cases k <;> decide, by decide, by decide, by decide, fun k => by cases k <;> decide,
    fun k => by cases k <;> decide, by decide, by decide, by decide, ?_, by decide,
    ⟨sliceBase / 64, by decide, otherStamp, by decide, by decide⟩, by decide⟩
  intro g _ st h
  cases h

/-- An open window of element 0 on its landing entry 2, for lanes 0 and 63 of g3, and its access under way or not. -/
def aWindow : Landing := { isOpen := true, gen := 1, close := 16, reg := 3, code := 3, mask := 0x8000000000000001#64, width := 64, acc := 4, site := 3 }
def winState (w : Landing) (accs : List Access) : State :=
  { aState aSlot [(3, { aSite with fill := 3 })] with
    accs := accs, elems := [(0, { landing := [(2, w)] })] }
def answered : Access := { anAcc .read with st := .performed, entry := 2, win := 4 }
def shutState : State := { winState aWindow [answered] with clusters := [(0, { shut := true })] }
/-- A slot that waits at a fence with one waymark out. -/
def fenceSlot : Slot := { aSlot with wait := .fence 0 10, waymarks := [256], paths := [(256, 9)] }

theorem meets_WindowsCloseOnTime :
    ((winState aWindow [answered]).acc 4 = some answered ∧ answered.st = .performed
        ∧ (look ({} : Landing) ((winState aWindow [answered]).elem 0).landing 2).isOpen = true
        ∧ (look ({} : Landing) ((winState aWindow [answered]).elem 0).landing 2).acc = answered.win)
      ∧ (let s := { winState {} [answered] with slots := [(0, { aSlot with late := some { win := 4, close := 8, elem := 0, word := 0, left := 0 } })] };
        (s.slot 0).late = some { win := 4, close := 8, elem := 0, word := 0, left := 0 } ∧ (s.launch (s.slot 0).launch).halted = false
          ∧ (look ({} : Landing) (s.elem 0).landing 2).isOpen = false ∧ answered.win = 4 ∧ ∀ b ∈ s.accs, b.win = answered.win → b.id = answered.id)
      ∧ (aWindow.lost = false ∧ ({ aWindow with lost := true } : Landing).lost = true
        ∧ ({ aWindow with stamped := some (3, 0) } : Landing).stamped ≠ none ∧ ({ aWindow with ecc := true } : Landing).ecc = true
        ∧ ({ aWindow with fe := true } : Landing).fe = true ∧ ({ aWindow with orphan := true } : Landing).orphan = true
        ∧ aSlot.winmiss.getLsbD 0 = false)
      ∧ ((∀ c, ((winState aWindow [answered]).cluster c).shut = false) ∧ ∀ c ∈ (winState aWindow [answered]).clusters, c.2.shut = false)
      ∧ (shutState.cluster (answered.elem / 16)).shut = true
      ∧ (let s := winState aWindow [];
        aWindow.close ≤ s.cycle ∧ (s.launch aWindow.launch).terminated = false ∧ aWindow.orphan = false
          ∧ (∀ a ∈ s.accs, ¬ (a.win = aWindow.acc ∧ a.elem = 0)) ∧ aWindow.stamped = none ∧ aWindow.ecc = false ∧ aWindow.fe = false
          ∧ s.ecc = [] ∧ aWindow.atomic = false ∧ aWindow.code < 48 ∧ (∀ x ∈ (s.elem 0).wrote, x.2.2 ≠ s.cycle)
          ∧ aWindow.mask.getLsbD 63 = true ∧ 63 < (shareOf { aSite with fill := 3 } 0).lw)
      ∧ (let w := { aWindow with atomic := true, beats := 8, data := [(63, Lane.clean 5)] };
        w.atomic = true ∧ w.width ≤ 8 * w.beats ∧ ¬ ({ w with beats := 7 } : Landing).width ≤ 8 * 7 ∧ w.data.any (·.1 == 63) = true)
      ∧ (let s := winState aWindow [answered];
        (∃ a ∈ s.accs, a.win = aWindow.acc ∧ a.elem = 0) ∧ (s.cluster (0 / 16)).shut = false)
      ∧ (let s := aState fenceSlot;
        (s.slot 0).wait = .fence 0 10 ∧ s.mayAck 0 1 0 = true ∧ s.mayAck 0 1 1 = false) :=
  ⟨by decide, by decide, by decide, ⟨fun _ => rfl, by decide⟩, by decide, by decide, by decide, by decide, by decide⟩

theorem meets_ScrubbersCorrectAndReport :
    (let s := aState aSlot;
      ((s.elem 0).portAt ≠ some s.cycle ∧ ({ portAt := some 16 } : Elem).portAt = some s.cycle) ∧ (s.boundRegs 0)[0]? = none
        ∧ (({ s with regions := [(0, { copies := [objCopy] })] } : State).boundRegs 0)[0]? = some (0, 0))
      ∧ (let s : State := { aState aSlot with clusters := [(0, { stepAt := some 16 })] };
        s.stepped 0 = true ∧ (aState aSlot).stepped 0 = false ∧ ((aState aSlot).cluster 0).accprot = false
          ∧ (({ accprot := true } : Cluster).accprot = true) ∧ look 0 ({ accprot := true } : Cluster).sums 0 = 0
          ∧ look 0 ({ sums := [(5, 7)] } : Cluster).sums 5 ≠ 0 ∧ sumsOff { sums := [(5, 7)] } 0 0 = [5] ∧ sumsOff { sums := [(5, 7)] } 0 1 = []
          ∧ sumsOff { sums := [(5, 7), (6, 7)] } 0 0 = [5, 6] ∧ look 0 ({ sums := [(64 + 9, 7)] } : Cluster).sums (64 + 9) ≠ 0)
      ∧ (let s : State := { aState aSlot with ecc := [(.hbm 4, .double), (.reg 0 0, .single), (.tile 0 0, .marked)] };
        (256 / 2 ^ 36 = 0 ∧ s.eccBad (.hbm (256 / 64)) = true) ∧ s.eccBad (.hbm 5) = false
          ∧ s.eccAt (.reg 0 0) = some .single ∧ s.eccAt (.hbm 4) = some .double ∧ s.eccAt (.tile 0 0) = some .marked
          ∧ s.eccAt (.tile 0 1) = none) := by decide +kernel

/-- A step of no products with scales of one code each. -/
def noStep (s : BitVec 8) : StepIn :=
  { tile := 2, aty := .i8, p := 0, vals := [], sa := [s], form := .ty .i8, byte := fun _ _ => 0, line := 0, k := 0, bpois := fun _ => false, sb := [s], spare := 0 }
def aJoin : Join := { id := 7, launch := 0, quad := 0, tile := 0, leader := 0, start := 0, half := 1, base := 0, planes := 8, spare := 0, region := 0, slot := 0 }

theorem noStep_adds : ∃ c', Cluster.addStep {} (noStep 127) = some c' := by
  unfold Cluster.addStep
  exact ⟨_, if_neg (by decide)⟩

/-- A cluster whose one queued step stands at lines of the given tags, its word having taken n intervals of it. -/
def stepState (t : MTy) (tags : Map (BForm × Bool)) (doing : Option (Pick × Nat) := none) : State :=
  { aState aSlot with
    clusters := [(0, { armed := true, launch := some 0, feed := [{ aStep with ready := some 16, ty := t }], doing := doing, doingAt := 1
                       fwords := [{ serial := 77, total := 1 }], wlines := tags.map fun g => (g.1, { tag := some g.2 }) })] }
def stepWord77 : FWord := { serial := 77, total := 1 }

/-- A quad of one joint step a member, whose last member takes its last step. -/
def lastJoint : State :=
  { aState aSlot with
    joins := [{ aJoin with taken := [2, 2, 2, 1], curs := List.replicate 4 (0, none, none) }]
    clusters := [(8, { armed := true, launch := some 0, page := 3, feed := [{ aStep with ready := some 16 }], wlines := [(0, { tag := some (.ty .i8, false) })] })]
    regions := [(0, { copies := [{ aCopy [] with quad := true, pcol := 2, prow := 2 }] })] }
def takenAfter (r : Res) : List (List Nat) :=
  match r with
  | .next t => t.joins.map (·.taken)
  | _ => []

theorem meets_TheArrayStepsEachInterval_joint :
    (lastJoint.joins.map (·.id)).Nodup ∧ (∃ k ∈ [2, 2, 2, 1], k ≠ 2 * aJoin.half) ∧ (∀ k ∈ [2, 2, 2, 2], k = 2 * aJoin.half)
      ∧ (lastJoint.launch aJoin.launch).halted = false ∧ takenAfter (exec (.matrixStep 8) lastJoint) = [[2, 2, 2, 2]] := by
  refine ⟨by decide, by decide, by decide, by decide, by decide +kernel⟩

/-- A step of one line, of a line past a scale line, of two lines in each of its four intervals, and at an empty line. -/
theorem meets_TheArrayStepsEachInterval_own :
    (let s := stepState .i8 [(0, .ty .i8, false)];
      (s.cluster 0).armed = true ∧ (s.cluster 0).shut = false ∧ s.arrayHalted 0 = false ∧ (s.cluster 0).replayDue = false
        ∧ (s.cluster 0).feed = [{ aStep with ready := some 16 }] ∧ (s.cluster 0).fwords.find? (·.serial == 77) = some stepWord77
        ∧ pairedBy .i8 (.ty .i8) = some 1 ∧ pairedBy .i8 (.ty .f16) ≠ some 1 ∧ stepLines (.ty .i8) = 1
        ∧ StandsAt (s.cluster 0) 0 0 (.ty .i8) ∧ ScalesAre (s.cluster 0) stepWord77 0 (.ty .i8) none
        ∧ ((s.cluster 0).run 0).live = false
        ∧ ({ runs := [(0, { live := true, sa := [1] })] } : Cluster).run 0 = { live := true, sa := [1] })
      ∧ (let s := stepState .mxi8 [(0, .ty .mxi8, true), (1, .ty .mxi8, false)];
        ∃ x : ScaleIn, StandsAt (s.cluster 0) 0 1 (.ty .mxi8) ∧ ScalesAre (s.cluster 0) stepWord77 1 (.ty .mxi8) (some x))
      ∧ (let s := stepState .f16 [(0, .ty .f16, false), (1, .ty .f16, false)];
        StandsAt (s.cluster 0) 0 0 (.ty .f16) ∧ ScalesAre (s.cluster 0) stepWord77 0 (.ty .f16) none ∧ stepLines (.ty .f16) = 2
          ∧ (s.cluster 0).doing = none)
      ∧ (∀ n < 4, ((stepState .f16 [] (some (.own 77 0, n))).cluster 0).doing = some (.own 77 0, n) ∧ aStep.queuedAt < 1)
      ∧ (((stepState .i8 []).cluster 0).wline stepWord77.cursor).tag = none
      ∧ (∀ n : Rat, n = 1 → FF.f32.val (0x3F800000#32).toNat = .fin false 8388608 (-23)
        ∧ n = ratOf false 1 0 * ratOf false 1 0) := by
  refine ⟨⟨by decide, by decide, by decide, by decide, by decide, by decide, by decide, by decide, by decide, ⟨?_, ?_, by decide⟩,
    ⟨fun _ => rfl, fun h => absurd rfl h, by decide⟩, by decide, by decide⟩,
    ⟨{ form := .ty .mxi8, codes := (List.range 64).map (((stepState .mxi8 [(0, .ty .mxi8, true), (1, .ty .mxi8, false)]).cluster 0).wbyte none 0), p := false },
      ⟨?_, ?_, by decide⟩, ⟨fun h => absurd h (by decide), fun _ => ⟨.ty .mxi8, by decide, by decide⟩, by decide⟩⟩,
    ⟨⟨?_, ?_, by decide⟩, ⟨fun _ => rfl, fun h => absurd rfl h, by decide⟩, by decide, by decide⟩, by decide, by decide, ?_⟩
  · exact fun i h => absurd h (Nat.not_lt_zero i)
  · decide
  · intro i h
    exact ⟨.ty .mxi8, by interval_cases i; decide⟩
  · decide
  · exact fun i h => absurd h (Nat.not_lt_zero i)
  · decide
  · rintro n rfl
    exact ⟨by decide, by norm_num [ratOf]⟩

theorem meets_TheArrayStepsEachInterval :
    (let c : Cluster := { armed := true };
      (c.armed = true ∧ c.shut = false ∧ c.replayDue = false ∧ c.feed = []) ∧ ¬ (({} : Cluster).armed = true)
        ∧ ({ c with replayDue := true } : Cluster).replayDue = true)
      ∧ (let s := { aState aSlot with clusters := [(0, { armed := true, launch := some 0 })] };
        s.arrayHalted 0 = false ∧ s.joins = [] ∧ s.ecc = [] ∧ (s.cluster 0).accprot = false ∧ ({ accprot := true } : Cluster).sums = []
          ∧ ({ s with launches := [(0, { aLaunch with halted := true })] } : State).arrayHalted 0 = true)
      ∧ (MTy.i8 ≠ .bf16 ∧ FF.f32.val (0x3F800000#32).toNat = .fin false 8388608 (-23))
      ∧ (∃ c', Cluster.addStep {} (noStep 127) = some c')
      ∧ (let c : Cluster := { runs := [(2, { live := true, sa := [127], sb := [127] })] };
        (c.run 2).live = true ∧ (c.run 2).sa ≠ (noStep 128).sa)
      ∧ (let s := { aState aSlot with joins := [aJoin] };
        s.joins.find? (fun j => j.id == 7 && !j.done) = some aJoin ∧ (s.slot (slotKey 0 0)).bound = true
          ∧ (s.slot (slotKey 0 0)).ended = false ∧ (∀ j ∈ s.joins, j.id = 8 → j.done = true)) := by
  refine ⟨by decide, by decide, by decide, noStep_adds, by decide, by decide⟩

theorem meets_CountsChannelsAndTablesAct :
    (let u : CountUpd := { id := 3, launch := 0, region := 0, slot := 0, slice := 5, adds := [(0, 1), (4095, 7)], due := 16 };
      let s := { aState aSlot with upds := [u], slices := [(5, { cleared := [(0, 16)] })] };
      s.upds.find? (fun v => v.id == u.id && decide (v.due ≤ s.cycle)) = some u ∧ (u.adds.map (·.1)).Nodup
        ∧ look (s.cycle + 1) (s.slice u.slice).cleared 0 = s.cycle ∧ look (s.cycle + 1) (s.slice u.slice).cleared 4095 ≠ s.cycle)
      ∧ (191 < 192 ∧ 511 < 512 ∧ 5 < 6 ∧ (1#64) ≠ 0)
      ∧ (let b : ChanBeat := { heldBeat with held := false, id := 20 };
        let s := { aState aSlot with beats := [b] };
        s.beats.find? (·.id == b.id) = some b ∧ (∀ cl ∈ s.clustersOf b.launch, (s.cluster cl).shut = false)
          ∧ b.wall = none
          ∧ ¬ (∃ x ∈ s.beats, x.held = true ∧ x.region = b.region ∧ x.launch = b.launch ∧ x.chan = b.chan)
          ∧ (s.launch b.launch).halted = false ∧ (s.slot (slotKey b.region b.slot)).bound = true
          ∧ (s.slot (slotKey b.region b.slot)).ended = false ∧ (s.launch b.launch).moving = none
          ∧ ({ s with launches := [(0, { aLaunch with moving := some (0, 0) })] } : State).launch 0 = { aLaunch with moving := some (0, 0) }
          ∧ ∃ x ∈ ({ s with beats := [b, heldBeat] } : State).beats,
              x.held = true ∧ x.region = b.region ∧ x.launch = b.launch ∧ x.chan = b.chan)
      ∧ heldBeat.held = true
      -- the beat stopped at the east port of page 0, whose neighbour is cluster 1; and at the edge of a fenced cluster
      ∧ (let b : ChanBeat := { heldBeat with held := false, id := 20, wall := some { page := 0, port := 1, track := 63, tslot := 15, cycles := 3 } };
        let s := { aState aSlot with beats := [b] };
        s.beats.find? (·.id == b.id) = some b ∧ (∀ cl ∈ s.clustersOf b.launch, (s.cluster cl).shut = false)
          ∧ clusterAcross (pageCluster (s.launch b.launch) (s.copy b.region b.gen) 0) 1 = some 1)
      ∧ (let s : State := { State.reset with slices := [(3, { slotsNew := some 5 })] };
        (s.slice 3).slotsNew = some 5 ∧ ¬ (∃ e ∈ s.launches, e.2.region = 3 / 4 ∧ e.2.armed = true ∧ e.2.stage ≠ .retired)
          ∧ (∃ e ∈ (aState aSlot).launches, e.2.region = 3 / 4 ∧ e.2.armed = true ∧ e.2.stage ≠ .retired)
          ∧ ((State.reset).slice 3).slotsNew = none)
      ∧ (let base (w : Word) : Nat := w.toNat / 2 ^ 34 % 2 ^ 22 * 2 ^ 30;
        let size (w : Word) : Nat := w.toNat % 2 ^ 11 * 2 ^ 30;
        -- a window of 1 GiB at the end of memory, one past it, and one that two windows would share
        base 0x800017FC00000001 + size 0x800017FC00000001 = 0x18000000000
          ∧ 0x18000000000 < base 0x800017FC00000002 + size 0x800017FC00000002
          ∧ base 0x800017FC00000001 < base 0x800017F800000002 + size 0x800017F800000002) := by decide


def fencedBeat : ChanBeat := { heldBeat with held := false, id := 20 }
def fencedState : State := { aState aSlot with beats := [fencedBeat], clusters := [(0, { shut := true })] }

/-- The sender's cluster fenced: the beat is dropped there, wherever its route goes. -/
theorem meets_CountsChannelsAndTablesAct_fence : ∃ d, fencedState.beatDropped fencedBeat = some (0, d) := by
  have hc : fencedState.clustersOf fencedBeat.launch = [0] := by decide
  have hs : (fencedState.cluster 0).shut = true := rfl
  have hi : fencedBeat.src / 16 = 0 ∨ fencedBeat.dst / 16 = 0 := by decide
  cases hv : fencedState.routeSeam fencedBeat 0 with
  | none => exact ⟨0, by simp only [State.beatDropped, hc, List.findSome?_cons, hs, hv, if_true, if_pos hi]⟩
  | some d => exact ⟨d, by simp only [State.beatDropped, hc, List.findSome?_cons, hs, hv, if_true]⟩

/-- Bytes that are all 0. -/
def Zeros (b : List Byte) : Prop := ∀ x ∈ b, x = 0

theorem Zeros.num {b : List Byte} (h : Zeros b) : natOfBytes b = 0 := by
  induction b with
  | nil => rfl
  | cons x b ih => simp [natOfBytes, ih fun y m => h y (.tail _ m), h x (.head _)]

theorem Zeros.slice {b : List Byte} (h : Zeros b) (n k : Nat) : Zeros (Sys2Proof.slice b n k) :=
  fun x m => h x (List.mem_of_mem_drop (List.mem_of_mem_take m))

theorem zeros_imageOk {b : List Byte} (h : Zeros b) : imageOk b = true := by
  have hd (d : Nat) : imgDom b d = 0#128 := by simp [imgDom, (h.slice _ _).num]
  have hc (n : Nat) : imgCell b n = 0#192 := by simp [imgCell, (h.slice _ _).num]
  simp only [imageOk, hd, hc, Bool.and_eq_true, List.all_eq_true]
  exact ⟨fun _ _ => by decide, fun _ _ => by decide⟩

theorem zeros_nodeRead {s : State} (hm : s.mem = []) (ho : s.memOld = []) : ∀ n a, Zeros (s.nodeRead a n)
  | 0, _ => fun _ m => nomatch m
  | n + 1, a => by
    intro x m
    rcases List.mem_cons.mp m with rfl | m
    · simp [State.nodeByte, ho, hm, memByte, look, memDefault]
    · exact zeros_nodeRead hm ho n _ x m

theorem zeros_homeRead {s : State} (hm : s.mem = []) (ho : s.memOld = []) (r off n : Nat) : Zeros (s.homeRead r off n) := by
  intro x m
  obtain ⟨i, _, m⟩ := List.mem_flatMap.mp m
  exact zeros_nodeRead hm ho _ _ x m

theorem zeros_haltReserved {b : List Byte} (h : Zeros b) : haltReserved b = true := by
  simp only [haltReserved, Bool.and_eq_true, List.all_eq_true, beq_iff_eq]
  exact ⟨fun x m => h.slice _ _ x m, fun _ _ _ _ => by simp [recWord, (h.slice _ _).num]⟩

/-- A request of one unit under handle 1 between local offset 0x80 of region 0 and offset 0x40 of space 0, with bit 112 as given; the
translation of slice 0 for page 0 of the launch's saggar. -/
def aUnit (dir : Bool) (st : ReqState := .running) : Req :=
  { id := 9, st := st, pkt := if dir then 0x410000400000000000000000000040 else 0x400000400000000000000000000040 }
def unitState (q : Req) (tlb : List Tlb) : State :=
  { aState aSlot with reqs := [q], slices := [(0, { tlb := tlb })],
                      regions := [(0, { copies := [aCopy []], handles := [(1, { st := .filling })] })] }
def aTlb : Tlb := { saggar := 0, space := 0, page := 0, pages := 1, frame := 0x10000, w := true }
/-- An expert fetch with a deadline of one beat of 8 cycles after cycle 8. -/
def aFetch : Req := { id := 9, st := .running, at_ := 8, pkt := 0x20400000400000000000000000000040, ext := 0x1000000000000000 }

theorem meets_TransfersLandAndFinish :
    (∀ dir, let s := { unitState (aUnit dir) [aTlb] with cycle := 24 };
      let q := aUnit dir;
      let at_ (s : State) := s.atBanks 1 (.unit 9 0) 0 (bankNodes ((homePa 0 (pktLoff q.pkt + 64 * 0) :: if inSlices 0x10040 64 then [0x10040] else []).map (· / 64)));
      (at_ s).1 = true ∧ (at_ { s with cycle := 16 }).1 = false ∧ s.req 9 = some q ∧ q.st = .running ∧ 0 < q.units ∧ 0 ∉ q.done ∧ s.ecc = [] ∧ s.memOldAt ≠ s.cycle
        ∧ pktSite q.pkt = false ∧ pktSpace q.pkt = 0 ∧ pktOp q.pkt = 0 ∧ pktDir q.pkt = dir ∧ q.remote 0 < 2 ^ 57
        ∧ (s.slice q.slice).tlb.find? (fun x => x.saggar == q.saggar && x.space == 0
            && decide (x.page ≤ q.remote 0 / 65536 ∧ q.remote 0 / 65536 < x.page + x.pages) && (x.w || !pktDir q.pkt)) = some aTlb
        ∧ aTlb.frame + (q.remote 0 - 65536 * aTlb.page) = 0x10040 ∧ inHbm 0x10040 64 = true)
      ∧ (let q : Req := { aUnit false with done := [0] };
        let s := unitState q [];
        s.reqs.find? (fun q => q.region == 0 && pktHandle q.pkt == 1 && q.complete) = some q ∧ (s.handle 0 1).st = .filling
          ∧ (s.launch q.launch).stage ≠ .retired ∧ pktOp q.pkt ≠ 2 ∧ pktRvp q.pkt = 0)
      ∧ (let s := unitState aFetch [];
        s.req 9 = some aFetch ∧ aFetch.complete = false ∧ pktOp aFetch.pkt = 2
          ∧ aFetch.at_ + 8 * extDeadline aFetch.ext = s.cycle ∧ 15 < aFetch.at_ + 8 * extDeadline aFetch.ext
          ∧ ∀ k < 4, look (s.cycle + 1) (s.slice aFetch.slice).cleared k ≠ s.cycle)
      ∧ (let s := { unitState (aUnit false .firmware) [aTlb] with cycle := 24 };
        s.req 9 = some (aUnit false .firmware) ∧ (aUnit false .firmware).st = .firmware
          ∧ pktSite (aUnit false .firmware).pkt = false ∧ pktDir (aUnit false .firmware).pkt = false ∧ s.memOldAt ≠ s.cycle
          ∧ (s.xlatAt 0 0 0 ((aUnit false .firmware).remote 0) false).2 = .pa 0x10040
          ∧ ∃ u < (aUnit false .firmware).units, u ∉ (aUnit false .firmware).done
            ∧ [(0, UnitRead.fails)].find? (·.1 == u) = some (u, .fails))
      ∧ (let s := { unitState (aUnit false .firmware) [] with
                    cycle := 1024, regions := [(0, { fwWait := some 0, handles := [(63, { st := .draining, drainAt := 1024 })] })] };
        s.maySteal 0 = true ∧ (aState aSlot).maySteal 0 = false ∧ (s.handle 0 63).st = .draining ∧ (s.handle 0 63).drainAt ≤ s.cycle
          ∧ ((aState aSlot).handle 0 63).st ≠ .draining) := by decide

/-- The same unit between the first unit of site 3 and offset 0x40, on a cycle of a STACK entry, or not, at its end. -/
def siteUnitState (dir : Bool) (x : Site) (stamps : Map Stamp := []) (watches : Map (List Watch) := []) : State × Req :=
  let q : Req := { id := 9, st := .running, gen := 1, pkt := BitVec.ofNat 128 (2 ^ 118 + (if dir then 2 ^ 112 else 0) + 2 ^ 111 + 3 * 2 ^ 103 + 0x40) }
  ({ aState aSlot with cycle := 28, phase := .finish, reqs := [q], slices := [(0, { tlb := [aTlb] })], stamps := stamps
                       launches := [(0, { aLaunch with watches := watches })], clusters := [(0, { launch := some 0 })]
                       regions := [(0, { copies := [aCopy [(3, x)]], handles := [(1, { st := .filling })] })] }, q)
def fullWatch : List Watch := List.replicate 32 { tag := { space := 0, off := 0 }, members := [] }

theorem meets_TransfersLandAndFinish_site :
    (∀ dir, let s := (siteUnitState dir aSite).1;
      let q := (siteUnitState dir aSite).2;
      let at_ := siteAt (s.reqSite q) (pageCluster (s.launch 0) (s.copy 0 1) (s.reqSite q).page) (64 * (q.pkt.toNat / 2 ^ 87 % 2 ^ 16 + 0));
      s.req 9 = some q ∧ pktSite q.pkt = true ∧ q.pkt.toNat / 2 ^ 103 % 256 = 3 ∧ s.reqSite q = aSite ∧ at_ = (0, 0) ∧ pktDir q.pkt = dir
        ∧ aTlb.frame + (q.remote 0 - 65536 * aTlb.page) = 0x10040 ∧ (s.launch q.launch).stage = .running ∧ (s.cluster 0).shut = false
        ∧ (s.cluster 0).launch = some q.launch ∧ (s.slot q.slot).launch = q.launch ∧ (s.slot q.slot).bound = true ∧ (s.slot q.slot).ended = false
        ∧ s.phase = .finish ∧ s.bankFree 0 true = true ∧ s.seqWaits 0 = false
        ∧ (s.atBanks 2 (.unit 9 0) 0 (bankNodes [0x10040 / 64])).1 = true
        ∧ ({ s with cycle := 16 }.atBanks 2 (.unit 9 0) 0 (bankNodes [0x10040 / 64])).1 = false
        ∧ ({ s with phase := .start } : State).phase ≠ .finish
        ∧ elemRegion 0 = q.region ∧ s.stamps = [] ∧ aSite.slip = 0 ∧ (s.elem 0).tagAt 3 (shareOf aSite 0).lw 0 = none)
      ∧ (let s := (siteUnitState false aSite [(0x10040 / 64, { launch := 0, site := 4, w := true })]).1;
        s.stamps.find? (·.1 == 0x10040 / 64) = some (0x10040 / 64, { launch := 0, site := 4, w := true }) ∧ aSite.slip = 0)
      ∧ (let x : Site := { aSite with slip := 1 };
        let s := (siteUnitState false x [] [(1, fullWatch)]).1;
        x.slip ≠ 0 ∧ (s.elem 0).tagAt 3 (shareOf x 0).lw 0 = none ∧ 32 ≤ (look [] (s.launch 0).watches x.slip).length
          ∧ ∀ w ∈ look [] (s.launch 0).watches x.slip, w.tag ≠ { space := 0, off := 0x10040 }) := by decide

/-- A unit whose page stands in no entry of the buffer: at the root, whose entry points at a table, and at an entry that faults. -/
def walkState (root : List Host.Cell) : State := { unitState (aUnit false) [] with cycle := 24, mem := root }
theorem meets_TransfersLandAndFinish_walk :
    (let s := walkState [(0, 0x03), (1, 0x10)];
      let q := aUnit false;
      s.req 9 = some q ∧ (∀ e ∈ (s.slice q.slice).tlb, False) ∧ look (0, s.xlatBase.toNat, true) q.walks 0 = (0, 0, true)
        ∧ (walkPath q.saggar 0 (q.remote 0))[0]? = some (0, rootLevel) ∧ inHbm 0 8 = true
        ∧ (let b := s.atBanks 1 (.unit 9 0) 0 (if inHbm 0 8 || inSlices 0 8 then bankNodes [0] else []);
          b.1 = true ∧ b.2.tableEntry 0 = some 0x1003 ∧ rootLevel.step true (some 0x1003) = .inr (0x1000, true))
        ∧ ({ s with cycle := 16 }.atBanks 1 (.unit 9 0) 0 (if inHbm 0 8 || inSlices 0 8 then bankNodes [0] else [])).1 = false)
      ∧ (let s := walkState [];
        (s.atBanks 1 (.unit 9 0) 0 (bankNodes [0])).2.tableEntry 0 = some 0 ∧ rootLevel.step true (some 0) = .inl .fault)
      ∧ (∃ f, ({ hi := 20, lo := 16, mayLeaf := true, allLeaf := true, below := 16 } : Level).step true (some 0x10003) = .inl (.leaf f 16 true))
      ∧ (∃ f, ({ hi := 20, lo := 16, mayLeaf := true, allLeaf := true, below := 16 } : Level).step true (some 0x10001) = .inl (.leaf f 16 false)) := by
  refine ⟨by decide, by decide, ⟨0x10000, by decide⟩, ⟨0x10000, by decide⟩⟩

/-- The slot under a wait. -/
def waitState (w : Wait) (sl : Slot := aSlot) : State :=
  { aState { sl with wait := w } with points := [(5, aPoint)], regions := [(0, { copies := [aCopy []], handles := [(1, { st := .full })] })] }

theorem meets_WaitsEnd :
    (let s := waitState (.rv 5 (some 16));
      (s.slot 0).wait = .rv 5 (some 16) ∧ s.cycle < 17 ∧ 16 ≤ s.cycle ∧ (s.point (s.target 0 5).1 (s.target 0 5).2).gone = false
        ∧ ({ s with points := [(5, { aPoint with gone := true })] } : State).point 0 5 = { aPoint with gone := true })
      ∧ (let s := waitState (.handle 1 (some 16));
        ((s.handle 0 1).st = .free ∨ (s.handle 0 1).owner = 0) ∧ (s.handle 0 1).err = false
          ∧ ({ st := .full, err := true } : Handle).err = true
          ∧ ¬ (({ st := .full, owner := 1 } : Handle).st = .free ∨ ({ st := .full, owner := 1 } : Handle).owner = 0))
      ∧ (let s := waitState (.fence 5 8);
        s.fenceDone 0 5 8 = true ∧ (s.slot 0).wayErr = false ∧ (aState fenceSlot).fenceDone 0 0 10 = false
          ∧ ({ fenceSlot with wayErr := true } : Slot).wayErr = true)
      ∧ (let s := waitState (.away 5 .query);
        s.pointLives (s.target 0 5) = true ∧ waitDone (s.point 0 5).ph 6 = true ∧ waitDone (s.point 0 5).ph 7 = false
          ∧ (s.slot 0).wait = .away 5 .query ∧ ({ s with points := [(5, { aPoint with gone := true })] } : State).pointLives (s.target 0 5) = false
          ∧ ((waitState (.away 5 .arrive)).slot 0).wait = .away 5 .arrive ∧ arrival 7 (s.point 0 5) = some { aPoint with arr := 2 })
      ∧ (let r : Raised := { num := 84, kind := 0, at_ := 15 };
        let s := waitState .none { aSlot with raised := [r] };
        (s.slot 0).bound = true ∧ (s.slot 0).ended = false ∧ (s.slot 0).awaiting s.cycle = false ∧ (s.launch 0).halted = false
          ∧ (s.slot 0).raised = [r] ∧ r.at_ < s.cycle ∧ s.cycle ≤ ({ r with at_ := 16 } : Raised).at_)
      ∧ (let s := waitState (.csync 0 4);
        s.mayCsync 0 = true ∧ (s.slotKeys 0).Nodup ∧ (waitState .none).mayCsync 0 = false)
      ∧ (let s := { waitState (.csync 0 4) { aSlot with held := true } with cycle := 2 ^ 32 + 4 };
        (∃ k ∈ s.slotKeys 0, (s.slot k).held = true) ∧ (s.slot 0).wait = .csync 0 4 ∧ 4 + 2 ^ 32 ≤ s.cycle)
      ∧ (let s := { waitState (.rv 5 (some 0)) with cycle := 248, regions := [(0, { gatedSeq := true })] };
        (s.region 0).gatedSeq = true ∧ 0 + 248 ≤ s.cycle ∧ (s.slot (slotKey 0 0)).wait = .rv 5 (some 0)) := by
  refine ⟨by decide, by decide, by decide, by decide, by decide, by decide, by decide, by decide⟩

/-- Region 0 with cell 0 in domain 0, whose step falls on cycle 16, and a patch of two words at its end. -/
def stepCell : Cell := { y := 5, r := 1, patch := 0x0008000000000000 }
def aPatched (p : Word) : Due := { at_ := 16, rank := 139, region := none, act := .inr (.patched 0 510 [0, p]) }
def dState (left : Nat) (p : Word) (run1 : Bool := false) (w : Wait := .none) : State :=
  { aState { aSlot with wait := w } with
    agenda := [aPatched p]
    regions := [(0, { cells := [(0, stepCell)], doms := [(0, { running := true, left := left, next := 16, period := 3 }), (1, { running := run1 })] })] }

theorem meets_TheDdaSteps :
    (let s := dState 2 0;
      ((s.region 0).dom 0).running = true ∧ ((s.region 0).dom 0).left ≠ 0 ∧ ((s.region 0).dom 0).next = s.cycle ∧ s.ecc = []
        ∧ (((s.region 0).cells).map (·.1)).Nodup ∧ ∀ e ∈ (s.region 0).cells, domOf e.2.patch = 0 → -(2 ^ 32) < ddaY (s.region 0) e.2 ∧ ddaY (s.region 0) e.2 < 2 ^ 32)
      ∧ DdaRuns (dState 2 0) 0
      ∧ ((dState 0 0).region 0).dom 0 = { running := true, left := 0, next := 16, period := 3 }
      ∧ (let f (s : State) := s.agenda.find? fun d => match d.act with | .inr (.patched k _ _) => k == 0 && decide (d.at_ ≤ s.cycle) | _ => false;
        f (dState 2 0) = some (aPatched 0) ∧ (aPatched 0).act = .inr (.patched 0 510 [0, 0]))
      ∧ (patchOk 0x4000000000000000 = true ∧ patchOk 0 = true ∧ patchOk 1 = false)
      ∧ ((((dState 2 0).region 0).dom (domOf 0)).running = true
        ∧ (((dState 2 0x4000000000000000).region 0).dom (domOf 0x4000000000000000)).running = false
        ∧ (((dState 2 0x4000000000000000).region 0).dom (domOf 0x4000000000000000)).steppedAt ≠ some 16
        ∧ (((dState 2 0x4000000000000000 true).region 0).dom (domOf 0x4000000000000000)).running = true)
      ∧ (16764864 % 64 = 0 ∧ 16764864 + 12352 ≤ 2 ^ 24)
      ∧ (((dState 2 0 false (.save 0 192)).slot 0).wait = .save 0 192 ∧ ((dState 2 0 false (.save 0 193)).slot 0).wait = .save 0 193
        ∧ (let s := { dState 2 0 false (.save 0 0) with cycle := 24 };
          (s.launch (s.slot 0).launch).halted = false ∧ (s.atBanks 1 (.save 0) 0 (bankNodes [homePa 0 (0 + 64 * 0) / 64])).1 = true
            ∧ ({ s with cycle := 16 }.atBanks 1 (.save 0) 0 (bankNodes [homePa 0 (0 + 64 * 0) / 64])).1 = false)
        ∧ ((dState 2 0 false (.restore 0)).slot 0).wait = .restore 0
        ∧ (dState 2 0).phase = .start ∧ ({ dState 2 0 with phase := .beat } : State).phase ≠ .start
        ∧ (dState 2 0).stepsDue 0 = false ∧ ({ dState 2 0 with agenda := [{ at_ := 16, rank := 10, region := some 0, act := .inl (.ddaStep 0 0) }] } : State).stepsDue 0 = true)
      ∧ imageOk ((dState 2 0).homeRead 0 0 12352) = true
      ∧ (∀ j < 512, -2 ≤ (((dState 2 0).region 0).cell j).latch ∧ (((dState 2 0).region 0).cell j).latch ≤ 1
        ∧ ∀ v ∈ (((dState 2 0).region 0).cell j).pend.toList, -2 ≤ v ∧ v ≤ 1) := by
  refine ⟨by decide, ?_, by decide, ⟨rfl, rfl⟩, by decide, by decide, by decide, by decide,
    zeros_imageOk (zeros_homeRead (s := dState 2 0) rfl rfl _ _ _), by decide +kernel⟩
  intro l h
  simp [dState, State.region, look] at h

/-- A cell at the edge of its range, increments that meet a counter, and overruns of which the second is of the lowest cell. -/
def edgeState : State :=
  { dState 2 0 with
    agenda := []
    regions := [(0, { cells := [(0, { y := 2 ^ 32 - 1, patch := 0x0008000000000040 }), (7, { pend := #v[1, 1, 0, 0] })],
                      doms := [(0, { running := true, left := 2, next := 16, period := 3, starter := some 0 })],
                      overruns := [(9, 0, 3), (7, 2, 0), (7, 1, 4)] })] }
theorem meets_TheDdaSteps_overruns :
    (∀ e ∈ edgeState.agenda, ∀ l, e.act ≠ .inr (.ddaEmit 0 l))
      ∧ (let c := (edgeState.region 0).cell 7;
        (c.pend.toList).getD 0 0 ≠ 0 ∧ (c.pend.toList).getD 1 0 + 1 = 2 ∧ (c.pend.toList).getD 2 0 = 0 ∧ (0 : Int) + 1 ≠ 2 ∧ (0 : Int) + 1 ≠ -2)
      ∧ ((edgeState.region 0).overruns = [(9, 0, 3)] ++ (7, 2, 0) :: [(7, 1, 4)] ∧ 7 < 9 ∧ 7 ≤ 7)
      ∧ (((edgeState.region 0).dom 0).starter = some 0 ∧ ((edgeState.region 0).dom 1).starter = none
        ∧ (edgeState.slot 0).bound = true ∧ (edgeState.slot 0).ended = false ∧ (edgeState.region 0).ddaErr.getLsbD 0 = false)
      ∧ ((edgeState.region 0).cells.find? (fun e => domOf e.2.patch == 0
          && !decide (-(2 ^ 32) < ddaY (edgeState.region 0) e.2 ∧ ddaY (edgeState.region 0) e.2 < 2 ^ 32))).isSome = true := by
  refine ⟨by simp [edgeState], by decide, by decide, by decide, by decide⟩

theorem meets_HostsAndPeersAct :
    (let s := portState openPort openLaunch;
      (∀ p < 16, ∀ q < 16, ∀ l ∈ [5], (s.port p).stream = some l → (s.port q).stream = some l → p = q)
        ∧ (let t := portState {} { stage := .closed };
          ∀ e ∈ t.launches, e.2.host = .A ∧ t.launch e.1 = e.2 ∧ (∀ p < 16, (t.port p).stream ≠ some e.1) ∧ e.2.stage = .closed)
        ∧ ∀ e ∈ (aState aSlot).launches, e.2.host = .A ∧ (aState aSlot).launch e.1 = e.2
          ∧ (∀ p < 16, ((aState aSlot).port p).stream ≠ some e.1) ∧ e.2.stage = .running)
      ∧ (let s := { State.reset with memwin := [(7, 0x8000000400000001)] };
        HostPort.A ∉ s.hostDown ∧ 0x3FFFFFC0 % 64 = 0 ∧ memwinAddr s.memwin 0x3FFFFFC0 (List.range 8) = some 0x7FFFFFC0
          ∧ memwinAddr s.memwin 0x40000000 (List.range 8) = none ∧ HostPort.A ∈ ({ s with hostDown := [.A] } : State).hostDown)
      ∧ (let s := { State.reset with peerStat := [(15, 0x8000000000000000)], peerSeq := [(15, 9)] };
        (look 0 s.peerStat 15).toNat / 2 ^ 62 = 2 ∧ (look 0 s.peerStat 14).toNat / 2 ^ 62 ≠ 2 ∧ look 0 s.peerSeq 15 = 9
          ∧ ∀ q ∈ s.reqs, q.st = .running → pktSpace q.pkt ≠ 16 + 15)
      ∧ (HostPort.A ∉ State.reset.hostDown ∧ (0x1FFFFFFFFFFFFFFF#64).toNat / 2 ^ 61 = 0 ∧ (∃ i, hostWrite .A 0x46008 [1, 0, 0, 0] = [i])
        ∧ (∃ i, hostWrite .B 0x20000 [0, 0, 0, 0x40] = [i]) ∧ hostWrite .B 0x10FC4 [0, 0, 0, 0] = [])
      ∧ inHbm ((hbmBytes - 1) / 64 * 64) 64 = true ∧ 0x4A260 ≤ 0x4A260 := by
  refine ⟨by decide, by decide, by decide, ⟨by decide, by decide, ⟨_, rfl⟩, ⟨_, rfl⟩, by decide⟩, by decide, by decide⟩

/-- A link with two flits out; a flit in order, one out of order, one that acknowledges the second flit, and one that asks for both
again; a snoop and accesses of one cycle. -/
def linkState : State :=
  { State.reset with peerStat := [(15, 0x8000000000000000)], peerSeq := [(15, 9)], peerSent := [(15, [{ seq := 4, ack := 0 }, { seq := 5, ack := 0 }])] }
theorem meets_HostsAndPeersAct_flits :
    (look [] linkState.peerSent 15 = [{ seq := 4, ack := 0 }, { seq := 5, ack := 0 }] ∧ look 0 linkState.peerSeq 15 = 9)
      ∧ (let f : Flit := { seq := 9, ack := 5, type := 3 };
        f.replays = 0 ∧ f.crcOk = true ∧ f.seq = 9 ∧ f.type ≠ 1 ∧ f.type ≠ 2 ∧ (look [] linkState.peerSent 15).findIdx? (fun g => g.seq == f.ack) = some 1)
      ∧ (look [] linkState.peerSent 15).findIdx? (fun g => g.seq == 3) = none
      ∧ ({ seq := 8, ack := 0 } : Flit).seq ≠ 9 ∧ ({ seq := 9, ack := 0, crcOk := false } : Flit).crcOk = false ∧ 16 ≤ ({ seq := 9, ack := 0, replays := 16 } : Flit).replays
      ∧ (linkState.memBad 0x40 64 = false ∧ ({ linkState with ecc := [(.hbm 1, .double)] } : State).memBad 0x40 64 = true) := by decide +kernel

theorem meets_HostsAndPeersAct_cycle :
    ∃ t u, State.reset.hostAccess (.read .A 0) = .next t ∧ t.hostAccess (.read .B 0) = .next u ∧ (HostAccess.read .B 0).host = .B
      ∧ (HostAccess.read .A 0).host = .A := ⟨_, _, rfl, rfl, rfl, rfl⟩

theorem meets_TheModuleActs :
    (State.reset.fwRunning = false ∧ ({ State.reset with fwRunning := true } : State).fwRunning = true)
      ∧ (3 < 4 ∧ 4 ≤ (4#8).toNat ∧ (7#8).toNat ≤ 7 ∧ 7 < (8#8).toNat)
      ∧ State.reset.trustAttest ≠ 1 ∧ ({ State.reset with trustAttest := 1 } : State).trustAttest = 1
      ∧ (∀ e ∈ (aState aSlot).launches, (aState aSlot).launch e.1 = e.2 ∧ e.2.stage = .running)
      ∧ (∀ e ∈ (portState {} { stage := .closed }).launches, (portState {} { stage := .closed }).launch e.1 = e.2 ∧ e.2.stage = .closed)
      ∧ State.reset.ecc = [] := by decide

/-- Cluster 0 as given, at cycle 1,024. -/
def cluState (c : Cluster) : State := { aState aSlot with cycle := 1024, clusters := [(0, c)] }
def accused (n : Nat) : List (Nat × VoterState) := (List.range 4).map fun i => (i, if i < n then .accusing else .suspect 3)

theorem meets_VotersFenceAndReadmit :
    ((({} : Cluster).launch = none ∧ ({} : Cluster).fencedAt = none)
        ∧ (let c : Cluster := { gated := false, wakeAt := some 768 };
          c.gated = false ∧ 768 + 256 ≤ (cluState c).cycle ∧ 1024 < 769 + 256 ∧ c.fencedAt = none ∧ (cluState c).cycle % 1024 = 8 * (0 % 128)
            ∧ c.beatAt ≠ some (cluState c).cycle ∧ ({ c with beatAt := some 1024 } : Cluster).beatAt = some (cluState c).cycle
            ∧ ({ cluState c with cycle := 1032 } : State).cycle % 1024 ≠ 8 * (0 % 128)))
      ∧ (let c : Cluster := { voters := accused 3 };
        c.voters.find? (·.1 == sideIdx .west) = some (sideIdx .west, .suspect 3) ∧ (cluState c).voterRuns 0 .west = true
          ∧ nextVoter (.suspect 3) .miss = none ∧ nextVoter (.suspect 3) .onTime = some .trusting
          ∧ ((cluState c).cycle + 1024 - 8 * (0 % 128)) / 1024 + 1 = 3 ∧ look 0 c.missed (sideIdx .west) ≠ 3
          ∧ look 0 ({ c with missed := [(sideIdx .west, 3)] } : Cluster).missed (sideIdx .west) = 3)
      ∧ (let s := cluState { voters := accused 3, votes := [(1100, 8)] };
        (s.cluster 0).fencedAt = none ∧ s.accusers 0 ≠ 0 ∧ ∀ v ∈ (s.cluster 0).votes, v.1 ≠ s.cycle + 128)
      ∧ (let c : Cluster := { votes := [(1024, 14)] };
        c.votes = (1024, 14) :: [] ∧ 14 < 16 ∧ 1023 < 1024 ∧ 1024 ≤ (cluState c).cycle ∧ 3 ≤ bitsSet 14 ∧ bitsSet 6 < 3
          ∧ (cluState c).voterRuns 0 .north = true ∧ ({} : Cluster).votes = [])
      ∧ (let c : Cluster := { votes := [(1024, 14)], launch := some 0 };
        c.launch = some 0 ∧ (∀ k ∈ (cluState c).slotKeys 0, ((cluState c).slot k).bound = true) ∧ ∀ e ∈ (cluState c).slots, e.2.ended = false)
      ∧ (let c : Cluster := { fencedAt := some 9, fence0 := 0x40C0000000000000 };
        c.fencedAt ≠ none ∧ fState c.fence0 = 1 ∧ fAppeals c.fence0 = 3 ∧ fAppeals 0x4080000000000000 < 3 ∧ fState 0x4080000000000000 = 1
          ∧ fState 0x8080000000000000 = 2 ∧ ∀ d, (cluState c).voterRuns 0 d = true)
      ∧ 0 ∈ ({ cluState {} with regions := [(0, { copies := [aCopy []] })], launches := [(0, { aLaunch with cc0 := 1, moveBy := some 2000 })], agenda := [{ at_ := 1024, rank := 9, region := none, act := .inl (.move 0 0 0) }] } : State).plannedOn 0 := by
  refine ⟨by decide, by decide, by decide, by decide, by decide, ⟨by decide, by decide, by decide, by decide, by decide, by decide, ?_⟩, by decide⟩
  intro d
  cases d <;> decide

theorem nodeRead_append (s : State) (m n : Nat) : ∀ a, s.nodeRead a (m + n) = s.nodeRead a m ++ s.nodeRead (a + m) n := by
  induction m with
  | zero => simp [State.nodeRead]
  | succ m ih =>
    intro a
    rw [Nat.succ_add_eq_add_succ, Nat.add_succ]
    simp only [State.nodeRead, List.cons_append]
    rw [ih, Nat.add_right_comm, Nat.add_assoc a m 1]

theorem nodeRead_zeros {s : State} (m : Nat) : ∀ a, (∀ k, a ≤ k → k < a + m → s.nodeByte k = 0) → s.nodeRead a m = List.replicate m 0 := by
  induction m with
  | zero => exact fun _ _ => rfl
  | succ m ih =>
    intro a h
    rw [State.nodeRead, h a (Nat.le_refl _) (by omega), ih (a + 1) fun k h1 h2 => h k (by omega) (by omega)]
    rfl

theorem nodeRead_length (s : State) (n : Nat) : ∀ a, (s.nodeRead a n).length = n := by
  induction n with
  | zero => exact fun _ => rfl
  | succ n ih => exact fun a => by rw [State.nodeRead, List.length_cons, ih]

/-- Region 0 under a halt or not, with its registers as given. -/
def preState (w : Word) (halted : Bool) (l : Launch := { aLaunch with halted := true }) : State :=
  { aState aSlot with launches := [(0, l)], clusters := [(0, { launch := some 0 })]
                      regions := [(0, { copies := [aCopy []], preempt := w, halted := halted, thalt := 11, haltAt := 2 })] }
def copyState (w : Word) : State :=
  { preState 0x0200000000000000 true with
    regions := [(0, { copies := [aCopy []], preempt := 0x0200000000000000, halted := true, pagecopy0 := w })] }

theorem resume_admits :
    (preState 0x0200000000000000 true).resumeFault 0 0 ((preState 0x0200000000000000 true).homeRead 0 0 haltBytes) = none := by
  have h := zeros_homeRead (s := preState 0x0200000000000000 true) rfl rfl 0 0 haltBytes
  have hb : (preState 0x0200000000000000 true).homeBad 0 0 haltBytes = false := by
    simp [State.homeBad, State.memBad, preState, aState, State.reset]
  have hs : (preState 0x0200000000000000 true).hasSwap 0 = false := by decide
  rw [State.resumeFault, zeros_haltReserved h, zeros_imageOk (h.slice _ _), hb, hs]
  rfl
theorem resume_refuses : (preState 0x0200000000000000 true).resumeFault 0 16773120 [] = some 10 := by decide

/-- A halt image whose first domain record has a reserved bit set. -/
def badImage : State := { preState 0x0200000000000000 true with mem := [(homePa 0 8256, 1)] }

theorem badImage_byte (off k : Nat) (_ : off < 8256) : badImage.nodeByte (homePa 0 off + k) = if off + k = 8256 then 1 else 0 := by
  have e : badImage.nodeByte (homePa 0 off + k) = look 0 [(homePa 0 8256, (1 : Byte))] (homePa 0 off + k) := rfl
  have i : homePa 0 8256 = homePa 0 off + k ↔ off + k = 8256 := by
    simp only [homePa, homeSlice, sliceBytes, sliceBase]
    omega
  rw [e, look]
  exact if_congr i rfl rfl

theorem badImage_read : ∃ A r, badImage.homeRead 0 0 haltBytes = A ++ (1 :: r) ∧ Zeros A ∧ A.length = 8256 := by
  have e : badImage.homeRead 0 0 haltBytes = (List.range 129 ++ 129 :: (List.range 304).map (130 + ·)).flatMap fun i =>
      badImage.nodeRead (homePa 0 (0 + 64 * i)) (Nat.min 64 (haltBytes - 64 * i)) := by
    have : List.range (ceilDiv haltBytes 64) = List.range 129 ++ 129 :: (List.range 304).map (130 + ·) := by decide +kernel
    rw [State.homeRead, this]
  have hw : ∀ i ∈ List.range 129, Nat.min 64 (haltBytes - 64 * i) = 64 := by
    intro i h
    have := List.mem_range.mp h
    simp only [haltBytes]
    exact Nat.min_eq_left (by omega)
  rw [e, List.flatMap_append, List.flatMap_cons]
  have hf : badImage.nodeRead (homePa 0 (0 + 64 * 129)) (Nat.min 64 (haltBytes - 64 * 129)) = 1 :: badImage.nodeRead (homePa 0 8256 + 1) 63 :=
    congrArg (· :: badImage.nodeRead (homePa 0 8256 + 1) 63) (by decide : badImage.nodeByte (homePa 0 8256) = 1)
  rw [hf, List.cons_append]
  refine ⟨_, _, rfl, ?_, ?_⟩
  · intro x m
    obtain ⟨i, hi, m⟩ := List.mem_flatMap.mp m
    rw [hw i hi, nodeRead_zeros 64] at m
    · exact (List.mem_replicate.mp m).2
    · intro k h1 h2
      have := List.mem_range.mp hi
      obtain ⟨d, rfl⟩ := Nat.le.dest h1
      rw [badImage_byte _ d (by omega), if_neg (by omega)]
  · rw [List.length_flatMap, List.map_congr_left (g := fun _ => 64) fun i hi => by rw [hw i hi, nodeRead_length]]
    simp

theorem resume_refuses_dda : badImage.resumeFault 0 0 (badImage.homeRead 0 0 haltBytes) = some 68 := by
  obtain ⟨A, r, e, hA, hl⟩ := badImage_read
  have hs (n k : Nat) (h : n + k ≤ 8256) : Zeros (Sys2Proof.slice (A ++ (1 :: r)) n k) := by
    intro x m
    refine hA x ?_
    rw [Sys2Proof.slice, List.drop_append_of_le_length (by omega), List.take_append_of_le_length (by simp; omega)] at m
    exact List.mem_of_mem_drop (List.mem_of_mem_take m)
  have hr : haltReserved (A ++ (1 :: r)) = true := by
    simp only [haltReserved, Bool.and_eq_true, List.all_eq_true, beq_iff_eq]
    refine ⟨fun x m => hs _ _ (by decide) x m, fun i hi j hj => ?_⟩
    have := List.mem_range.mp hi
    have := List.mem_range.mp hj
    have : recWord (A ++ (1 :: r)) (64 + 1024 * i + 8 * j) = 0 := by rw [recWord, (hs _ _ (by omega)).num]; rfl
    rw [this]
    exact BitVec.zero_and
  have hi : imageOk (Sys2Proof.slice (A ++ (1 :: r)) 8256 imageBytes) = false := by
    have hd : Sys2Proof.slice (Sys2Proof.slice (A ++ (1 :: r)) 8256 imageBytes) (16 * 0) 16 = 1 :: r.take 15 := by
      rw [Sys2Proof.slice, Sys2Proof.slice, List.drop_left' hl]
      simp [imageBytes, List.take_take]
    have hx : (field (imgDom (Sys2Proof.slice (A ++ (1 :: r)) 8256 imageBytes) 0) 63 0 == 0) = false := by
      rw [imgDom, hd]
      simp only [natOfBytes, field]
      simp
      omega
    rw [imageOk]
    simp only [Bool.and_eq_false_iff, List.all_eq_false]
    exact .inl ⟨0, by decide, by rw [hx, Bool.false_and]; decide⟩
  have hb : badImage.homeBad 0 0 haltBytes = false := by
    simp [State.homeBad, State.memBad, badImage, preState, aState, State.reset]
  rw [State.resumeFault, e, hr, hi, hb]
  rfl


/-! A page image of zeros that closes with their CRC-32. -/

theorem crcBit_lt {c : Nat} (h : c < 2 ^ 32) : crcBit c < 2 ^ 32 := by
  unfold crcBit
  split
  · exact Nat.xor_lt_two_pow (by omega) (by decide)
  · omega

theorem crcByte_lt {c : Nat} (b : Byte) (h : c < 2 ^ 32) : crcByte c b < 2 ^ 32 := by
  have : ∀ (l : List Nat) (c : Nat), c < 2 ^ 32 → l.foldl (fun c _ => crcBit c) c < 2 ^ 32 := by
    intro l
    induction l with
    | nil => exact fun _ h => h
    | cons _ l ih => exact fun c h => ih _ (crcBit_lt h)
  exact this _ _ (Nat.xor_lt_two_pow h (by have := b.isLt; omega))

theorem crc32_lt (bs : List Byte) : crc32 bs < 2 ^ 32 := by
  have : ∀ (bs : List Byte) (c : Nat), c < 2 ^ 32 → bs.foldl crcByte c < 2 ^ 32 := by
    intro bs
    induction bs with
    | nil => exact fun _ h => h
    | cons b bs ih => exact fun c h => ih _ (crcByte_lt b h)
  exact Nat.xor_lt_two_pow (this bs _ (by decide)) (by decide)

/-- Memory that closes an image of n + 4 bytes at base 0 with the number c. -/
def closedBy (n c : Nat) : List Host.Cell :=
  [(n, BitVec.ofNat 8 c), (n + 1, BitVec.ofNat 8 (c / 2 ^ 8)), (n + 2, BitVec.ofNat 8 (c / 2 ^ 16)), (n + 3, BitVec.ofNat 8 (c / 2 ^ 24))]

theorem image_closes {s : State} {n c : Nat} (hm : s.mem = closedBy n c) (ho : s.memOld = []) (hc : c < 2 ^ 32) :
    s.nodeRead 0 (n + 4) = List.replicate n 0 ++ s.nodeRead n 4 ∧ natOfBytes (s.nodeRead n 4) = c := by
  have hb (k : Nat) : s.nodeByte k = look 0 (closedBy n c) k := by simp [State.nodeByte, hm, ho, memByte, look, memDefault]
  refine ⟨?_, ?_⟩
  · rw [nodeRead_append, Nat.zero_add, nodeRead_zeros]
    intro k _ h
    rw [hb]
    simp only [closedBy, look]
    rw [if_neg (by omega), if_neg (by omega), if_neg (by omega), if_neg (by omega)]
  · have h2 : ¬ n = n + 1 + 1 := by omega
    have h3 : ¬ n = n + 1 + 1 + 1 := by omega
    simp only [State.nodeRead, natOfBytes, hb, closedBy, look]
    simp [h2, h3]
    omega

/-- Region 0 halted with page 0 copied out of a launch, the cluster free, and that image at base 0. -/
def pageIn (n c : Nat) : State :=
  { copyState 0 with mem := closedBy n c, clusters := [], swaps := [(0, ({ launch := some 0 }, (List.range 16).map fun _ => {}))] }

theorem meets_RegionsHaltAndResume_pagecopyIn : ∃ c, let s := pageIn (2 ^ 21 - 4) c
    let v : BitVec 64 := 0xC000000100000000
    let list := (List.range 28).filter fun i => v.getLsbD (32 + i)
    let base := (s.region 0).pagecopy1.toNat / 2 ^ 21 % 2 ^ 31 * 2 ^ 21
    v.toNat / 2 ^ 63 = 1 ∧ v.toNat / 2 ^ 62 % 2 = 1 ∧ cState (s.region 0).pagecopy0 ≠ 1 ∧ pState (s.region 0).preempt = 2 ∧ list = [0] ∧ base = 0
      ∧ (0 + list.length) * 2 ^ 21 ≤ hbmBytes
      ∧ (∀ i < 28, v.toNat / 2 ^ (32 + i) % 2 = 1 → (s.swapAt (28 * 0 + i)).isSome = true ∧ s.freeCluster (28 * 0 + i) = true)
      ∧ ∀ n < list.length, natOfBytes ((s.nodeRead (base + 2 ^ 21 * n) (2 ^ 21)).drop (2 ^ 21 - 4))
          = crc32 ((s.nodeRead (base + 2 ^ 21 * n) (2 ^ 21)).take (2 ^ 21 - 4)) ∧ s.memBad (base + 2 ^ 21 * n) (2 ^ 21) = false := by
  have hw : (2 ^ 21 : Nat) = (2 ^ 21 - 4) + 4 := by norm_num
  generalize 2 ^ 21 - 4 = n at hw ⊢
  generalize hc : crc32 (List.replicate n (0 : Byte)) = c
  have lt : c < 2 ^ 32 := hc ▸ crc32_lt _
  have h := image_closes (s := pageIn n c) (n := n) (c := c) rfl rfl lt
  have hl : ((List.range 28).filter fun i => BitVec.getLsbD (0xC000000100000000 : BitVec 64) (32 + i)) = [0] := by decide
  have hb (k m : Nat) : ((pageIn n c).region 0).pagecopy1.toNat / k % m * k = 0 := by
    have : ((pageIn n c).region 0).pagecopy1 = 0 := rfl
    simp [this]
  have hs : (pageIn n c).swapAt (28 * 0 + 0) = some ({ launch := some 0 }, (List.range 16).map fun _ => {}) := rfl
  have hp : ∀ i < 28, (0xC000000100000000 : BitVec 64).toNat / 2 ^ (32 + i) % 2 = 1 → i = 0 := by decide
  refine ⟨c, by decide, by decide, ?_, ?_, hl, hb _ _, ?_, ?_, ?_⟩
  · show cState 0 ≠ 1
    decide
  · show pState 0x0200000000000000 = 2
    decide
  · rw [hl]; decide
  · intro i hi hv
    obtain rfl := hp i hi hv
    exact ⟨by rw [hs]; rfl, rfl⟩
  · intro m hm
    rw [hl] at hm
    obtain rfl : m = 0 := Nat.lt_one_iff.mp hm
    refine ⟨?_, rfl⟩
    rw [hb, Nat.mul_zero, Nat.zero_add, hw, h.1, List.drop_left' List.length_replicate, List.take_left' List.length_replicate, h.2, hc]

/-- An entry of region 0 frozen by a halt. -/
def frozenDue (a : Instr ⊕ Effect) : Due := { at_ := 12, rank := 100, region := some 0, act := a }

theorem meets_RegionsHaltAndResume_frozen :
    (frozenDue (.inr (.seqStore 0 1 3 504 7 8 19 5))).act = .inr (.seqStore 0 1 3 504 7 8 19 5)
      ∧ (∀ k m n o v w l p, (frozenDue (.inr (.value 0 1 7))).act ≠ .inr (.seqStore k m n o v w l p))
      ∧ ∀ y, (frozenDue (.inr (.value 0 1 7))).act ≠ .inl (.ddaStep 0 y) :=
  ⟨rfl, by simp [frozenDue], by simp [frozenDue]⟩

theorem meets_RegionsHaltAndResume :
    (let s := preState 0 false aLaunch;
      0x8000000000000000 / 2 ^ 61 = 4 ∧ pState (s.region 0).preempt = 0 ∧ (∀ e ∈ s.launches, e.2.region = 0 → e.2.moving = none ∧ e.2.moveBy = none)
        ∧ ∀ d ∈ s.loads, d.region = 0 → d.phase = true ∨ d.fresh = true)
      ∧ (let s := preState 0x0100000000000000 false aLaunch;
        pState (s.region 0).preempt = 1 ∧ (s.region 0).halted = false ∧ s.pendingSwitch 0 = none
          ∧ (∀ e ∈ s.launches, s.launch e.1 = e.2 ∧ e.2.region = 0 ∧ e.2.stage = .running)
          ∧ (preState 0x0100000000000000 false { aLaunch with mstat := 6, committed := true, milestone := 30 }).pendingSwitch 0 = some 30)
      ∧ (let s := preState 0x0100000000000000 true;
        pState (s.region 0).preempt = 1 ∧ (s.region 0).halted = true ∧ s.settling 0 = false ∧ pOffset (s.region 0).preempt + 27775 < 2 ^ 24)
      ∧ 0x4000000000000000 / 2 ^ 61 = 2 ∧ pState 0x0200000000000000 = 2 ∧ 10 < 128
      ∧ (let s := preState 0x0300000000000000 true;
        pState (s.region 0).preempt = 3 ∧ ∀ e ∈ s.launches, s.launch e.1 = e.2 ∧ e.2.region = 0 ∧ e.2.stage ≠ .retired)
      ∧ (let s := preState 0 false aLaunch;
        0x2000000000000000 / 2 ^ 61 = 1 ∧ (s.slot (slotKey 0 0)).bound = true ∧ (s.launch 0).stage = .running ∧ (s.launch 0).terminated = false)
      ∧ (let s := copyState 0;
        pState (s.region 0).preempt = 2 ∧ s.haltedPage 0 = true ∧ s.haltedPage 1 = false ∧ cState 0 ≠ 1 ∧ cState 0x1000000000000000 = 1
          ∧ [0, 27].Nodup ∧ (∀ i ∈ [0, 27], i < 28)
          ∧ s.repliesDue 0 = false ∧ s.swapAt 0 = none ∧ s.freeCluster 0 = false
          ∧ ({ s with swaps := [(0, ({ launch := some 0 }, (List.range 16).map fun _ => {}))] } : State).swapAt 0
            = some ({ launch := some 0 }, (List.range 16).map fun _ => {})) := by decide

/-! ## The machine as a whole -/

/-- One well-formed instruction of each size, at the ends of its fields. -/
theorem meets_EncodingsRoundTrip :
    wellFormed (.add .i32 { colF := 1, colL := 27, a := .nbr .west 47, b := .imm, imm := 0xFFFF }) = true
      ∧ wellFormed (.seqXor 31 0 31) = true ∧ wellFormed (.dpatch 31 500 11) = true ∧ wellFormed .placement = false := by decide

theorem meets_EveryStepKeepsTheInvariant : StateInv State.reset := ⟨rfl, by decide⟩

/-- A slot at its turn before a word of its program, which the store holds at the program's beginning. -/
def turnState : State :=
  { aState aSlot with
    phase := .ctrl 47
    slots := [(376, aSlot)]
    launches := [(0, { aLaunch with region := 47 })]
    regions := [(47, { copies := [aCopy []], store := [(3, 0x02), (2, 0x98), (4, 0x1C)] })] }
/-- A beat at its element. -/
def beatState : State := { aBeat [] with phase := .beat, ctx := {}, flights := [{ aFlight with word := 0x0500118100A000000001 }] }

theorem meets_AStepRunsTheDecodedInstruction :
    (turnState.off = false ∧ turnState.phase = .ctrl 47 ∧ turnState.ecc = []
        ∧ (turnState.slot (8 * 47 + turnState.cycle % 8)).pc.toNat < (turnState.kernelAt (8 * 47 + turnState.cycle % 8)).words)
      ∧ TakesTurn turnState 47
      ∧ (decodeBytes (wordBytes turnState 376) = .ok (.loop 5 6)
        ∧ branchInside (turnState.slot 376).pc.toNat (turnState.kernelAt 376).words (.loop 5 6) = true)
      ∧ (beatState.off = false ∧ beatState.phase = .beat
        ∧ nextBeat beatState.cycle beatState.flights none = some { aFlight with word := 0x0500118100A000000001 }
        ∧ beatState.elemRuns (elemAt 0 0 0) = true)
      ∧ decodeSched 0x0500118100A000000001 = .ok (.add .i32 { colF := 1, colL := 3, a := .nbr .west 0, b := .imm, imm := 1 }) := by
  refine ⟨by decide, ?_, ⟨by rfl, by decide⟩, by decide, by rfl⟩
  refine ⟨by decide, ⟨0, by decide, by decide⟩, by decide, by decide, by decide, by decide, by decide, by decide, by decide, ?_⟩
  exact .inl (by decide)


end Sys2Proof.Tests
end

section
/-! PROOFS. Control words of majors 0 to 3 (07 R117): each form's value in exact arithmetic, and the one register that
it writes. -/

namespace Sys2Proof.Machine

/-! ## What the machine computes on 64 bits is the low 64 bits of an integer -/

theorem low64_toInt (x : Word) : low64 x.toInt = x := BitVec.ofInt_toInt

theorem low64_two_pow (n : Nat) : low64 (2 ^ n) = BitVec.twoPow 64 n := by
  apply BitVec.eq_of_toNat_eq
  rw [low64, BitVec.toNat_twoPow, ← BitVec.toNat_ofNat, ← BitVec.ofInt_natCast]
  norm_cast

theorem add_eq_low64 (x y : Word) : x + y = low64 (x.toInt + y.toInt) := by
  simp [low64, BitVec.ofInt_add]

theorem add_signExtend_eq_low64 (x : Word) (i : BitVec 18) : x + i.signExtend 64 = low64 (x.toInt + i.toInt) := by
  rw [low64, BitVec.ofInt_add, BitVec.ofInt_toInt]
  rfl

theorem sub_eq_low64 (x y : Word) : x - y = low64 (x.toInt - y.toInt) := by
  simp [low64, Int.sub_eq_add_neg, BitVec.ofInt_add, BitVec.ofInt_neg, BitVec.sub_eq_add_neg]

theorem mul_eq_low64 (x y : Word) : x * y = low64 (x.toInt * y.toInt) := by
  simp [low64, BitVec.ofInt_mul]

theorem highWord_mul_toNat (x y : Word) :
    highWord ((x.toNat * y.toNat : Nat) : Int) = low64 ((x.toNat : Int) * y.toNat / 2 ^ 64) := by
  rw [highWord, low64, Nat.cast_mul]

theorem shiftLeft_eq_low64 (x : Word) (n : Nat) : x <<< n = low64 (x.toInt * 2 ^ n) := by
  rw [BitVec.shiftLeft_eq_mul_twoPow, ← low64_two_pow, low64, low64, BitVec.ofInt_mul, BitVec.ofInt_toInt]

theorem ushiftRight_eq_low64 (x : Word) (n : Nat) : x >>> n = low64 ((x.toNat : Int) / 2 ^ n) := by
  have hdiv : (x.toNat : Int) / 2 ^ n = ((x.toNat / 2 ^ n : Nat) : Int) := by push_cast; rfl
  have hlt : x.toNat / 2 ^ n < 2 ^ 64 := Nat.lt_of_le_of_lt (Nat.div_le_self _ _) x.isLt
  apply BitVec.eq_of_toNat_eq
  rw [hdiv, low64, BitVec.ofInt_natCast, BitVec.toNat_ushiftRight, Nat.shiftRight_eq_div_pow, BitVec.toNat_ofNat,
    Nat.mod_eq_of_lt hlt]

theorem sshiftRight_eq_low64 (x : Word) (n : Nat) : x.sshiftRight n = low64 (x.toInt / 2 ^ n) := by
  have hdiv : x.toInt >>> n = x.toInt / 2 ^ n := by simp [Int.shiftRight_eq_div_pow]
  rw [← hdiv]
  rfl

theorem ite_slt_eq_low64_min (x y : Word) : (if y.slt x then y else x) = low64 (min x.toInt y.toInt) := by
  by_cases h : y.toInt < x.toInt
  · simp [BitVec.slt_eq_decide, h, min_eq_right h.le, low64_toInt]
  · simp [BitVec.slt_eq_decide, h, min_eq_left (not_lt.1 h), low64_toInt]

theorem ite_slt_eq_low64_max (x y : Word) : (if x.slt y then y else x) = low64 (max x.toInt y.toInt) := by
  by_cases h : x.toInt < y.toInt
  · simp [BitVec.slt_eq_decide, h, max_eq_right h.le, low64_toInt]
  · simp [BitVec.slt_eq_decide, h, max_eq_left (not_lt.1 h), low64_toInt]

theorem ite_ult_eq_ofNat_min (x y : Word) : (if y.ult x then y else x) = BitVec.ofNat 64 (min x.toNat y.toNat) := by
  by_cases h : y.toNat < x.toNat
  · simp [BitVec.ult_eq_decide, h, min_eq_right h.le]
  · simp [BitVec.ult_eq_decide, h, min_eq_left (not_lt.1 h)]

theorem ite_ult_eq_ofNat_max (x y : Word) : (if x.ult y then y else x) = BitVec.ofNat 64 (max x.toNat y.toNat) := by
  by_cases h : x.toNat < y.toNat
  · simp [BitVec.ult_eq_decide, h, max_eq_right h.le]
  · simp [BitVec.ult_eq_decide, h, max_eq_left (not_lt.1 h)]

/-- The two halves of `lsi` do not overlap, so its OR is a sum. -/
theorem shiftLeft_or_setWidth (x : Word) (i : BitVec 18) :
    (x <<< 18) ||| i.setWidth 64 = BitVec.ofNat 64 (x.toNat % 2 ^ 46 * 2 ^ 18 + i.toNat) := by
  have hi : i.toNat < 2 ^ 18 := i.isLt
  have hlow : (i.setWidth 64).toNat = i.toNat := by
    rw [BitVec.toNat_setWidth, Nat.mod_eq_of_lt (Nat.lt_trans hi (by decide))]
  have hhigh : (x <<< 18).toNat = (x.toNat % 2 ^ 46) <<< 18 := by
    rw [BitVec.toNat_shiftLeft, Nat.shiftLeft_eq, Nat.shiftLeft_eq]; omega
  apply BitVec.eq_of_toNat_eq
  rw [BitVec.toNat_or, hhigh, hlow, ← Nat.shiftLeft_add_eq_or_of_lt hi, Nat.shiftLeft_eq, BitVec.toNat_ofNat]
  omega

theorem holds_eq_compares (c : KCond) (x y : Word) : KCond.holds c x y = compares c x y := by
  cases c with
  | eq => simp only [KCond.holds, compares, BitVec.toNat_inj]; rfl
  | ne => simp only [KCond.holds, compares, ne_eq, decide_not, BitVec.toNat_inj]; rfl
  | lt => exact BitVec.slt_eq_decide
  | ltu => exact BitVec.ult_eq_decide
  | ge => simp [KCond.holds, compares, BitVec.slt_eq_decide, ← decide_not]
  | geu => simp [KCond.holds, compares, BitVec.ult_eq_decide, ← decide_not]

/-! ## A scalar word writes its value and goes on -/

/-- The state after a word that writes one register and goes on. -/
def State.writes (s : State) : Wrote → State
  | .a d v => s.writeA d v
  | .k d v => s.writeK d v

theorem next_writeA (s : State) (d : AReg) {v v' : Word} (h : v = v') :
    (.next (s.writeA d v) : Res) = .next (s.writes (.a d v')) := h ▸ rfl

theorem next_writeK (s : State) (d : KReg) {v v' : Bool} (h : v = v') :
    (.next (s.writeK d v) : Res) = .next (s.writes (.k d v')) := h ▸ rfl

/-- Each form of R117 computes the value that its row of the table names. -/
theorem exec_of_scalarResult {i : Instr} {s : State} {w : Wrote} (h : scalarResult i s.me = some w) :
    exec i s = .next (s.writes w) := by
  cases i with
  | seqAdd d x y => cases h; exact next_writeA s d (add_eq_low64 _ _)
  | seqSub d x y => cases h; exact next_writeA s d (sub_eq_low64 _ _)
  | seqMul d x y => cases h; exact next_writeA s d (mul_eq_low64 _ _)
  | seqMulh d x y => cases h; rfl
  | seqMulhu d x y => cases h; exact next_writeA s d (highWord_mul_toNat _ _)
  | seqAnd d x y => cases h; rfl
  | seqOr d x y => cases h; rfl
  | seqXor d x y => cases h; rfl
  | seqAndn d x y => cases h; rfl
  | seqShl d x y => cases h; exact next_writeA s d (shiftLeft_eq_low64 _ _)
  | seqShr d x y => cases h; exact next_writeA s d (ushiftRight_eq_low64 _ _)
  | seqSra d x y => cases h; exact next_writeA s d (sshiftRight_eq_low64 _ _)
  | seqMin d x y => cases h; exact next_writeA s d (ite_slt_eq_low64_min _ _)
  | seqMax d x y => cases h; exact next_writeA s d (ite_slt_eq_low64_max _ _)
  | seqMinu d x y => cases h; exact next_writeA s d (ite_ult_eq_ofNat_min _ _)
  | seqMaxu d x y => cases h; exact next_writeA s d (ite_ult_eq_ofNat_max _ _)
  | addi d x imm => cases h; exact next_writeA s d (add_signExtend_eq_low64 _ _)
  | andi d x imm => cases h; rfl
  | ori d x imm => cases h; rfl
  | xori d x imm => cases h; rfl
  | shli d x n => cases h; exact next_writeA s d (shiftLeft_eq_low64 _ _)
  | shri d x n => cases h; exact next_writeA s d (ushiftRight_eq_low64 _ _)
  | srai d x n => cases h; exact next_writeA s d (sshiftRight_eq_low64 _ _)
  | li d imm => cases h; rfl
  | lsi d imm => cases h; exact next_writeA s d (shiftLeft_or_setWidth _ _)
  | kcmp c k x y => cases h; exact next_writeK s k (holds_eq_compares _ _ _)
  | kand k x y => cases h; rfl
  | kor k x y => cases h; rfl
  | kxor k x y => cases h; rfl
  | knot k x => cases h; rfl
  | _ => cases h

/-! ## A shift immediate with IMM[17:6] not zero (R102, R103, R117) -/

theorem unpack_maj_toNat (w : CtrlWord) : (CFields.unpack w).maj.toNat = w.toNat / 2 ^ 34 := by
  have hw := w.isLt
  simp only [CFields.unpack, BitVec.extractLsb'_toNat, Nat.shiftRight_eq_div_pow]
  omega

theorem unpack_min_toNat (w : CtrlWord) : (CFields.unpack w).min.toNat = w.toNat / 2 ^ 28 % 64 := by
  simp [CFields.unpack, Nat.shiftRight_eq_div_pow]

theorem unpack_imm_toNat (w : CtrlWord) : (CFields.unpack w).imm.toNat = w.toNat % 2 ^ 18 := by
  simp [CFields.unpack]

theorem immBits_eq_none {imm : BitVec 18} {n : Nat} (h : 2 ^ n ≤ imm.toNat) : immBits imm n = none :=
  if_neg (Nat.not_lt.2 h)

theorem decodeCtrlFields_of_ctrlOf_eq_none {f : CFields} (hmaj : f.maj.toNat < 56)
    (hdef : ctrlDefined f.maj.toNat f.min.toNat = true) (h : ctrlOf f = none) :
    decodeCtrlFields f = .error (.badField .imm) := by
  simp [decodeCtrlFields, Nat.not_le.2 hmaj, hdef, h]

theorem decodeCtrlFields_shiftImm {f : CFields} (hmaj : f.maj.toNat = 1)
    (hmin : f.min.toNat = 9 ∨ f.min.toNat = 10 ∨ f.min.toNat = 11) (himm : 2 ^ 6 ≤ f.imm.toNat) :
    decodeCtrlFields f = .error (.badField .imm) := by
  refine decodeCtrlFields_of_ctrlOf_eq_none (by omega) ?_ ?_
  · obtain h | h | h := hmin <;> rw [hmaj, h] <;> rfl
  · obtain h | h | h := hmin <;> simp only [ctrlOf, hmaj, h, immBits_eq_none himm, Option.map_none]

theorem decodeCtrl_shiftImm {w : CtrlWord} (hs : isShiftImm w = true) (himm : w.toNat / 2 ^ 6 % 2 ^ 12 ≠ 0) :
    decodeCtrl w = .error (.badField .imm) := by
  simp only [isShiftImm, Bool.and_eq_true, beq_iff_eq, decide_eq_true_eq] at hs
  obtain ⟨⟨hmaj, hlo⟩, hhi⟩ := hs
  refine decodeCtrlFields_shiftImm ?_ ?_ ?_
  · rw [unpack_maj_toNat, hmaj]
  · rw [unpack_min_toNat]; omega
  · rw [unpack_imm_toNat]; omega

theorem ctrlWordCheck_of_badField {w : CtrlWord} {e : WfErr} (h : decodeCtrl w = .error (.badField e))
    (used at_ n len : Nat) : ∃ b, ctrlWordCheck used at_ n len w = some b ∧ b.cause = 10 :=
  ⟨_, by simp only [ctrlWordCheck, h]; rfl, rfl⟩

/-- Settles O1: each form writes the value of R117's table (`exec_of_scalarResult`), and a write of one register changes
nothing else (`writeA_spec`, `writeK_spec`); the decoder refuses the immediate of a shift that six bits cannot hold. -/
theorem scalarWordsWriteOneRegister : Obligations.ScalarWordsWriteOneRegister := by
  unfold Obligations.ScalarWordsWriteOneRegister
  refine ⟨fun i s w h => ?_, fun w hs himm => ?_⟩
  · have hexec := exec_of_scalarResult h
    cases w with
    | a d v =>
      obtain ⟨x, hslot, honly, hreg⟩ := writeA_spec s d v
      exact ⟨_, x, hexec, hslot, honly, hreg⟩
    | k d v =>
      obtain ⟨x, hslot, honly, hreg⟩ := writeK_spec s d v
      exact ⟨_, x, hexec, hslot, honly, hreg⟩
  · have hbad := decodeCtrl_shiftImm hs himm
    exact ⟨⟨_, hbad⟩, ctrlWordCheck_of_badField hbad⟩

end Sys2Proof.Machine
end

section
/-! PROOFS. Branches, calls and jumps (07 R118): where the PC goes, and that nothing else changes. -/

namespace Sys2Proof.Machine

/-! ## Branches: the PC moves by a signed count of words -/

theorem branchTo_eq_pcPlus (pc : BitVec 24) (off : BitVec 18) : branchTo pc off = pcPlus pc off.toInt := by
  rw [pcPlus, BitVec.ofInt_add, BitVec.ofInt_natCast, BitVec.ofNat_toNat, BitVec.setWidth_eq]
  rfl

theorem succ_eq_pcPlus (pc : BitVec 24) : pc + 1 = pcPlus pc 1 := by
  simp [pcPlus, BitVec.ofInt_add]

/-- The state after a word that moves the PC by n and changes nothing else. -/
def State.movePc (s : State) (n : Int) : State := s.setMe { s.me with pc := pcPlus s.me.pc n }

theorem branch_eq_movePc (s : State) (taken : Bool) (off : BitVec 18) :
    s.branch taken off = s.movePc (if taken then off.toInt else 1) := by
  cases taken with
  | false => exact congrArg (fun p => s.setMe { s.me with pc := p }) (succ_eq_pcPlus s.me.pc)
  | true => exact congrArg (fun p => s.setMe { s.me with pc := p }) (branchTo_eq_pcPlus s.me.pc off)

theorem branchCmp_eq_movePc (s : State) (c : KCond) (x y : AReg) (off : BitVec 18) :
    s.branchCmp c x y off = s.movePc (if compares c (s.me.areg x) (s.me.areg y) then off.toInt else 1) := by
  rw [State.branchCmp, branch_eq_movePc, holds_eq_compares]

/-- Each branch of R118 moves the PC by the count that its condition picks. -/
theorem exec_of_branchOffset {i : Instr} {s : State} {n : Int} (h : branchOffset i s.me = some n) :
    exec i s = .next (s.movePc n) := by
  cases i with
  | beq x y off => cases h; exact congrArg _ (branchCmp_eq_movePc s .eq x y off)
  | bne x y off => cases h; exact congrArg _ (branchCmp_eq_movePc s .ne x y off)
  | blt x y off => cases h; exact congrArg _ (branchCmp_eq_movePc s .lt x y off)
  | bltu x y off => cases h; exact congrArg _ (branchCmp_eq_movePc s .ltu x y off)
  | bge x y off => cases h; exact congrArg _ (branchCmp_eq_movePc s .ge x y off)
  | bgeu x y off => cases h; exact congrArg _ (branchCmp_eq_movePc s .geu x y off)
  | bk k off => cases h; exact congrArg _ (branch_eq_movePc s (s.me.kreg k) off)
  | bnk k off => cases h; exact congrArg _ (branch_eq_movePc s (!s.me.kreg k) off)
  | j off => cases h; exact congrArg _ (branch_eq_movePc s true off)
  | _ => cases h

/-! ## `call`: the return word, the depth and the target -/

theorem setA_frame (x : Slot) (d : AReg) (v : Word) : x.setA d v = { x with a := (x.setA d v).a } := by
  unfold Slot.setA
  split <;> rfl

theorem returnWord_eq (pc : BitVec 24) : (pc + 1).setWidth 64 = BitVec.ofNat 64 ((pc.toNat + 1) % 2 ^ 24) := by
  rw [← BitVec.ofNat_toNat, BitVec.toNat_add]
  rfl

/-- `call` deepens by one, to at most 255. -/
theorem deeper_toNat (n : BitVec 8) : (if n = 255 then 255 else n + 1).toNat = min (n.toNat + 1) 255 := by
  split
  · subst n; rfl
  · bv_omega

/-- `ret` shallows by one, to at least 0. -/
theorem shallower_toNat (n : BitVec 8) : (if n = 0 then 0 else n - 1).toNat = n.toNat - 1 := by
  split
  · subst n; rfl
  · bv_omega

theorem exec_call (d : AReg) (off : BitVec 18) (s : State) : ∃ t x, exec (.call d off) s = .next t ∧ SlotIs s t s.key x
    ∧ x = { s.me with a := x.a, depth := x.depth, pc := pcPlus s.me.pc off.toInt }
    ∧ x.depth.toNat = min (s.me.depth.toNat + 1) 255
    ∧ ∀ r, x.areg r = if r = d ∧ d ≠ 0 then BitVec.ofNat 64 ((s.me.pc.toNat + 1) % 2 ^ 24) else s.me.areg r := by
  refine ⟨_, _, rfl, slotIs_setMe s _, ?_, deeper_toNat s.me.depth, fun r => ?_⟩
  · rw [← branchTo_eq_pcPlus, setA_frame]
  · rw [← returnWord_eq]
    exact areg_setA s.me d r _

/-! ## `jr` and `ret`: a target inside the program, or a trap -/

theorem jumpTo_of_lt {s : State} {x : AReg} (h : (s.me.areg x).toNat < (s.kernelAt s.key).words) (depth : BitVec 8) :
    s.jumpTo x depth = s.setMe { s.me with pc := (s.me.areg x).setWidth 24, depth := depth } := if_neg (Nat.not_le.2 h)

theorem jumpTo_of_le {s : State} {x : AReg} (h : (s.kernelAt s.key).words ≤ (s.me.areg x).toNat) (depth : BitVec 8) :
    s.jumpTo x depth = s.trapW 32 := if_pos h

theorem exec_jr_inside {s : State} {x : AReg} (h : (s.me.areg x).toNat < (s.kernelAt s.key).words) :
    exec (.jr x) s = .next (s.setMe { s.me with pc := (s.me.areg x).setWidth 24 }) :=
  congrArg _ (jumpTo_of_lt h s.me.depth)

theorem exec_ret_inside {s : State} {x : AReg} (h : (s.me.areg x).toNat < (s.kernelAt s.key).words) :
    exec (.ret x) s = .next (s.setMe { s.me with
      pc := (s.me.areg x).setWidth 24, depth := if s.me.depth = 0 then 0 else s.me.depth - 1 }) :=
  congrArg _ (jumpTo_of_lt h _)

/-- Settles O2: a branch moves the PC by its offset or by 1, `call` writes its return word and deepens, and `ret` and `jr`
take a target inside the program and trap at any other; each sets the slot's own record alone (`slotIs_setMe`). -/
theorem branchesMoveThePc : Obligations.BranchesMoveThePc := by
  unfold Obligations.BranchesMoveThePc
  refine ⟨fun i s n h => ?_, exec_call, fun x s h => ?_, fun x s h => ?_, fun x s h => ?_⟩
  · exact ⟨_, exec_of_branchOffset h, slotIs_setMe s _⟩
  · exact ⟨_, exec_jr_inside h, slotIs_setMe s _⟩
  · exact ⟨_, _, exec_ret_inside h, slotIs_setMe s _, rfl, shallower_toNat s.me.depth⟩
  · exact ⟨congrArg _ (jumpTo_of_le h _), congrArg _ (jumpTo_of_le h _)⟩

end Sys2Proof.Machine
end
